-- ==== Sys2Proof/Word.lean ====
section
/-! DEFINITION. The word types of the hardware and their plainest arithmetic (R8, R9). -/

namespace Sys2Proof

/-- A byte of memory. -/
abbrev Byte := BitVec 8

/-- A 64-bit scalar register, address or control register. -/
abbrev Word := BitVec 64

/-- A slot word. -/
abbrev Slot := BitVec 32

/-- A predicate register: 256 bits. -/
abbrev PWord := BitVec 256

/-- A vector register: 2,048 bits. -/
abbrev VWord := BitVec 2048

/-- The bits of FFLAGS. -/
abbrev Flags := BitVec 10

end Sys2Proof
end

