-- ==== Sys2Proof/Syntax.lean ====
section
/-! DEFINITION. The instructions: one constructor per row of the opcode table. The slot instructions carry
their guard and the fields the table gives them, as bits; the STOP bit belongs to the bundle, not to the
instruction (R26, R50). The rows without an encoding are the machine's events: what an agent of the module or
the outside world does in one step; each carries what that agent names. -/

namespace Sys2Proof

/-- A signed image (R354): its bytes and its two signatures. -/
structure Image where
  data  : List Byte
  ecdsa : BitVec 768
  lms   : BitVec 12960
  deriving DecidableEq, Repr

/-- What the kernel loader holds of a task it loaded (R49): its virtual device, its entry, its liveness table,
the glaze words for its group's cores, the handles bound to descriptors before its first bundle. -/
structure LoadTask where
  vdev    : Nat
  entry   : Nat
  live    : Nat
  glaze   : List (Nat × List (BitVec 256))
  streams : List (Nat × Nat)
  deriving DecidableEq, Repr

/-- A saggar manager's start request (R332, R333): the saggar's number, the neutral resources it takes (`groups` slice
groups for each cluster on its die, 0 for three), its OS image, what the manager installs, and what the saggar's OS
sets: each virtual device's stage-1 root and trap base, the slot table, the tasks loaded. -/
structure StartReq where
  num      : Nat
  clusters : List Nat
  groups   : Nat
  quads    : List Nat
  ports    : List Nat
  ns       : BitVec 32
  nsPort   : Nat
  stewards : List Nat
  os       : Image
  s2root   : Nat
  kcb      : Nat
  stopPol  : Bool
  vdevs    : List (Nat × Nat × Word)
  slotTab  : Nat
  loads    : List LoadTask
  deriving DecidableEq, Repr

/-- The images of Table 20.2 in boot order: root-of-trust firmware, module configuration, partition
controller firmware, kiln microcode, steward-core firmware, saggar manager; what saggar 0 starts with, its OS
image among it (R332); whether the HSS state can be advanced (R355). -/
structure Flash where
  rot  : Image
  cfg  : Image
  pc   : Image
  kiln : Image
  stew : Image
  man  : Image
  sag0 : StartReq
  hss  : Bool
  deriving DecidableEq, Repr

/-- The lifecycle of the device (R354, R358): the spec names production and the research enrolment. -/
inductive Lifecycle
  | initial
  | production
  | research
  | other (n : Nat)
  deriving DecidableEq, Repr

/-- A host's write of a doubleword at an offset of an endpoint port's configuration header, or of its second memory
window (R366). -/
structure HostWrite where
  bar2 : Bool
  off  : Nat
  v    : BitVec 32
  deriving DecidableEq, Repr

/-- A debug token (R358). -/
structure DebugToken where
  device : BitVec 128
  life   : Lifecycle
  nonce  : BitVec 384
  perm   : BitVec 32
  ecdsa  : BitVec 768
  lms    : BitVec 12960
  deriving DecidableEq, Repr

/-- A received Ethernet frame without its FCS, and whether the FCS was good (R345, R363). -/
structure Frame where
  bytes : List Byte
  fcsOk : Bool
  deriving DecidableEq, Repr

/-- A received KTP segment (Table 20.7): the sender's address, the header's fields, whether every zero
field is zero, the bytes after the header. -/
structure KtpSeg where
  addr   : BitVec 128
  ver    : BitVec 8
  type   : BitVec 8
  flags  : BitVec 16
  flow   : BitVec 32
  copy   : BitVec 32
  segno  : BitVec 32
  elem   : BitVec 32
  nelem  : BitVec 16
  esize  : BitVec 8
  err    : BitVec 8
  zeroOk : Bool
  body   : List Byte
  deriving DecidableEq, Repr

/-- What the manager writes of a die and saggar's bandwidth registers (Table 19.4): BWTOT or BWCAP. -/
inductive BwWrite
  | tot (v : Word)
  | cap (v : Word)
  deriving DecidableEq, Repr

/-- An instruction: a slot instruction of a bundle, or an event. -/
inductive Instr
  /-- Slot that has no effect, belongs to no class and enters no queue. (R79) -/
  | nop
  /-- Holds the next bundle until the named queues, and the matrix unit when named, have executed every earlier bundle. (R80) -/
  | sync (g : BitVec 3) (m : BitVec 3)
  /-- Writes n to the SLACK register, bounding how far the access and execute queues may lag dispatch. (R81) -/
  | slack (g : BitVec 3) (n : BitVec 6)
  /-- Holds the sequencer's dispatch for 64 physical cycles, leaving the units to the sibling sequencer. (R79) -/
  | pause
  /-- Branches after its bundle to A plus the 22-bit displacement. (R70) -/
  | br (g : BitVec 3) (i : BitVec 22)
  /-- Branches to A plus the displacement, writes the return address to s63 and raises the call level. (R70) -/
  | call (g : BitVec 3) (i : BitVec 22)
  /-- Branches when bit 0 of the named predicate equals the polarity bit. (R71) -/
  | brp (g : BitVec 3) (p : BitVec 4) (o : BitVec 1) (i : BitVec 17)
  /-- Jumps to the address in a scalar register. (R72) -/
  | jr (g : BitVec 3) (a : BitVec 6)
  /-- Jumps to the address in s[a] and writes the link A + L to s[d]. (R72) -/
  | jalr (g : BitVec 3) (d : BitVec 6) (a : BitVec 6)
  /-- Jumps to s63, lowers the call level and pops loops entered at deeper levels. (R72) -/
  | ret (g : BitVec 3)
  /-- Pushes a hardware loop entry with count s[a] and end bundle E, or skips the body when the count is 0. (R74) -/
  | loop (g : BitVec 3) (a : BitVec 6) (i : BitVec 16)
  /-- Closes an iteration of the current loop, returning to S or popping the loop. (R75) -/
  | lend
  /-- Closes an iteration as LEND does and lowers RRB by 1 mod 16. (R75) -/
  | lendr
  /-- Pops the current loop and continues after its end bundle. (R76) -/
  | lbrk (g : BitVec 3)
  /-- Writes the iteration index of the loop entry at the given level, or all ones when absent. (R78) -/
  | lidx (g : BitVec 3) (d : BitVec 6) (l : BitVec 6)
  /-- Reads a control register into a scalar register. (R274) -/
  | csrr (g : BitVec 3) (c : BitVec 12) (s : BitVec 6)
  /-- Writes a scalar register to a control register, for registers without a write behaviour of their own. (R274) -/
  | csrw (g : BitVec 3) (c : BitVec 12) (s : BitVec 6)
  /-- Sets the control-register bits given by a scalar. (R274) -/
  | csrs (g : BitVec 3) (c : BitVec 12) (s : BitVec 6)
  /-- Clears the control-register bits given by a scalar. (R274) -/
  | csrc (g : BitVec 3) (c : BitVec 12) (s : BitVec 6)
  /-- Commits its bundle and then takes trap 0x1D with the code as TVAL and the next bundle as TADDR. (R275) -/
  | trap (g : BitVec 3) (c : BitVec 12)
  /-- Returns from a K-mode handler to TADDR in the mode recorded by TCAUSE.PK. (R276) -/
  | eret (g : BitVec 3)
  /-- Holds dispatch until a named event-pending bit is set and clears the named bits at commit. (R277) -/
  | waitev (g : BitVec 3) (c : BitVec 12)
  /-- Raises breakpoint trap 0x1C at its own bundle. (R275) -/
  | brkpt (g : BitVec 3) (c : BitVec 12)
  /-- Invalidates stage-1 translations, inserts markers in every copy channel and waits for acknowledgement. (R278) -/
  | tlbinv (g : BitVec 3) (c : BitVec 12) (s : BitVec 6)
  /-- Writes back dirty bytes and invalidates the core's fetched copies of a page or of all pages. (R280) -/
  | icinv (g : BitVec 3) (s : BitVec 6)
  /-- Ends the task after commit and matrix completion, releasing at pa, unbinding handles and freeing the sequencer. (R281) -/
  | exit (g : BitVec 3)
  /-- Saves the task's context and gives the sequencer back to the kiln. (R282) -/
  | yield (g : BitVec 3)
  /-- Scalar addition mod 2^64. (R82) -/
  | add (g : BitVec 3) (d : BitVec 6) (a : BitVec 6) (b : BitVec 6)
  /-- Scalar subtraction mod 2^64. (R82) -/
  | sub (g : BitVec 3) (d : BitVec 6) (a : BitVec 6) (b : BitVec 6)
  /-- Scalar bitwise AND. (R82) -/
  | and (g : BitVec 3) (d : BitVec 6) (a : BitVec 6) (b : BitVec 6)
  /-- Scalar bitwise OR. (R82) -/
  | or (g : BitVec 3) (d : BitVec 6) (a : BitVec 6) (b : BitVec 6)
  /-- Scalar bitwise XOR. (R82) -/
  | xor (g : BitVec 3) (d : BitVec 6) (a : BitVec 6) (b : BitVec 6)
  /-- Scalar x AND NOT y. (R82) -/
  | andn (g : BitVec 3) (d : BitVec 6) (a : BitVec 6) (b : BitVec 6)
  /-- Scalar shift left by the low six bits of y. (R82) -/
  | shl (g : BitVec 3) (d : BitVec 6) (a : BitVec 6) (b : BitVec 6)
  /-- Scalar logical shift right. (R82) -/
  | shr (g : BitVec 3) (d : BitVec 6) (a : BitVec 6) (b : BitVec 6)
  /-- Scalar arithmetic shift right. (R82) -/
  | sra (g : BitVec 3) (d : BitVec 6) (a : BitVec 6) (b : BitVec 6)
  /-- Scalar rotate left. (R82) -/
  | rot (g : BitVec 3) (d : BitVec 6) (a : BitVec 6) (b : BitVec 6)
  /-- Signed scalar minimum. (R82) -/
  | min (g : BitVec 3) (d : BitVec 6) (a : BitVec 6) (b : BitVec 6)
  /-- Signed scalar maximum. (R82) -/
  | max (g : BitVec 3) (d : BitVec 6) (a : BitVec 6) (b : BitVec 6)
  /-- Unsigned scalar minimum. (R82) -/
  | minu (g : BitVec 3) (d : BitVec 6) (a : BitVec 6) (b : BitVec 6)
  /-- Unsigned scalar maximum. (R82) -/
  | maxu (g : BitVec 3) (d : BitVec 6) (a : BitVec 6) (b : BitVec 6)
  /-- Always executes, writing s[a] when the guard holds and s[b] otherwise. (R83) -/
  | sel (g : BitVec 3) (d : BitVec 6) (a : BitVec 6) (b : BitVec 6)
  /-- Low 64 bits of the scalar product, latency 3. (R84) -/
  | mul (g : BitVec 3) (d : BitVec 6) (a : BitVec 6) (b : BitVec 6)
  /-- High 64 bits of the signed product. (R84) -/
  | mulh (g : BitVec 3) (d : BitVec 6) (a : BitVec 6) (b : BitVec 6)
  /-- High 64 bits of the unsigned product. (R84) -/
  | mulhu (g : BitVec 3) (d : BitVec 6) (a : BitVec 6) (b : BitVec 6)
  /-- Signed quotient toward zero, interlocked, never faulting. (R85) -/
  | div (g : BitVec 3) (d : BitVec 6) (a : BitVec 6) (b : BitVec 6)
  /-- Unsigned quotient, interlocked. (R85) -/
  | divu (g : BitVec 3) (d : BitVec 6) (a : BitVec 6) (b : BitVec 6)
  /-- Signed remainder with the sign of x. (R85) -/
  | rem (g : BitVec 3) (d : BitVec 6) (a : BitVec 6) (b : BitVec 6)
  /-- Unsigned remainder. (R85) -/
  | remu (g : BitVec 3) (d : BitVec 6) (a : BitVec 6) (b : BitVec 6)
  /-- Counts leading zero bits. (R84) -/
  | clz (g : BitVec 3) (d : BitVec 6) (a : BitVec 6)
  /-- Counts trailing zero bits. (R84) -/
  | ctz (g : BitVec 3) (d : BitVec 6) (a : BitVec 6)
  /-- Counts set bits. (R84) -/
  | popc (g : BitVec 3) (d : BitVec 6) (a : BitVec 6)
  /-- Reverses the bit order. (R84) -/
  | brev (g : BitVec 3) (d : BitVec 6) (a : BitVec 6)
  /-- Computes (x << 1) + y. (R84) -/
  | sh1add (g : BitVec 3) (d : BitVec 6) (a : BitVec 6) (b : BitVec 6)
  /-- Computes (x << 2) + y. (R84) -/
  | sh2add (g : BitVec 3) (d : BitVec 6) (a : BitVec 6) (b : BitVec 6)
  /-- Computes (x << 3) + y. (R84) -/
  | sh3add (g : BitVec 3) (d : BitVec 6) (a : BitVec 6) (b : BitVec 6)
  /-- Counter-based hash of key and counter, latency 4. (R86) -/
  | rngh (g : BitVec 3) (d : BitVec 6) (a : BitVec 6) (b : BitVec 6)
  /-- Adds a sign-extended 10-bit immediate. (R87) -/
  | addi (g : BitVec 3) (d : BitVec 6) (a : BitVec 6) (i : BitVec 10)
  /-- ANDs with a zero-extended 8-bit immediate. (R87) -/
  | andi (g : BitVec 3) (d : BitVec 6) (a : BitVec 6) (i : BitVec 8)
  /-- ORs with a zero-extended 8-bit immediate. (R87) -/
  | ori (g : BitVec 3) (d : BitVec 6) (a : BitVec 6) (i : BitVec 8)
  /-- XORs with a zero-extended 8-bit immediate. (R87) -/
  | xori (g : BitVec 3) (d : BitVec 6) (a : BitVec 6) (i : BitVec 8)
  /-- Sets every bit of a predicate to whether s[a] AND imm8 is non-zero. (R87) -/
  | tsti (g : BitVec 3) (p : BitVec 4) (a : BitVec 6) (i : BitVec 8)
  /-- Shift left by an immediate. (R87) -/
  | shli (g : BitVec 3) (d : BitVec 6) (a : BitVec 6) (k : BitVec 6)
  /-- Logical shift right by an immediate. (R87) -/
  | shri (g : BitVec 3) (d : BitVec 6) (a : BitVec 6) (k : BitVec 6)
  /-- Arithmetic shift right by an immediate. (R87) -/
  | srai (g : BitVec 3) (d : BitVec 6) (a : BitVec 6) (k : BitVec 6)
  /-- Rotate left by an immediate. (R87) -/
  | roti (g : BitVec 3) (d : BitVec 6) (a : BitVec 6) (k : BitVec 6)
  /-- Writes a sign-extended 16-bit immediate. (R88) -/
  | movw (g : BitVec 3) (d : BitVec 6) (i : BitVec 16)
  /-- Places a 16-bit immediate above the low half of its destination and sign-extends from bit 31. (R88) -/
  | movh (g : BitVec 3) (d : BitVec 6) (i : BitVec 16)
  /-- Compares two scalars and writes the outcome to every bit of a predicate. (R89) -/
  | scmp (g : BitVec 3) (p : BitVec 4) (a : BitVec 6) (b : BitVec 6) (c : BitVec 4)
  /-- Predicate AND over 256 bits. (R90) -/
  | pand (g : BitVec 3) (d : BitVec 4) (a : BitVec 4) (b : BitVec 4)
  /-- Predicate OR. (R90) -/
  | por (g : BitVec 3) (d : BitVec 4) (a : BitVec 4) (b : BitVec 4)
  /-- Predicate XOR. (R90) -/
  | pxor (g : BitVec 3) (d : BitVec 4) (a : BitVec 4) (b : BitVec 4)
  /-- Predicate AND NOT. (R90) -/
  | pandn (g : BitVec 3) (d : BitVec 4) (a : BitVec 4) (b : BitVec 4)
  /-- Predicate NOT. (R90) -/
  | pnot (g : BitVec 3) (d : BitVec 4) (a : BitVec 4)
  /-- Sets the bits of the first n lanes of width 2^wcode bytes. (R90) -/
  | psetw (g : BitVec 3) (d : BitVec 4) (w : BitVec 2) (s : BitVec 6)
  /-- Counts the lanes whose predicate bit is set. (R91) -/
  | pcnt (g : BitVec 3) (d : BitVec 6) (p : BitVec 4) (w : BitVec 2)
  /-- Writes the lowest lane whose predicate bit is set, or the lane count. (R91) -/
  | pfirst (g : BitVec 3) (d : BitVec 6) (p : BitVec 4) (w : BitVec 2)
  /-- Compares a scalar with a sign-extended 5-bit immediate into a predicate. (R89) -/
  | scmpi (g : BitVec 3) (c : BitVec 2) (p : BitVec 4) (a : BitVec 6) (h : BitVec 1) (i : BitVec 5)
  /-- Broadcasts a scalar into every lane of a vector, seen four bundles later. (R92) -/
  | xsv (g : BitVec 3) (d : BitVec 6) (a : BitVec 6) (w : BitVec 2)
  /-- Writes a scalar into one 64-bit lane of a vector. (R92) -/
  | xsvl (g : BitVec 3) (d : BitVec 6) (a : BitVec 6) (b : BitVec 6)
  /-- Writes a scalar into one 64-bit quarter of a predicate. (R92) -/
  | xsp (g : BitVec 3) (p : BitVec 4) (a : BitVec 6) (b : BitVec 6)
  /-- Writes a scalar to a matrix-parameter register with exposed latency 4. (R92) -/
  | xmp (g : BitVec 3) (m : BitVec 3) (a : BitVec 6)
  /-- Reads one 64-bit vector lane into a scalar, due four bundles later. (R94) -/
  | xvs (g : BitVec 3) (d : BitVec 6) (a : BitVec 6) (b : BitVec 6)
  /-- Reads one 64-bit quarter of a predicate into a scalar. (R94) -/
  | xps (g : BitVec 3) (d : BitVec 6) (p : BitVec 4) (b : BitVec 6)
  /-- Reads a matrix-parameter register into a scalar. (R93) -/
  | xpm (g : BitVec 3) (d : BitVec 6) (m : BitVec 3)
  /-- Loads 1 to 8 bytes into a scalar, zero- or sign-extended, interlocked. (R162) -/
  | lds (g : BitVec 3) (d : BitVec 6) (b : BitVec 6) (z : BitVec 2) (x : BitVec 1) (i : BitVec 7)
  /-- Stores 1 to 8 bytes of a scalar at commit. (R162) -/
  | sts (g : BitVec 3) (d : BitVec 6) (b : BitVec 6) (z : BitVec 2) (i : BitVec 7)
  /-- Loads 256 aligned bytes into a vector. (R163) -/
  | vld (g : BitVec 3) (d : BitVec 6) (b : BitVec 6) (i : BitVec 10)
  /-- Stores a vector to 256 aligned bytes at commit. (R163) -/
  | vst (g : BitVec 3) (d : BitVec 6) (b : BitVec 6) (i : BitVec 10)
  /-- Strided vector load. (R164) -/
  | vlds (g : BitVec 3) (d : BitVec 6) (a : BitVec 6) (b : BitVec 6)
  /-- Strided vector store. (R164) -/
  | vsts (g : BitVec 3) (d : BitVec 6) (a : BitVec 6) (b : BitVec 6)
  /-- Gathers 64 words at base plus vector offsets. (R164) -/
  | vgath (g : BitVec 3) (d : BitVec 6) (a : BitVec 6) (b : BitVec 6)
  /-- Scatters 64 words at base plus vector offsets. (R164) -/
  | vscat (g : BitVec 3) (d : BitVec 6) (a : BitVec 6) (b : BitVec 6)
  /-- Hints that a range be brought to the caches; never faults. (R164) -/
  | pref (g : BitVec 3) (a : BitVec 6) (b : BitVec 6)
  /-- Binds a stream handle to a descriptor and starts feeding. (R177) -/
  | hbind (g : BitVec 3) (h : BitVec 3) (a : BitVec 6)
  /-- Advances a handle's head by n entries and sets its ring offset. (R177) -/
  | hadv (g : BitVec 3) (h : BitVec 3) (a : BitVec 6)
  /-- Waits until a handle has at least s[a] filled entries. (R177) -/
  | hwait (g : BitVec 3) (h : BitVec 3) (a : BitVec 6)
  /-- Waits until a handle has at least s[a] free entries. (R177) -/
  | hprod (g : BitVec 3) (h : BitVec 3) (a : BitVec 6)
  /-- Returns a handle's status word. (R177) -/
  | hstat (g : BitVec 3) (d : BitVec 6) (h : BitVec 3)
  /-- Stops feeding and unbinds a handle. (R177) -/
  | hunbind (g : BitVec 3) (h : BitVec 3)
  /-- Waits until a channel's copies up to an ID are complete, then acquires. (R172) -/
  | twait (g : BitVec 3) (a : BitVec 6) (b : BitVec 6)
  /-- Returns the channel's completed transfer ID. (R172) -/
  | tstat (g : BitVec 3) (d : BitVec 6) (a : BitVec 6)
  /-- Returns the running copy's ID and delivered count. (R172) -/
  | twptr (g : BitVec 3) (d : BitVec 6) (a : BitVec 6)
  /-- Releases at pa and swaps front and shadow of a buffer object's pages as one event. (R173) -/
  | publish (g : BitVec 3) (a : BitVec 6)
  /-- Atomic add at the line's home, returning the old value. (R189) -/
  | atadd (o : BitVec 2) (c : BitVec 2) (z : BitVec 1) (d : BitVec 6) (a : BitVec 6) (b : BitVec 6)
  /-- Atomic AND. (R189) -/
  | atand (o : BitVec 2) (c : BitVec 2) (z : BitVec 1) (d : BitVec 6) (a : BitVec 6) (b : BitVec 6)
  /-- Atomic OR. (R189) -/
  | ator (o : BitVec 2) (c : BitVec 2) (z : BitVec 1) (d : BitVec 6) (a : BitVec 6) (b : BitVec 6)
  /-- Atomic XOR. (R189) -/
  | atxor (o : BitVec 2) (c : BitVec 2) (z : BitVec 1) (d : BitVec 6) (a : BitVec 6) (b : BitVec 6)
  /-- Atomic signed minimum. (R189) -/
  | atmin (o : BitVec 2) (c : BitVec 2) (z : BitVec 1) (d : BitVec 6) (a : BitVec 6) (b : BitVec 6)
  /-- Atomic signed maximum. (R189) -/
  | atmax (o : BitVec 2) (c : BitVec 2) (z : BitVec 1) (d : BitVec 6) (a : BitVec 6) (b : BitVec 6)
  /-- Atomic unsigned minimum. (R189) -/
  | atminu (o : BitVec 2) (c : BitVec 2) (z : BitVec 1) (d : BitVec 6) (a : BitVec 6) (b : BitVec 6)
  /-- Atomic unsigned maximum. (R189) -/
  | atmaxu (o : BitVec 2) (c : BitVec 2) (z : BitVec 1) (d : BitVec 6) (a : BitVec 6) (b : BitVec 6)
  /-- Atomic swap. (R189) -/
  | atswp (o : BitVec 2) (c : BitVec 2) (z : BitVec 1) (d : BitVec 6) (a : BitVec 6) (b : BitVec 6)
  /-- Atomic compare-and-swap against s[d]. (R189) -/
  | atcas (o : BitVec 2) (c : BitVec 2) (z : BitVec 1) (d : BitVec 6) (a : BitVec 6) (b : BitVec 6)
  /-- Atomic load at the line's home. (R189) -/
  | atld (o : BitVec 2) (c : BitVec 2) (z : BitVec 1) (d : BitVec 6) (a : BitVec 6)
  /-- Atomic store at the line's home. (R189) -/
  | atst (o : BitVec 2) (c : BitVec 2) (z : BitVec 1) (a : BitVec 6) (b : BitVec 6)
  /-- Lane-wise floating addition. (R207) -/
  | vadd (g : BitVec 3) (d : BitVec 6) (a : BitVec 6) (b : BitVec 6) (f : BitVec 2) (i : BitVec 1) (o : BitVec 1)
  /-- Lane-wise floating subtraction. (R207) -/
  | vsub (g : BitVec 3) (d : BitVec 6) (a : BitVec 6) (b : BitVec 6) (f : BitVec 2) (i : BitVec 1) (o : BitVec 1)
  /-- Lane-wise floating multiplication. (R207) -/
  | vmul (g : BitVec 3) (d : BitVec 6) (a : BitVec 6) (b : BitVec 6) (f : BitVec 2) (i : BitVec 1) (o : BitVec 1)
  /-- Lane-wise fused multiply-add with one rounding. (R207) -/
  | vfma (g : BitVec 3) (d : BitVec 6) (a : BitVec 6) (b : BitVec 6) (f : BitVec 2) (i : BitVec 1) (o : BitVec 1)
  /-- Lane-wise fused z − x·y with one rounding. (R207) -/
  | vfnma (g : BitVec 3) (d : BitVec 6) (a : BitVec 6) (b : BitVec 6) (f : BitVec 2) (i : BitVec 1) (o : BitVec 1)
  /-- Lane-wise floating minimum. (R208) -/
  | vminf (g : BitVec 3) (d : BitVec 6) (a : BitVec 6) (b : BitVec 6) (f : BitVec 2) (i : BitVec 1) (o : BitVec 1)
  /-- Lane-wise floating maximum. (R208) -/
  | vmaxf (g : BitVec 3) (d : BitVec 6) (a : BitVec 6) (b : BitVec 6) (f : BitVec 2) (i : BitVec 1) (o : BitVec 1)
  /-- Lane-wise floating compare into a predicate. (R209) -/
  | vfcmp (g : BitVec 3) (c : BitVec 2) (p : BitVec 4) (a : BitVec 6) (b : BitVec 6) (f : BitVec 2) (i : BitVec 1)
  /-- Lane-wise correctly rounded reciprocal. (R210) -/
  | vrcp (g : BitVec 3) (d : BitVec 6) (a : BitVec 6) (f : BitVec 2) (i : BitVec 1) (o : BitVec 1)
  /-- Lane-wise reciprocal square root. (R210) -/
  | vrsq (g : BitVec 3) (d : BitVec 6) (a : BitVec 6) (f : BitVec 2) (i : BitVec 1) (o : BitVec 1)
  /-- Lane-wise square root. (R210) -/
  | vsqrt (g : BitVec 3) (d : BitVec 6) (a : BitVec 6) (f : BitVec 2) (i : BitVec 1) (o : BitVec 1)
  /-- Lane-wise base-2 exponential. (R210) -/
  | vexp2 (g : BitVec 3) (d : BitVec 6) (a : BitVec 6) (f : BitVec 2) (i : BitVec 1) (o : BitVec 1)
  /-- Lane-wise base-2 logarithm. (R210) -/
  | vlog2 (g : BitVec 3) (d : BitVec 6) (a : BitVec 6) (f : BitVec 2) (i : BitVec 1) (o : BitVec 1)
  /-- Lane-wise absolute value. (R210) -/
  | vabsf (g : BitVec 3) (d : BitVec 6) (a : BitVec 6) (f : BitVec 2) (i : BitVec 1) (o : BitVec 1)
  /-- Lane-wise negation. (R210) -/
  | vnegf (g : BitVec 3) (d : BitVec 6) (a : BitVec 6) (f : BitVec 2) (i : BitVec 1) (o : BitVec 1)
  /-- Lane-wise floor. (R210) -/
  | vfloor (g : BitVec 3) (d : BitVec 6) (a : BitVec 6) (f : BitVec 2) (i : BitVec 1) (o : BitVec 1)
  /-- Lane-wise fractional part kept below 1. (R112) -/
  | vfrac (g : BitVec 3) (d : BitVec 6) (a : BitVec 6) (f : BitVec 2) (i : BitVec 1) (o : BitVec 1)
  /-- Reduces the active lanes over the fixed tree and broadcasts the root. (R211) -/
  | vred (g : BitVec 3) (d : BitVec 6) (a : BitVec 6) (r : BitVec 2) (f : BitVec 2) (i : BitVec 1) (o : BitVec 1)
  /-- Lane-wise integer addition. (R213) -/
  | viadd (g : BitVec 3) (d : BitVec 6) (a : BitVec 6) (b : BitVec 6) (w : BitVec 2)
  /-- Lane-wise integer subtraction. (R213) -/
  | visub (g : BitVec 3) (d : BitVec 6) (a : BitVec 6) (b : BitVec 6) (w : BitVec 2)
  /-- Lane-wise low integer product. (R213) -/
  | vimul (g : BitVec 3) (d : BitVec 6) (a : BitVec 6) (b : BitVec 6) (w : BitVec 2)
  /-- Lane-wise high signed integer product. (R213) -/
  | vimulh (g : BitVec 3) (d : BitVec 6) (a : BitVec 6) (b : BitVec 6) (w : BitVec 2)
  /-- Lane-wise AND. (R213) -/
  | vand (g : BitVec 3) (d : BitVec 6) (a : BitVec 6) (b : BitVec 6) (w : BitVec 2)
  /-- Lane-wise OR. (R213) -/
  | vor (g : BitVec 3) (d : BitVec 6) (a : BitVec 6) (b : BitVec 6) (w : BitVec 2)
  /-- Lane-wise XOR. (R213) -/
  | vxor (g : BitVec 3) (d : BitVec 6) (a : BitVec 6) (b : BitVec 6) (w : BitVec 2)
  /-- Lane-wise AND NOT. (R213) -/
  | vandn (g : BitVec 3) (d : BitVec 6) (a : BitVec 6) (b : BitVec 6) (w : BitVec 2)
  /-- Lane-wise shift left. (R213) -/
  | vshl (g : BitVec 3) (d : BitVec 6) (a : BitVec 6) (b : BitVec 6) (w : BitVec 2)
  /-- Lane-wise logical shift right. (R213) -/
  | vshr (g : BitVec 3) (d : BitVec 6) (a : BitVec 6) (b : BitVec 6) (w : BitVec 2)
  /-- Lane-wise arithmetic shift right. (R213) -/
  | vsra (g : BitVec 3) (d : BitVec 6) (a : BitVec 6) (b : BitVec 6) (w : BitVec 2)
  /-- Lane-wise rotate left. (R213) -/
  | vrot (g : BitVec 3) (d : BitVec 6) (a : BitVec 6) (b : BitVec 6) (w : BitVec 2)
  /-- Lane-wise signed minimum. (R213) -/
  | vimin (g : BitVec 3) (d : BitVec 6) (a : BitVec 6) (b : BitVec 6) (w : BitVec 2)
  /-- Lane-wise signed maximum. (R213) -/
  | vimax (g : BitVec 3) (d : BitVec 6) (a : BitVec 6) (b : BitVec 6) (w : BitVec 2)
  /-- Lane-wise unsigned minimum. (R213) -/
  | viminu (g : BitVec 3) (d : BitVec 6) (a : BitVec 6) (b : BitVec 6) (w : BitVec 2)
  /-- Lane-wise unsigned maximum. (R213) -/
  | vimaxu (g : BitVec 3) (d : BitVec 6) (a : BitVec 6) (b : BitVec 6) (w : BitVec 2)
  /-- Lane-wise integer compare into a predicate. (R214) -/
  | vicmp (g : BitVec 3) (p : BitVec 4) (a : BitVec 6) (b : BitVec 6) (w : BitVec 2) (c : BitVec 2)
  /-- Permutes lanes of v[a] by index lanes. (R215) -/
  | vperm (g : BitVec 3) (d : BitVec 6) (a : BitVec 6) (b : BitVec 6) (w : BitVec 2)
  /-- Selects lanes from the pair of v[a] and the old v[d]. (R215) -/
  | vshuf (g : BitVec 3) (d : BitVec 6) (a : BitVec 6) (b : BitVec 6) (w : BitVec 2)
  /-- Always executes, choosing each lane by the guard predicate. (R215) -/
  | vsel (g : BitVec 3) (d : BitVec 6) (a : BitVec 6) (b : BitVec 6) (w : BitVec 2)
  /-- Writes each lane's index. (R215) -/
  | viota (g : BitVec 3) (d : BitVec 6) (w : BitVec 2)
  /-- Converts elements between formats lane by lane. (R217) -/
  | vcvt (g : BitVec 3) (d : BitVec 6) (a : BitVec 6) (s : BitVec 4) (r : BitVec 4) (i : BitVec 1) (o : BitVec 1)
  /-- Computes the E8M0 scales of two 32-element blocks. (R219) -/
  | vmxsc (g : BitVec 3) (d : BitVec 6) (a : BitVec 6) (e : BitVec 6)
  /-- Quantises two FP32 blocks into MX element layout with scales. (R219) -/
  | vmxq (g : BitVec 3) (d : BitVec 6) (a : BitVec 6) (e : BitVec 6)
  /-- Dequantises an MX register pair into FP32 lanes. (R219) -/
  | vmxdq (g : BitVec 3) (d : BitVec 6) (a : BitVec 6) (e : BitVec 6)
  /-- Accumulates 64 four-term ternary×INT8 dot products into INT32 lanes. (R220) -/
  | vtern (g : BitVec 3) (d : BitVec 6) (a : BitVec 6) (b : BitVec 6)
  /-- Narrows lanes to half width with saturation. (R221) -/
  | vpack (g : BitVec 3) (d : BitVec 6) (a : BitVec 6) (w : BitVec 2)
  /-- Widens half-width lanes by zero or sign extension. (R221) -/
  | vunpack (g : BitVec 3) (d : BitVec 6) (a : BitVec 6) (x : BitVec 1) (h : BitVec 1) (w : BitVec 2)
  /-- Copies all 2,048 bits of a vector. (R222) -/
  | vmov (g : BitVec 3) (d : BitVec 6) (a : BitVec 6)
  /-- Broadcasts one 64-bit lane to every lane. (R222) -/
  | vbcastl (g : BitVec 3) (d : BitVec 6) (a : BitVec 6) (b : BitVec 6)
  /-- Writes running combinations formed from aligned tree nodes. (R212) -/
  | vscan (g : BitVec 3) (d : BitVec 6) (a : BitVec 6) (r : BitVec 2) (f : BitVec 2)
  /-- Checks the captured matrix parameters and hands a glaze routine call to the matrix unit at commit. (R125) -/
  | mcall (g : BitVec 3) (i : BitVec 9)
  /-- Holds the execute queue until the sequencer's matrix call is complete. (R132) -/
  | mwait (g : BitVec 3)
  /-- Loads glaze words or a faulted-call record from memory. (R139) -/
  | mgload (g : BitVec 3) (a : BitVec 6) (b : BitVec 6)
  /-- Saves glaze words or the faulted-call record to memory. (R139) -/
  | mgsave (g : BitVec 3) (a : BitVec 6) (b : BitVec 6)
  /-- Reads MROW into a scalar. (R127) -/
  | mprog (g : BitVec 3) (d : BitVec 6)
  /-- Re-checks and re-issues the faulted-call record. (R131) -/
  | mresume (g : BitVec 3)
  /-- Allocates and clears the lowest run of free accumulator banks. (R141) -/
  | aalloc (g : BitVec 3) (d : BitVec 6) (a : BitVec 6)
  /-- Frees owned accumulator banks. (R141) -/
  | afree (g : BitVec 3) (a : BitVec 6) (b : BitVec 6)
  /-- Clears owned accumulator banks to zero bits. (R141) -/
  | aclr (g : BitVec 3) (a : BitVec 6) (b : BitVec 6)
  /-- Hands ownership of a band to another cluster sequencer at commit. (R141) -/
  | aband (g : BitVec 3) (a : BitVec 6) (b : BitVec 6)
  /-- Returns a bank's owner, kind and pairing. (R141) -/
  | aown (g : BitVec 3) (d : BitVec 6) (a : BitVec 6)
  /-- Returns the mask of allocated banks of the core. (R141) -/
  | abstat (g : BitVec 3) (d : BitVec 6)
  /-- Reads a band row segment into a vector, converted to the format. (R142) -/
  | aread (g : BitVec 3) (v : BitVec 6) (a : BitVec 6) (b : BitVec 6) (f : BitVec 2) (o : BitVec 1)
  /-- Writes a vector into a band row segment at commit. (R142) -/
  | awrite (g : BitVec 3) (v : BitVec 6) (a : BitVec 6) (b : BitVec 6) (f : BitVec 2) (o : BitVec 1)
  /-- Checks ownership and stores a region of a band to memory, converted with RNE. (R18) -/
  | adrain (g : BitVec 3) (d : BitVec 6) (a : BitVec 6) (c : BitVec 6) (f : BitVec 4)
  /-- Adds a vector into a band row segment at commit. (R142) -/
  | aacc (g : BitVec 3) (v : BitVec 6) (a : BitVec 6) (b : BitVec 6) (f : BitVec 2)
  /-- Narrows domains by d = a + b, optionally standing, and propagates. (R250) -/
  | dadd (g : BitVec 3) (d : BitVec 5) (a : BitVec 5) (b : BitVec 5) (s : BitVec 1)
  /-- Narrows domains by d = a − b and propagates. (R251) -/
  | dsub (g : BitVec 3) (d : BitVec 5) (a : BitVec 5) (b : BitVec 5) (s : BitVec 1)
  /-- Narrows domains by a ≤ b and propagates. (R240) -/
  | dle (g : BitVec 3) (a : BitVec 5) (b : BitVec 5) (s : BitVec 1)
  /-- Narrows domains by a < b and propagates. (R240) -/
  | dlt (g : BitVec 3) (a : BitVec 5) (b : BitVec 5) (s : BitVec 1)
  /-- Narrows domains by a = b and propagates. (R251) -/
  | deq (g : BitVec 3) (a : BitVec 5) (b : BitVec 5) (s : BitVec 1)
  /-- Narrows domains by a ≠ b and propagates. (R251) -/
  | dne (g : BitVec 3) (a : BitVec 5) (b : BitVec 5) (s : BitVec 1)
  /-- Narrows domains by d = k·a and propagates. (R251) -/
  | dmulk (g : BitVec 3) (d : BitVec 5) (a : BitVec 5) (k : BitVec 5) (s : BitVec 1)
  /-- Narrows a group of domains to be all different and propagates. (R240) -/
  | dalld (g : BitVec 3) (d : BitVec 5) (c : BitVec 5) (s : BitVec 1)
  /-- Replaces a domain with an interval. (R237) -/
  | dsets (g : BitVec 3) (d : BitVec 5) (s : BitVec 6)
  /-- Narrows a domain to a single value. (R237) -/
  | dsetv (g : BitVec 3) (d : BitVec 5) (s : BitVec 6)
  /-- Removes a value from a domain. (R237) -/
  | drem (g : BitVec 3) (d : BitVec 5) (s : BitVec 6)
  /-- Returns a domain's smallest value. (R237) -/
  | dlo (g : BitVec 3) (d : BitVec 5) (s : BitVec 6)
  /-- Returns a domain's largest value. (R237) -/
  | dhi (g : BitVec 3) (d : BitVec 5) (s : BitVec 6)
  /-- Returns the number of values in a domain. (R237) -/
  | dsize (g : BitVec 3) (d : BitVec 5) (s : BitVec 6)
  /-- Pushes all domains, SCOUNT and a resume value onto the checkpoint stack. (R242) -/
  | dckpt (g : BitVec 3) (s : BitVec 6)
  /-- Pops a checkpoint, restoring domains and dropping newer standing entries. (R242) -/
  | drest (g : BitVec 3) (s : BitVec 6)
  /-- Pops and discards a checkpoint. (R242) -/
  | ddrop (g : BitVec 3)
  /-- Marks every standing entry pending and propagates. (R255) -/
  | dprop (g : BitVec 3)
  /-- Clears the standing table. (R255) -/
  | dclrs (g : BitVec 3)
  /-- Writes to a predicate whether a value is in a domain. (R255) -/
  | dmemb (g : BitVec 3) (d : BitVec 5) (p : BitVec 4) (s : BitVec 6)
  /-- Configures a front register and empties it. (R288) -/
  | fcfg (g : BitVec 3) (f : BitVec 3) (s : BitVec 6)
  /-- Removes every member and resets the counters of a front. (R298) -/
  | fclr (g : BitVec 3) (f : BitVec 3)
  /-- Offers tuples of a vector as arrivals to a front. (R290) -/
  | fins (g : BitVec 3) (f : BitVec 3) (v : BitVec 6) (s : BitVec 6)
  /-- Offers another front's members as arrivals. (R299) -/
  | fmerge (g : BitVec 3) (f : BitVec 3) (a : BitVec 3)
  /-- Reads twelve members of a front into a vector. (R298) -/
  | fread (g : BitVec 3) (a : BitVec 3) (v : BitVec 6) (s : BitVec 6)
  /-- Returns a front's member count. (R298) -/
  | fcnt (g : BitVec 3) (a : BitVec 3) (s : BitVec 6)
  /-- Returns a front's rejected count. (R298) -/
  | frej (g : BitVec 3) (a : BitVec 3) (s : BitVec 6)
  /-- Returns a front's configuration word, or 0 when unconfigured. (R298) -/
  | fstat (g : BitVec 3) (a : BitVec 3) (s : BitVec 6)
  /-- Orders, releases or acquires the named kinds of the sequencer's accesses at a scope. (R192) -/
  | fence (g : BitVec 3) (o : BitVec 2) (c : BitVec 2) (k : BitVec 4)
  /-- Releases, arrives at a numbered barrier, waits for all participants and acquires. (R97) -/
  | bar (g : BitVec 3) (o : BitVec 2) (c : BitVec 2)
  /-- Returns a future's value, parking until it is filled. (R194) -/
  | fwait (g : BitVec 3) (d : BitVec 6) (a : BitVec 6)
  /-- Releases, fills a future and wakes its waiters. (R194) -/
  | ffill (g : BitVec 3) (a : BitVec 6) (b : BitVec 6)
  /-- Returns whether a future is full, acquiring if so. (R194) -/
  | fpoll (g : BitVec 3) (d : BitVec 6) (a : BitVec 6)
  /-- Validates a launch record and accepts it into the caller's stream under quota. (R324) -/
  | launch (g : BitVec 3) (d : BitVec 6) (a : BitVec 6)
  /-- Parks until a launch leaves the accepted state and returns its status word. (R326) -/
  | cwait (g : BitVec 3) (d : BitVec 6) (a : BitVec 6)
  /-- Pushes a vector's element into a pipeline queue in sequence order. (R305) -/
  | qpush (g : BitVec 3) (v : BitVec 6) (a : BitVec 6)
  /-- Pops the delivered or head element of a queue. (R305) -/
  | qpop (g : BitVec 3) (v : BitVec 6) (a : BitVec 6)
  /-- Reads an element as QPOP does without consuming it. (R305) -/
  | qpeek (g : BitVec 3) (v : BitVec 6) (a : BitVec 6)
  /-- Returns a queue's status word. (R305) -/
  | qstat (g : BitVec 3) (d : BitVec 6) (a : BitVec 6)
  /-- Writes a trace record carrying a value at commit. (R329) -/
  | logmark (g : BitVec 3) (a : BitVec 6)
  /-- A sequencer fetches a bundle, checks its format, slots and conflicts, and places its slots in the issue queues. (R63) -/
  | bundleDispatch (q : Nat)
  /-- A bundle commits once every queue has executed it and every earlier bundle has committed. (R225) -/
  | bundleCommit (q : Nat)
  /-- After 16 refused cycles sequencer 0 is held one cycle and sequencer 1's bundle issues alone. (R34) -/
  | sequencer1StarvationIssue (core : Nat)
  /-- The 64-cycle hold of a PAUSE expires and dispatch resumes. (R79) -/
  | pauseHoldEnd (q : Nat)
  /-- A trap is taken: bundles discarded, results landed, latches formed, trap registers written and the vector dispatched. (R265) -/
  | trapEntry (q cause : Nat) (tval : Word)
  /-- A priority pre-emption request arrives and a landing bundle is chosen. (R234) -/
  | preemptionRequest (q : Nat)
  /-- An interrupt source becomes pending on a sequencer, setting event bit 2. (R370) -/
  | interrupt (q src : Nat)
  /-- The landing bundle commits and the pending request or interrupt is taken as a trap. (R234) -/
  | preemptionLanding (q : Nat)
  /-- After 65,536 U-mode cycles without landing, the newest dispatched bundle becomes the landing bundle. (R234) -/
  | preemptionFreeze (q : Nat)
  /-- The matrix unit begins a handed-over call at word idx in commit order. (R138) -/
  | matrixCallStart (core : Nat)
  /-- The matrix unit executes one glaze word: load, fetch, array, fold, write, progress and sequence. (R138) -/
  | glazeStep (core : Nat)
  /-- A call ends, BUSY clears and its flags are ORed into FFLAGS. (R128) -/
  | matrixCallComplete (core : Nat)
  /-- A fault met after hand-off is delivered to the caller at its next bundle boundary. (R130) -/
  | matrixFaultDelivery (q : Nat)
  /-- A channel begins its next copy in ID order, reading the template and checking it. (R165) -/
  | copyStart (core ch : Nat)
  /-- A gathered add-on-write contribution is applied to a bank in one pass on its phase. (R169) -/
  | addOnWritePass (core ch : Nat) (collides : Bool)
  /-- A copy finishes, its record is written with a release and its ID becomes complete. (R171) -/
  | copyComplete (core ch : Nat)
  /-- A stream fill completes and the handle's FILLED count grows. (R175) -/
  | streamFillComplete (core ch : Nat)
  /-- An invalidation is acknowledged once translated accesses are performed and walks settled. (R279) -/
  | tlbInvalidationAck (sag : Nat)
  /-- The saggar manager invalidates stage-2 translations. (R279) -/
  | stage2Invalidation (sag : Nat)
  /-- A BANKROLE write writes back, drains, zero-fills and applies new bank roles at commit. (R152) -/
  | bankroleWrite (core : Nat) (v : Word)
  /-- A VWB write moves the vector window or faults on an overlap. (R272) -/
  | vwbWrite (q : Nat) (v : Word)
  /-- Clearing TCAUSE.LATCH discards the held shadow latches. (R267) -/
  | tcauseLatchDiscard (q : Nat)
  /-- The kiln takes the head launch record of a command stream once quota and storage allow. (R320) -/
  | streamRecordAccept (sag stream : Nat)
  /-- The kiln places a gang on sequencers and context areas and starts its tasks. (R321) -/
  | gangPlacement (sag launch inst : Nat)
  /-- A gang waiting 2^20 kiln cycles reserves a window of clusters. (R321) -/
  | backfillReservation (sag launch inst : Nat)
  /-- The kiln restores a yielded task on a qualifying free sequencer and resumes it. (R285) -/
  | contextRestore (task q : Nat)
  /-- The queue controller delivers an input element to its consumer. (R307) -/
  | elementDelivery (pipe stage : Nat)
  /-- Every 65,536 cycles the rebalancing rule is applied with queue counts. (R310) -/
  | freeModeRebalance (pipe : Nat)
  /-- A QPUSH blocked 4,096 cycles on a full queue sends a probe. (R311) -/
  | probeSend (q : Nat)
  /-- A probe returns to its queue. (R312) -/
  | probeReturn (probe : Nat)
  /-- A probe not returned within 65,536 cycles is dropped. (R311) -/
  | probeDrop (probe : Nat)
  /-- Kiln command 1 rescans the command streams. (R330) -/
  | kilnRescanStreams (sag : Nat)
  /-- Kiln command 2 cancels the launch at ARG. (R330) -/
  | kilnCancelLaunch (sag : Nat)
  /-- Kiln command 3 verifies, measures and loads new kiln microcode. (R331) -/
  | kilnReloadMicrocode (sag : Nat)
  /-- Kiln command 4 closes a pipeline accepted from a command stream. (R330) -/
  | kilnClosePipeline (sag : Nat)
  /-- A virtual-device slot timer expires and the slice switches devices. (R344) -/
  | slotEnd (sag : Nat)
  /-- The partition controller starts a saggar on the manager's request. (R333) -/
  | saggarStart (req : StartReq)
  /-- A saggar is stopped and its memory key is zeroized. (R357) -/
  | saggarStop (sag : Nat)
  /-- A grow record adds neutral clusters, slices and quads to a saggar. (R334) -/
  | resizeGrow (rec : Nat)
  /-- A shrink record removes a saggar's highest logical clusters and resources. (R334) -/
  | resizeShrink (rec : Nat)
  /-- The background sweep moves the last old-generation line and retires it. (R337) -/
  | hashSweepComplete (sag : Nat)
  /-- A joining cluster becomes owned and enters kiln placement. (R338) -/
  | clusterJoin (sag cluster : Nat)
  /-- The tasks and core state of a leaving cluster move to a free cluster. (R339) -/
  | clusterMigration (sag src dst : Nat)
  /-- A 1 µs charging window ends and the bandwidth registers roll over. (R342) -/
  | bandwidthWindowEnd (die : Nat)
  /-- The manager writes BWTOT (0 clears the total bandwidth charge), or BWCAP beside it. (R342) -/
  | bwtotWrite (die sag : Nat) (w : BwWrite)
  /-- The root of trust verifies, measures and starts the boot images in order. (R352) -/
  | powerOnBoot (flash : Flash)
  /-- A droop sensor detects a sag and the die clock stretches. (R359) -/
  | droopDetected (die : Nat)
  /-- The sag clears and the clock returns to nominal. (R359) -/
  | droopCleared (die : Nat)
  /-- The saggar manager lowers the module power cap. (R360) -/
  | powerCapSet (cap : Nat)
  /-- A steward requests a signed report of the measurement registers. (R356) -/
  | attestationRequest (sag : Nat) (nonce : BitVec 384)
  /-- The root of trust issues a nonce for a debug unlock. (R358) -/
  | debugNonceRequest
  /-- A debug token is checked and, on success, everything is scrubbed and the port opened. (R358) -/
  | debugUnlock (token : DebugToken)
  /-- A host write to a saggar's doorbell page, at an offset of the pages' window, records the value and raises an
  interrupt. (R350) -/
  | hostDoorbellWrite (port off : Nat) (v : Word)
  /-- A steward write to SIGNAL raises interrupt source 1 on a named sequencer. (R361) -/
  | signalWrite (sag : Nat) (v : Word)
  /-- A steward write to HOSTIRQ sends the saggar's MSI-X vector to the host. (R361) -/
  | hostirqWrite (sag : Nat)
  /-- A steward write to a platform-window register with no behaviour of its own. (R361) -/
  | platformRegisterWrite (sag off : Nat) (v : Word)
  /-- A write to a port's PCTL enables the port, sets KTPPORT or clears RINGERR. (R363) -/
  | pctlWrite (sag port : Nat) (v : Word)
  /-- Advancing TXTAIL posts transmit descriptors to the port. (R363) -/
  | txtailWrite (sag port : Nat) (v : Word)
  /-- Advancing RXTAIL posts receive buffers to the port. (R363) -/
  | rxtailWrite (sag port : Nat) (v : Word)
  /-- The port finishes sending a descriptor, writes DONE and advances TXHEAD. (R363) -/
  | txDescriptorDone (port : Nat)
  /-- A frame arrives and is written to a posted buffer or dropped and counted. (R363) -/
  | frameReceived (port : Nat) (frame : Frame)
  /-- A received KTP DATA segment's elements are placed in order. (R365) -/
  | ktpDataSegment (port : Nat) (seg : KtpSeg)
  /-- The receiver sends a cumulative ACK after performing segments. (R365) -/
  | ktpAckSend (flow : Nat)
  /-- A received ACK covers elements and may complete the copy. (R365) -/
  | ktpAckSegment (port : Nat) (seg : KtpSeg)
  /-- A received ERROR segment ends the copy with its ERR. (R365) -/
  | ktpErrorSegment (port : Nat) (seg : KtpSeg)
  /-- An unacknowledged segment's timeout expires and it is retransmitted or the copy ends. (R365) -/
  | ktpRetransmitTimeout (core ch segno : Nat)
  /-- A root port issues a namespace command, refusing other namespaces. (R349) -/
  | nvmeCommand (sag port : Nat) (ns : BitVec 32) (cmd : List Byte)
  /-- An L1 writes back or drops lines, UO lines included, at a moment of its own choosing. (R184) -/
  | l1WriteBackOrDrop (core line : Nat) (back : Bool)
  /-- A load returns its data, or a store or atomic write reaches its home, some time after its slot executed. (R226) -/
  | accessPerformed (q : Nat)
  /-- A running copy writes its next element or line in pattern order, translating it at that moment. (R167) -/
  | copyElementDelivery (core ch : Nat)
  /-- Steward firmware lowers or restores a die's arithmetic clock in 100 MHz steps to meet the power cap. (R360) -/
  | powerCapClockChange (die mhz : Nat)
  /-- The lifecycle state changes, to production with owner-key enrolment, and is recorded in measurement register 15. (R354) -/
  | lifecycleChange (life : Lifecycle)
  /-- An endpoint or root port trains its link to a width and rate, or loses it, as the partner appears or goes; a host
  then writes an endpoint's registers. (R349, R366) -/
  | pcieLinkTraining (port width rate : Nat) (writes : List HostWrite)
  deriving DecidableEq, Repr

end Sys2Proof
end

