-- ==== Sys2Proof/Config.lean ====
section
/-! DEFINITION. What the spec leaves to the device or leaves open: free values and functions without a
body, so that nothing can be proved of what they give (log entries 7 and 8). -/

namespace Sys2Proof.Config

/-- The physical cycles that pass at the n-th look at CYCLE, beyond those counted here (R3, R359). -/
opaque cyclesPassed : Nat → Nat

/-- The value the queue controller keeps in WAITERS, beside its lowest bit (R193, Table 9.5). -/
opaque waitersTag : Nat → BitVec 32

/-- Whether a fetch of a word that has changed at its home returns the core's older copy (R280). -/
opaque staleFetch : Nat → Bool

/-- How often the n-th glaze word was executed again after a transient error (R130). -/
opaque residueRepeats : Nat → Nat

/-- The limit that CLOAD takes from G − 1 in a routine that has no group table (Table 6.9, R369). -/
opaque noGroups : Nat → BitVec 16

/-- The chunk sum, as an FP32 pattern, of an output element where the glaze word names a format pair that
Table 6.4 does not have, or an MX pair whose scales were not fetched (R134, R138). -/
opaque pairSum : Nat → Nat → Nat → BitVec 32

/-- The size in bytes of a kiln image in memory, from its first 64 bytes (R331: the spec gives no layout). -/
opaque imageSize : List Byte → Nat

/-- The parts of a kiln image in memory: its data, the vendor's two signatures over it, and the owner's two. -/
opaque imageParts : List Byte → List Byte × (BitVec 768 × BitVec 12960) × (BitVec 768 × BitVec 12960)

/-- The channel quad of a physical address: 4 GiB each, in order (R332 gives the size; the order is this
model's, log entry 18). -/
def quadOf (pa : Nat) : Nat := pa / 2 ^ 32

/-- The PHASE number of a resource state, by its row in Table 19.3, from 0 (Table 19.2 gives no numbers). -/
opaque phaseCode : Nat → BitVec 8

/-- The row activations, the read and write turnarounds and the burst cycles that a saggar's requests have caused on a
die since the last count (R342: which requests reach DRAM, and in which order, is a matter of caches and time). -/
opaque dramUse : Nat → Nat × Nat × Nat

/-- How far the last request of a window passes BWCAP (R342: requests have any size and order). -/
opaque dramLast : Nat → Nat

/-- The ECDSA P-384 public key of a number, as a point; the LMS public key: its identifier and its root (R354). -/
opaque ecdsaKey : Nat → Nat × Nat
opaque lmsKey : Nat → List Byte × List Byte

/-- The signature that the alias key of a number gives a digest (R355, R356). -/
opaque sign : Nat → BitVec 384 → BitVec 768

/-- The certificate of the alias key of a number: the signatures by the identity ECDSA key and by the identity HSS key
(R355). -/
opaque certify : Nat → BitVec 768
opaque certifyHss : Nat → List Byte

/-- What a datagram of a remote copy has that the spec does not give (R364): the next hop's Ethernet address for an
IPv6 address, the traffic class with the flow label, the hop limit; the UDP source port of a flow; the UDP port that a
flow's acknowledgements go to (R365). -/
opaque nextHop : BitVec 128 → BitVec 48
opaque ktpClass : BitVec 28
opaque ktpHops : BitVec 8
opaque flowPort : BitVec 32 → BitVec 16
opaque ackPort : BitVec 128 → BitVec 32 → BitVec 16

/-- The bytes of a report and of a debug token that are signed (R356, R358: the spec gives no layout). -/
opaque reportBytes : BitVec 128 → Lifecycle → BitVec 384 → Nat → List (BitVec 384) → List Byte
opaque tokenBytes : BitVec 128 → Lifecycle → BitVec 384 → BitVec 32 → List Byte

/-- What measurement register 15 is extended with at a debug unlock and at a change of lifecycle (R354,
R358). -/
opaque unlockEvent : List Byte
opaque lifeEvent : Lifecycle → List Byte

/-- The silicon stepping, an endpoint's revision identifier (R366). -/
opaque stepping : BitVec 8

/-- The n-th nonce of the random source (R358). -/
opaque nonce : Nat → BitVec 384

/-- The device identifier in the fuses (R356, R358). -/
opaque deviceId : BitVec 128

/-- The key numbers of the vendor, the owner and the owner's research enrolment (R331, R354). -/
def vendorKey : Nat := 0
def ownerKey : Nat := 1
def researchKey : Nat := 2

end Sys2Proof.Config
end

