-- ==== Sys2Proof/Machine/Map.lean ====
section
/-! DEFINITION. Finite maps as sorted lists of key and value pairs: the one form in which the
machine holds sparse data (register files, memory, records). -/

namespace Sys2Proof.Machine

/-- A finite map: pairs with rising keys. -/
abbrev Map (α : Type) := List (Nat × α)

/-- The value at key `k`, or `d` where the map lists none. -/
def look {α : Type} (d : α) (k : Nat) : Map α → α
  | [] => d
  | (j, v) :: m => if j = k then v else look d k m

/-- The value at key `k`, if listed. -/
def find {α : Type} (k : Nat) : Map α → Option α
  | [] => none
  | (j, v) :: m => if j = k then some v else find k m

/-- Remove key `k`. -/
def del {α : Type} (k : Nat) : Map α → Map α
  | [] => []
  | (j, v) :: m => if j = k then del k m else (j, v) :: del k m

/-- Insert a pair, before the first larger key. -/
def ins {α : Type} (k : Nat) (v : α) : Map α → Map α
  | [] => [(k, v)]
  | (j, w) :: m => if k < j then (k, v) :: (j, w) :: m else (j, w) :: ins k v m

/-- Set key `k` to `v`, whatever `v` is: for records. -/
def upd {α : Type} (k : Nat) (v : α) (m : Map α) : Map α := ins k v (del k m)

/-- Set key `k` to `v`; writing the default `d` removes the entry: for registers and memory. -/
def put {α : Type} [DecidableEq α] (d : α) (k : Nat) (v : α) (m : Map α) : Map α :=
  if v = d then del k m else ins k v (del k m)

/-- Every key of the map is below those after it. -/
def sorted {α : Type} : Map α → Bool
  | [] => true
  | [_] => true
  | (j, _) :: (k, v) :: m => decide (j < k) && sorted ((k, v) :: m)

/-- No entry holds the default `d`. -/
def proper {α : Type} [DecidableEq α] (d : α) : Map α → Bool
  | [] => true
  | (_, v) :: m => decide (v ≠ d) && proper d m

/-- Replace element `i` of a list. -/
def setAt {α : Type} (i : Nat) (v : α) : List α → List α
  | [] => []
  | x :: l => match i with
    | 0 => v :: l
    | n + 1 => x :: setAt n v l

/-- Element `i` of a list, or `d`. -/
def nth {α : Type} (d : α) (i : Nat) : List α → α
  | [] => d
  | x :: l => match i with
    | 0 => x
    | n + 1 => nth d n l

end Sys2Proof.Machine
end

