-- ==== Sys2Proof/Machine/Num.lean ====
section
/-! DEFINITION. Exact values, the number formats, rounding, conversion and the elementary functions
(R99 to R115). -/

namespace Sys2Proof.Machine

/-- An exact value: NaN, a signed infinity, or (−1)^neg · m · 2^e; a zero keeps its sign. -/
inductive Num
  | nan
  | inf (neg : Bool)
  | fin (neg : Bool) (m : Nat) (e : Int)
  deriving DecidableEq, Repr

/-! ## Flags (Table 5.6) -/

def fNV : Flags := 1#10
def fDZ : Flags := 2#10
def fOF : Flags := 4#10
def fUF : Flags := 8#10
def fNX : Flags := 16#10
def fAUR : Flags := 32#10
def fPCUT : Flags := 64#10
def fTRSV : Flags := 128#10
def fFOVF : Flags := 256#10
def fSATC : Flags := 512#10

/-! ## Formats -/

/-- A floating-point format (Table 5.1): exponent and mantissa widths, bias, whether an all-ones
exponent is infinity or NaN, the largest finite pattern, the canonical NaN if it has one. -/
structure Fmt where
  eb   : Nat
  mb   : Nat
  bias : Nat
  ieee : Bool
  big  : Nat
  nan  : Option Nat
  deriving DecidableEq, Repr

def fp32 : Fmt := ⟨8, 23, 127, true, 0x7F7FFFFF, some 0x7FC00000⟩
def bf16 : Fmt := ⟨8, 7, 127, true, 0x7F7F, some 0x7FC0⟩
def fp16 : Fmt := ⟨5, 10, 15, true, 0x7BFF, some 0x7E00⟩
def e4m3 : Fmt := ⟨4, 3, 7, false, 0x7E, some 0x7F⟩
def e5m2 : Fmt := ⟨5, 2, 15, true, 0x7B, some 0x7E⟩
def e2m1 : Fmt := ⟨2, 1, 1, false, 0x7, none⟩

/-- The weight of the sign bit. -/
def Fmt.sgn (F : Fmt) : Nat := 2 ^ (F.eb + F.mb)

/-- A pattern's value; `fi` reads a subnormal as zero (R100, R108). -/
def Fmt.dec (F : Fmt) (fi : Bool) (x : Nat) : Num :=
  let neg := decide (x / F.sgn % 2 = 1)
  let e := x / 2 ^ F.mb % 2 ^ F.eb
  let f := x % 2 ^ F.mb
  if F.ieee && decide (e = 2 ^ F.eb - 1) then
    if f = 0 then .inf neg else .nan
  else if (!F.ieee) && F.nan == some (x % F.sgn) then .nan
  else if e = 0 then .fin neg (if fi then 0 else f) (1 - (F.bias : Int) - F.mb)
  else .fin neg (2 ^ F.mb + f) ((e : Int) - F.bias - F.mb)

/-- The increment rounding adds to a truncated magnitude `k` with remainder `r` of `2^sh` (Table 5.3). -/
def roundUp (mode : Nat) (neg : Bool) (k r sh : Nat) : Bool :=
  match mode with
  | 0 => decide (2 * r > 2 ^ sh) || (decide (2 * r = 2 ^ sh) && decide (k % 2 = 1))
  | 1 => false
  | 2 => neg && decide (r ≠ 0)
  | _ => (!neg) && decide (r ≠ 0)

/-- m·2^e on the grid 2^q: the rounded count and whether it is inexact. -/
def roundTo (mode : Nat) (neg : Bool) (m : Nat) (e q : Int) : Nat × Bool :=
  if q ≤ e then (m * 2 ^ (e - q).toNat, false)
  else
    let sh := (q - e).toNat
    let k := m >>> sh
    let r := m % 2 ^ sh
    (k + (if roundUp mode neg k r sh then 1 else 0), decide (r ≠ 0))

/-- The overflow result and its flags (Table 5.4). -/
def Fmt.overflow (F : Fmt) (mode : Nat) (sat neg : Bool) : Nat × Flags :=
  let s := if neg then F.sgn else 0
  if sat || !F.ieee then (s + F.big, fSATC ||| fNX)
  else
    let toInf := match mode with
      | 0 => true
      | 1 => false
      | 2 => neg
      | _ => !neg
    (s + (if toInf then F.big + 1 else F.big), fOF ||| fNX)

/-- Round (R106, R107): the pattern and the flags. `fo` flushes a subnormal result; `sat` takes the
saturating row for a format that has infinities. -/
def Fmt.round (F : Fmt) (mode : Nat) (fo sat : Bool) : Num → Nat × Flags
  | .nan => match F.nan with
    | some x => (x, 0)
    | none => (0, fNV)
  | .inf neg =>
    let s := if neg then F.sgn else 0
    if sat || !F.ieee then (s + F.big, fSATC) else (s + (F.big + 1), 0)
  | .fin neg m e =>
    let s := if neg then F.sgn else 0
    if m = 0 then (s, 0)
    else
      let emin : Int := 1 - (F.bias : Int) - F.mb
      let q := max ((Nat.log2 m : Int) + e - F.mb) emin
      let (k, nx) := roundTo mode neg m e q
      let pat := (q - emin).toNat * 2 ^ F.mb + k
      if pat > F.big then F.overflow mode sat neg
      else
        let tiny := decide (pat < 2 ^ F.mb)
        let fl := (if nx then fNX else 0) ||| (if nx && tiny then fUF else 0)
        if fo && tiny && decide (pat ≠ 0) then (s, fl ||| fUF ||| fNX) else (s + pat, fl)

/-! ## Exact arithmetic -/

/-- The value's negation. -/
def Num.neg : Num → Num
  | .nan => .nan
  | .inf s => .inf (!s)
  | .fin s m e => .fin (!s) m e

/-- The signed integer of a finite value on the grid 2^q, q at most its exponent. -/
def Num.onGrid (q : Int) : Num → Int
  | .fin s m e => let v : Int := (m : Int) * 2 ^ (e - q).toNat
    if s then -v else v
  | _ => 0

/-- The value of an integer times 2^q; `z` is the sign of a zero. -/
def ofInt (z : Bool) (v q : Int) : Num :=
  if v = 0 then .fin z 0 q else .fin (decide (v < 0)) v.natAbs q

/-- The exact sum and its flag (R106 for the sign of a zero, R110). -/
def Num.add (mode : Nat) : Num → Num → Num × Flags
  | .nan, _ => (.nan, 0)
  | _, .nan => (.nan, 0)
  | .inf s, .inf t => if s = t then (.inf s, 0) else (.nan, fNV)
  | .inf s, _ => (.inf s, 0)
  | _, .inf t => (.inf t, 0)
  | .fin s m e, .fin t n f =>
    let q := min e f
    let v := (Num.fin s m e).onGrid q + (Num.fin t n f).onGrid q
    let z := if s = t then s else decide (mode = 2)
    (ofInt z v q, 0)

/-- The exact product and its flag (R110). -/
def Num.mul : Num → Num → Num × Flags
  | .nan, _ => (.nan, 0)
  | _, .nan => (.nan, 0)
  | .inf s, .inf t => (.inf (s != t), 0)
  | .inf s, .fin t n _ => if n = 0 then (.nan, fNV) else (.inf (s != t), 0)
  | .fin s m _, .inf t => if m = 0 then (.nan, fNV) else (.inf (s != t), 0)
  | .fin s m e, .fin t n f => (.fin (s != t) (m * n) (e + f), 0)

/-- The value times 2^k. -/
def Num.scale (k : Int) : Num → Num
  | .fin s m e => .fin s m (e + k)
  | x => x

def Num.isNan : Num → Bool
  | .nan => true
  | _ => false

def Num.isFin : Num → Bool
  | .fin _ _ _ => true
  | _ => false

/-- Whether one number is below another; false with a NaN; −0 equals +0. -/
def Num.lt : Num → Num → Bool
  | .nan, _ => false
  | _, .nan => false
  | .inf s, .inf t => s && !t
  | .inf s, .fin _ _ _ => s
  | .fin _ _ _, .inf t => !t
  | .fin s m e, .fin t n f =>
    let q := min e f
    decide ((Num.fin s m e).onGrid q < (Num.fin t n f).onGrid q)

/-- Whether two numbers are equal; false with a NaN; −0 equals +0. -/
def Num.eqv : Num → Num → Bool
  | .nan, _ => false
  | _, .nan => false
  | .inf s, .inf t => s == t
  | .fin s m e, .fin t n f =>
    let q := min e f
    decide ((Num.fin s m e).onGrid q = (Num.fin t n f).onGrid q)
  | _, _ => false

/-- The sign bit of a value. -/
def Num.sign : Num → Bool
  | .nan => false
  | .inf s => s
  | .fin s _ _ => s

/-- floor(log2 |x|) of a finite value that is not zero. -/
def floorLog2 (m : Nat) (e : Int) : Int := (Nat.log2 m : Int) + e

/-! ## Conversion to formats that are not floating (R109) -/

/-- To an integer range: rounded under the mode, limited to the bounds. -/
def Num.toRange (mode : Nat) (lo hi : Int) : Num → Int × Flags
  | .nan => (0, fNV)
  | .inf s => (if s then lo else hi, fSATC)
  | .fin s m e =>
    let (k, nx) := roundTo mode s m e 0
    let v : Int := if s then -(k : Int) else k
    let fl := if nx then fNX else 0
    if v < lo then (lo, fl ||| fSATC) else if hi < v then (hi, fl ||| fSATC) else (v, fl)

/-- To an E8M0 scale. -/
def Num.toE8M0 : Num → Nat × Flags
  | .nan => (0xFF, fNV)
  | .inf _ => (0xFF, fNV)
  | .fin s m e =>
    if m = 0 then (0, fNX)
    else
      let c := floorLog2 m e + 127
      let nx := if s || decide (m ≠ 2 ^ Nat.log2 m) then fNX else 0
      if c < 0 then (0, nx ||| fSATC) else if 254 < c then (254, nx ||| fSATC) else (c.toNat, nx)

/-- The low `n` bits of an integer. -/
def bitsOf (n : Nat) (v : Int) : Nat := (v % (2 ^ n : Int)).toNat

/-- The signed value of `n` bits. -/
def signed (n x : Nat) : Int := if x / 2 ^ (n - 1) % 2 = 1 then (x % 2 ^ n : Nat) - (2 ^ n : Int) else (x % 2 ^ n : Nat)

/-- The floating format of a code, if it is one (Table 5.2). -/
def fmtOf (c : Nat) : Option Fmt :=
  match c with
  | 0 => some fp32
  | 1 => some bf16
  | 2 => some fp16
  | 3 => some e4m3
  | 4 => some e5m2
  | 5 => some e4m3
  | 6 => some e2m1
  | _ => none

/-- The value of an element of a format code, with TRSV for a reserved ternary code (R101, R102). -/
def readElem (c : Nat) (fi : Bool) (x : Nat) : Num × Flags :=
  match fmtOf c with
  | some F => (F.dec fi x, 0)
  | none => match c with
    | 7 => (ofInt false (signed 8 x) 0, 0)
    | 8 => (ofInt false (signed 16 x) 0, 0)
    | 9 => (ofInt false (signed 32 x) 0, 0)
    | 10 => match x % 4 with
      | 0 => (.fin false 0 0, 0)
      | 1 => (.fin false 1 0, 0)
      | 3 => (.fin true 1 0, 0)
      | _ => (.fin false 0 0, fTRSV)
    | 11 => (.fin false (x % 256) 0, 0)
    | _ => if x % 256 = 255 then (.nan, 0) else (.fin false 1 (((x % 256 : Nat) : Int) - 127), 0)

/-- The element of a format code for an exact value (R106, R109, R110). -/
def writeElem (c mode : Nat) (fo sat : Bool) (x : Num) : Nat × Flags :=
  match fmtOf c with
  | some F => F.round mode fo sat x
  | none => match c with
    | 7 => let (v, f) := x.toRange mode (-128) 127; (bitsOf 8 v, f)
    | 8 => let (v, f) := x.toRange mode (-32768) 32767; (bitsOf 16 v, f)
    | 9 => let (v, f) := x.toRange mode (-2147483648) 2147483647; (bitsOf 32 v, f)
    | 10 => let (v, f) := x.toRange mode (-1) 1; (bitsOf 2 v, f)
    | 11 => let (v, f) := x.toRange mode 0 255; (bitsOf 8 v, f)
    | _ => x.toE8M0

/-! ## Elementary functions (R112)

Each delivers an exact value where the result is one, and otherwise a value with at least 64 bits
beyond any format's precision whose lowest bit stands for the remainder, so that one rounding decides. -/

/-- floor(√n), from bit `i` down. -/
def isqrtFrom (n : Nat) : Nat → Nat → Nat
  | 0, r => r
  | i + 1, r => let t := r + 2 ^ i
    isqrtFrom n i (if t * t ≤ n then t else r)

/-- floor(√n). -/
def isqrt (n : Nat) : Nat := isqrtFrom n (Nat.log2 n / 2 + 1) 0

/-- A magnitude with its remainder bit. -/
def sticky (k : Nat) (more : Bool) : Nat := 2 * k + (if more then 1 else 0)

/-- 1/x. -/
def Num.rcp : Num → Num × Flags
  | .nan => (.nan, 0)
  | .inf s => (.fin s 0 0, 0)
  | .fin s m e =>
    if m = 0 then (.inf s, fDZ)
    else
      let n := Nat.log2 m + 100
      (.fin s (sticky (2 ^ n / m) (decide (2 ^ n % m ≠ 0))) (-(n : Int) - e - 1), 0)

/-- m·2^e with an even exponent. -/
def evenExp (m : Nat) (e : Int) : Nat × Int := if e % 2 = 0 then (m, e) else (2 * m, e - 1)

/-- √x. -/
def Num.sqrt : Num → Num × Flags
  | .nan => (.nan, 0)
  | .inf s => if s then (.nan, fNV) else (.inf false, 0)
  | .fin s m e =>
    if m = 0 then (.fin s 0 0, 0)
    else if s then (.nan, fNV)
    else
      let (m2, e2) := evenExp m e
      let a := m2 * 2 ^ 200
      let r := isqrt a
      (.fin false (sticky r (decide (r * r ≠ a))) (e2 / 2 - 101), 0)

/-- 1/√x. -/
def Num.rsq : Num → Num × Flags
  | .nan => (.nan, 0)
  | .inf s => if s then (.nan, fNV) else (.fin false 0 0, 0)
  | .fin s m e =>
    if m = 0 then (.inf s, fDZ)
    else if s then (.nan, fNV)
    else
      let (m2, e2) := evenExp m e
      let n := Nat.log2 m2 + 100
      let r := isqrt (2 ^ (2 * n) / m2)
      (.fin false (sticky r (decide (r * r * m2 ≠ 2 ^ (2 * n)))) (-(n : Int) - e2 / 2 - 1), 0)

/-- The fixed point of the series below: 2^-360. -/
def fixp : Nat := 360

/-- ln 2 in fixed point: the sum of 1/(k·2^k) up to k terms. -/
def ln2Sum : Nat → Nat
  | 0 => 0
  | k + 1 => ln2Sum k + 2 ^ fixp / ((k + 1) * 2 ^ (k + 1))

def ln2 : Nat := ln2Sum 360

/-- The exponential series of t in fixed point: the terms after `term`, the n-th. -/
def expTerms (t : Nat) : Nat → Nat → Nat → Nat
  | 0, _, _ => 0
  | k + 1, n, term => let x := term * t / 2 ^ fixp / n
    x + expTerms t k (n + 1) x

/-- 2^x: a power of two where x is an integer. Beyond ±1,024 every format's result is decided. -/
def Num.exp2 : Num → Num × Flags
  | .nan => (.nan, 0)
  | .inf s => if s then (.fin false 0 0, 0) else (.inf false, 0)
  | .fin s m e =>
    if m = 0 then (.fin false 1 0, 0)
    else if 11 < floorLog2 m e then (if s then .fin false 3 (-2000) else .fin false 3 2000, 0)
    else
      let q : Int := min e 0
      let v := (Num.fin s m e).onGrid q
      let w : Int := 2 ^ (-q).toNat
      let i := v / w
      let f := (v % w).toNat
      if f = 0 then (.fin false 1 i, 0)
      else
        let t := f * ln2 / 2 ^ (-q).toNat
        let y := 2 ^ fixp + expTerms t 100 1 (2 ^ fixp)
        (.fin false (sticky y true) (i - fixp - 1), 0)

/-- The inverse hyperbolic tangent series: z2 is z², `zp` the odd power of z that comes next. -/
def atanhTerms (z2 : Nat) : Nat → Nat → Nat → Nat
  | 0, _, _ => 0
  | k + 1, n, zp => zp / n + atanhTerms z2 k (n + 2) (zp * z2 / 2 ^ fixp)

/-- log2 x: an integer where x is a power of two. -/
def Num.log2 : Num → Num × Flags
  | .nan => (.nan, 0)
  | .inf s => if s then (.nan, fNV) else (.inf false, 0)
  | .fin s m e =>
    if m = 0 then (.inf true, fDZ)
    else if s then (.nan, fNV)
    else
      let l := Nat.log2 m
      let i := floorLog2 m e
      if m = 2 ^ l then (ofInt false i 0, 0)
      else
        let z := (m - 2 ^ l) * 2 ^ fixp / (m + 2 ^ l)
        let y := 2 * atanhTerms (z * z / 2 ^ fixp) 130 1 z * 2 ^ fixp / ln2
        let v : Int := i * 2 ^ fixp + y
        (.fin (decide (v < 0)) (sticky v.natAbs true) (-(fixp : Int) - 1), 0)

/-- floor(x), keeping the sign of a zero. -/
def Num.floor : Num → Num
  | .fin s m e =>
    if m = 0 ∨ 0 ≤ e then .fin s m e
    else
      let v := (Num.fin s m e).onGrid e / 2 ^ (-e).toNat
      ofInt s v 0
  | x => x

/-! ## MX blocks (R114, R115) -/

/-- emax of an element code: E5M2, E4M3, E2M1. -/
def emaxOf (c : Nat) : Int :=
  match c with
  | 4 => 15
  | 5 => 8
  | _ => 2

/-- The larger magnitude of the finite values, as floor(log2) and none for all zero; `bad` where one
is NaN or infinite. -/
def amaxLog : List Num → Option Int × Bool
  | [] => (none, false)
  | x :: l =>
    let (a, bad) := amaxLog l
    match x with
    | .fin _ m e =>
      if m = 0 then (a, bad)
      else match a with
        | none => (some (floorLog2 m e), bad)
        | some b => (some (max b (floorLog2 m e)), bad)
    | _ => (a, true)

/-- The scale of a block for an element code, the flags, and X where the elements are scaled. -/
def mxScale (c : Nat) (xs : List Num) : Nat × Flags × Option Int :=
  match amaxLog xs with
  | (_, true) => (0xFF, fNV, none)
  | (none, false) => (0, 0, none)
  | (some l, false) =>
    let x := max (-127) (min 127 (l - emaxOf c))
    ((x + 127).toNat, 0, some x)

/-- One element of a quantised block: rounded to nearest even, saturating. -/
def mxElem (c : Nat) (x : Option Int) (v : Num) : Nat × Flags :=
  match x with
  | none => (0, 0)
  | some x => writeElem c 0 false true (v.scale (-x))

/-- The exact value of a block's element under its scale (R115). -/
def mxValue (c scale e : Nat) : Num :=
  if scale % 256 = 255 then .nan
  else (readElem c false e).1.scale (((scale % 256 : Nat) : Int) - 127)

end Sys2Proof.Machine
end

