-- ==== Sys2Proof/Machine/State.lean ====
section
/-! DEFINITION. The state of the machine: plain data, holding every piece of state the spec gives it;
the reasons a step can stop; the state after reset. -/

namespace Sys2Proof.Machine

/-! ## Sequencer state -/

/-- The privilege mode of a sequencer (R262). -/
inductive Mode | u | k
  deriving DecidableEq, Repr

/-- Whether a sequencer runs a task: free, running, or stopped by a double fault (R263). -/
inductive Run | off | running | stopped
  deriving DecidableEq, Repr

/-- The destination of a register write in flight, resolved at the writer's dispatch (R231). A vector
destination is a vector-file entry; `vlane` and `pquarter` are the partial writes of R92. -/
inductive Dest
  | s (n : Nat)
  | p (n : Nat)
  | v (entry : Nat)
  | m (n : Nat)
  | vlane (entry lane : Nat)
  | pquarter (n q : Nat)
  deriving DecidableEq, Repr

/-- A register write in flight or in a shadow latch: `left` bundles remain before it lands (R226);
`lock` marks an interlocked result. -/
structure Pend where
  dest : Dest
  val  : VWord
  left : Nat
  lock : Bool
  deriving DecidableEq, Repr

/-- An entry of the loop stack (R73). -/
structure LoopEnt where
  start : Word
  stop  : Word
  count : Word
  idx   : Word
  level : Nat
  deriving DecidableEq, Repr

/-- A domain: bounds, and the mask where it is valid (R236). -/
structure Dom where
  lo   : Int
  hi   : Int
  mask : Option Word
  deriving DecidableEq, Repr

/-- The domain every register holds at task start (R236, R318). -/
def Dom.full : Dom := ⟨-2147483648, 2147483647, none⟩

/-- A checkpoint: all domains, SCOUNT and the resume value (R242). -/
structure Ckpt where
  doms   : Map Dom
  scount : Nat
  resume : Word
  deriving DecidableEq, Repr

/-- The domain state of a sequencer (R247). The standing table holds each entry's slot bits [21:0]
(Table 14.8); an entry without its S bit names no domain (R260). The newest checkpoint is first. -/
structure DomUnit where
  doms     : Map Dom
  standing : List (BitVec 22)
  ckpts    : List Ckpt
  rexec    : BitVec 32
  deriving DecidableEq, Repr

/-- A bound stream handle (R175): the descriptor's fields and the position. `asked` counts the fills
started; `serial` tells the fills of this binding from those of an earlier one. -/
structure Handle where
  desc   : Word
  feed   : Bool
  ring   : Bool
  base   : Nat
  len    : Nat
  ch     : Nat
  tidx   : Nat
  count  : Nat
  head   : Nat
  filled : Nat
  off    : Nat
  asked  : Nat
  serial : Nat
  deriving DecidableEq, Repr

/-- MROW (Table 6.3). -/
structure MRow where
  pend : Bool
  busy : Bool
  idx  : BitVec 9
  rows : BitVec 16
  deriving DecidableEq, Repr

/-- A fault a matrix call met, not yet delivered (R130), with the call's flags. -/
structure MFault where
  cause : Nat
  tval  : Word
  flags : Flags
  deriving DecidableEq, Repr

/-- The effective kind of a page (Table 9.2). -/
inductive PKind | rc | so | uo | io
  deriving DecidableEq, Repr

/-- Where a store goes once it is translated. -/
inductive Place
  | phys (pa : Nat) (kind : PKind)
  | sram (core off : Nat)
  | aper (ch : Nat)
  deriving DecidableEq, Repr

/-- A store that waits for its bundle's commit (R69), with the position of its slot. -/
structure PStore where
  place : Place
  bytes : List Byte
  pos   : Nat
  deriving DecidableEq, Repr

/-- A CSR write's operation (R274). -/
inductive CsrOp | w | s | c
  deriving DecidableEq, Repr

/-- The control effect of a bundle's C slot, taken after the bundle (R31, R270). -/
inductive Ctl
  | none
  | jump (t : Word)
  | call (t : Word)
  | ret (t : Word)
  | loopPush (e : LoopEnt)
  | loopSkip (t : Word)
  | lend (rotate : Bool)
  | lbrk (t : Word)
  | csr (idx : Nat) (op : CsrOp) (v : Word)
  | sync (m : BitVec 3)
  | slack (n : BitVec 5)
  | pause
  | waitev (mask : BitVec 3)
  | trap (code : BitVec 12)
  | eret (t : Word)
  | tlbinv (kind : Nat) (va : Word)
  | icinv (all : Bool) (va : Word)
  | exit
  | yield
  deriving DecidableEq, Repr

/-- A handle's change at commit (R176, R177). -/
inductive Hop
  | consume (h : Nat)
  | produce (h : Nat)
  | bind (h : Nat) (hd : Handle)
  | adv (h n off : Nat)
  | unbind (h : Nat)
  deriving DecidableEq, Repr

/-- How a slot that must wait leaves its bundle: to be tried again, in a wait that a pre-emption may land at
(`retry`) or in another (`busy`; Table 12.6); parked at a future (R194); parked in CWAIT on a launch record
(R326); waiting in QPUSH on a queue, for room or for order (R311). -/
inductive Park
  | retry
  | busy
  | future (pa : Nat)
  | cwait (rec : Nat)
  | qpush (pipe queue : Nat) (order : Bool)
  deriving DecidableEq, Repr

/-- What a sequencer's bundle waits for; it is tried again at each turn. A future's waiter holds the value
once it is woken; a QPUSH holds whether the reserve entry has been granted to it, and the cycles it has waited. -/
inductive Wait
  | none
  | retry
  | busy
  | future (pa : Nat) (woken : Option Word)
  | cwait (rec : Nat)
  | qpush (pipe queue : Nat) (order granted : Bool) (cycles : Nat)
  deriving DecidableEq, Repr

/-- What holds a sequencer's dispatch after a committed bundle: an arrival at a barrier of a scope, by number
(R96); a trap chosen while a matrix call is in the unit, with its cause, TVAL and TADDR
(R230); an EXIT or YIELD whose bundle has committed with its matrix call still in the unit (R281, R282). -/
inductive Hold
  | none
  | bar (order scope inst : Nat)
  | trap (cause : Nat) (tval taddr : Word)
  | exit
  | yield
  deriving DecidableEq, Repr

/-- Where a pending request or interrupt lands (Table 12.6): at no bundle chosen yet; when the bundle in its
wait commits; when the bundle at a loop end commits; now, L having committed. -/
inductive Landing
  | none
  | next
  | loop (stop : Word)
  | now
  deriving DecidableEq, Repr

/-- A tensor shape record as it was read (Table 6.6). -/
structure Tensor where
  base   : Nat
  rows   : Nat
  cols   : Nat
  stride : Nat
  fmt    : Nat
  wr     : Bool
  tr     : Bool
  rsvd   : Nat
  trow   : Nat
  tcol   : Nat
  soff   : Nat
  deriving DecidableEq, Repr

/-- An entry of a group table (Table 6.7): the address of the B record, the bank, the rows. -/
structure Group where
  brec : Nat
  bank : Nat
  rows : Nat
  deriving DecidableEq, Repr

/-- A matrix call handed over (R125): the caller and its mode, the routine index, m0 to m7, the records
and the group table that its checks read. -/
structure MCall where
  q      : Nat
  mode   : Mode
  idx    : Nat
  par    : List Word
  ra     : Option Tensor
  rb     : Option Tensor
  groups : List Group
  deriving DecidableEq, Repr

/-- The bundle in execution: its place, its words, the position of the slot that executes, and the
effects that wait for its commit (R69), a matrix call among them (R125). `undo` holds what its atomics found where
they wrote, the last first (R29); `seen` the leaves that its accesses have passed, and whether they write (R159);
`reads` the places that its loads have read; `need` how many bundles before it the execute queue has executed where
its access slots have, 0 where they ask for none (R205, R225). `trapped` and `park` say that the slot just executed took a
trap or must wait. -/
structure Bun where
  addr    : Word
  len     : Nat
  words   : List Slot
  pos     : Nat
  ctl     : Ctl
  stores  : List PStore
  flags   : Flags
  hops    : List Hop
  publish : List (Nat × Nat)
  popped  : Option (Nat × Nat × Nat)
  mcall   : Option MCall
  undo    : List PStore
  seen    : List (Nat × Bool)
  reads   : List (Place × Nat)
  need    : Nat
  trapped : Option (Nat × Word)
  park    : Option Park
  deriving DecidableEq, Repr

/-- No bundle. -/
def Bun.none : Bun := ⟨0, 16, [], 0, .none, [], 0, [], [], .none, .none, [], [], [], 0, .none, .none⟩

/-- One sequencer: every register of R66, the control registers of Table 15.2 and what R229 to R235, R267, R277 and
R370 give it. `uhold` keeps a barrier the interrupted task has arrived at (R96); `land` is where the pending item
lands; `halt` asks for a stop at a landing, for a migration (R339); `accLag` and `exLag` are the bundles that the
access and the execute queue have not yet executed (R224), `flight` the bundles dispatched and not yet committed,
oldest first, with the effects that wait for their commit (R225); `pause` counts PAUSE's cycles (R79), `sync` a SYNC
that names the matrix unit (R80), `tlb` a TLBINV not yet acknowledged (R278). -/
structure Seq where
  run      : Run
  task     : Nat
  seqid    : BitVec 13
  clid     : BitVec 9
  sagid    : BitVec 4
  vdev     : Nat
  pc       : Word
  mode     : Mode
  s        : Map Word
  p        : Map PWord
  m        : Map Word
  loops    : List LoopEnt
  callLev  : Nat
  rrb      : BitVec 4
  vwb      : BitVec 12
  rmode    : BitVec 2
  fflags   : Flags
  slack    : BitVec 5
  ltick    : Word
  lvbase   : Word
  ttbase   : Word
  tvec     : Word
  tpk      : Bool
  tcause   : BitVec 8
  taddr    : Word
  tval     : Word
  tscr     : Word
  dbound   : BitVec 32
  evt      : BitVec 3
  dom      : DomUnit
  handles  : Map Handle
  inflight : List Pend
  latches  : List Pend
  preq     : Bool
  pirq     : BitVec 3
  land     : Landing
  halt     : Bool
  freeze   : Nat
  accLag   : Nat
  exLag    : Nat
  flight   : List Bun
  pause    : Nat
  sync     : Bool
  tlb      : Bool
  mrow     : MRow
  frec     : List Word
  mfault   : List MFault
  hold     : Hold
  uhold    : Hold
  wait     : Wait
  bun      : Bun
  deriving DecidableEq, Repr

/-- A sequencer that runs nothing. -/
def Seq.idle : Seq where
  run := .off
  task := 0
  seqid := 0
  clid := 0
  sagid := 0
  vdev := 0
  pc := 0
  mode := .u
  s := []
  p := []
  m := []
  loops := []
  callLev := 0
  rrb := 0
  vwb := 0
  rmode := 0
  fflags := 0
  slack := 16
  ltick := 0
  lvbase := 0
  ttbase := 0
  tvec := 0
  tpk := false
  tcause := 0
  taddr := 0
  tval := 0
  tscr := 0
  dbound := 1024
  evt := 0
  dom := ⟨[], [], [], 0⟩
  handles := []
  inflight := []
  latches := []
  preq := false
  pirq := 0
  land := .none
  halt := false
  freeze := 0
  accLag := 0
  exLag := 0
  flight := []
  pause := 0
  sync := false
  tlb := false
  mrow := ⟨false, false, 0, 0⟩
  frec := []
  mfault := []
  hold := .none
  uhold := .none
  wait := .none
  bun := Bun.none

/-! ## Core state -/

/-- The band state of an allocated accumulator bank (R140): its owner, whether its kind is INT32,
whether it is one of a pair. -/
structure Band where
  owner  : Nat
  int    : Bool
  paired : Bool
  deriving DecidableEq, Repr

/-- A member of a front (R297). -/
structure Member where
  obj : List (BitVec 32)
  pay : BitVec 32
  ins : Nat
  deriving DecidableEq, Repr

/-- A configured front register (R297): members in ascending insertion number. -/
structure Front where
  cfg     : Word
  members : List Member
  rej     : BitVec 32
  ctr     : Nat
  deriving DecidableEq, Repr

/-- A stream fill's destination: the handle, its binding and the entry (R175). -/
structure Fill where
  q      : Nat
  h      : Nat
  serial : Nat
  k      : Nat
  deriving DecidableEq, Repr

/-- A copy handed to a channel (R165), with the translation tables it works under (R160). -/
structure Copy where
  id    : BitVec 32
  q     : Nat
  sag   : Nat
  vdev  : Nat
  mode  : Mode
  ttb   : Word
  word  : BitVec 32
  p     : Word
  fill  : Option Fill
  tmem  : List Host.Cell
  deriving DecidableEq, Repr

/-- The sending side of a remote copy (R346, R365): `next` is the first element not yet sent, `ready` the bytes of
elements from there on that have been read. A segment in flight is its number, its first element, its element count, its retransmissions and its payload; `count` is the
number of the next. -/
structure KtpTx where
  port  : Nat
  addr  : BitVec 128
  rsag  : Nat
  uport : BitVec 16
  acked : Nat
  next  : Nat
  ready : List Byte
  segs  : List (Nat × Nat × Nat × Nat × List Byte)
  count : Nat
  deriving DecidableEq, Repr

/-- A running copy (R167): the template, the elements delivered in pattern order, the error, the
saturation count, the cores that refused or receive, the gathered contribution of an add-on-write
(element index in the bank and value bits), and the remote side. -/
structure CRun where
  copy    : Copy
  tmpl    : BitVec 512
  pos     : Nat
  satn    : Nat
  err     : Nat
  stop    : Bool
  refused : BitVec 8
  deliv   : BitVec 8
  gather  : List (Nat × BitVec 32)
  passed  : Bool
  rem     : Option KtpTx
  deriving DecidableEq, Repr

/-- A copy channel (R165, R172): `done` is C(ch), `last` the last ID given; `scopes` the SCOPE of each
completed copy. -/
structure Chan where
  done   : BitVec 32
  last   : BitVec 32
  queue  : List Copy
  run    : Option CRun
  scopes : List (BitVec 32 × Nat)
  deriving DecidableEq, Repr

/-- A line of an L1-role bank: the bytes it holds, those that are dirty, the data (R150, R184). -/
structure Line where
  have_ : BitVec 128
  dirty : BitVec 128
  data  : BitVec 1024
  deriving DecidableEq, Repr

/-- The call the matrix unit runs (R138): the word it stands at, 512 once it has ended; the counters'
values and limits; the return stack; the group selected; the A rows and B columns fetched with their element
codes and scale codes; the B record in use; the chunk sums; the partial sums (hi and lo), where not empty;
whether the pair in force accumulates integers; the flags raised; the end of the rows last written; the words
executed. -/
structure MRun where
  call  : MCall
  word  : Nat
  cval  : Map Nat
  clim  : Map Nat
  stack : List Nat
  grp   : Option Nat
  arows : List Nat
  ablk  : List (List Nat)
  ascl  : List Nat
  bcols : List Nat
  bblk  : List (List Nat)
  bscl  : List Nat
  brec  : Option Tensor
  sums  : List (List Num)
  parts : List (List (Option (Nat × Nat)))
  int   : Bool
  flags : Flags
  last  : Nat
  steps : Nat
  deriving DecidableEq, Repr

/-- One core: what its two sequencers share (Table 0.4, R35, R140, R151, R165, R268, R297). `refused` counts the cycles
in a row in which sequencer 1 was refused, `starved` holds sequencer 0 back for the next one (R34). -/
structure Core where
  sram     : List Host.Cell
  bankrole : Word
  vfile    : Map VWord
  bands    : Map Band
  acc      : Map (BitVec 32)
  glaze    : Map (BitVec 256)
  fronts   : Map Front
  chans    : Map Chan
  errcnt   : Word
  l1       : Map Line
  icache   : Map Slot
  mq       : List MCall
  mrun     : Option MRun
  refused  : Nat
  starved  : Bool
  deriving DecidableEq, Repr

/-- A copy channel at saggar start. -/
def Chan.init : Chan := ⟨0, 0, [], none, []⟩

/-- A core at saggar start (R137, R151, R287, R333, R336). -/
def Core.init : Core where
  sram := []
  bankrole := 0x5555555500000000#64
  vfile := []
  bands := []
  acc := []
  glaze := []
  fronts := []
  chans := []
  errcnt := 0
  l1 := []
  icache := []
  mq := []
  mrun := none
  refused := 0
  starved := false

/-! ## Work: tasks, launches, pipelines -/

/-- A stage task's part in its pipeline (R286): the pipeline, the stage, the stage-local consumer
index, the element's number and bytes, and whether it was popped. -/
structure StageTask where
  pipe   : Nat
  stage  : Nat
  idx    : Nat
  sn     : Nat
  elem   : List Byte
  popped : Bool
  deriving DecidableEq, Repr

/-- Which registers a save writes: scalars, predicates, parameters, window entries (R284). -/
structure Live where
  s : Nat
  p : Nat
  m : Nat
  v : Nat
  deriving DecidableEq, Repr

/-- A task (R314): its launch and place within it, its SEQID, the sequencer
it runs on, its arrivals at barriers of each scope (R96), its context area, whether it has ended or
yielded, and, of a yielded task, the live sets its save applied (`none`: it wrote every register), the lane of each of
its latches that holds a part of a register (R92), by the latch's number, the barrier it has arrived at, the matrix faults not yet delivered, the entries fed to its handles so far, and its pending
interrupts (R362). -/
structure Task where
  sag     : Nat
  launch  : Nat
  inst    : Nat
  grp     : Nat
  idx     : Nat
  sid     : Nat
  on      : Option Nat
  bars    : Map Nat
  ctx     : Nat
  ended   : Bool
  yielded : Bool
  live    : Option Live
  lanes   : Map Nat
  uhold   : Hold
  mfault  : List MFault
  fed     : Map Nat
  pirq    : BitVec 3
  stage   : Option StageTask
  deriving DecidableEq, Repr

/-- An accepted launch (R315, R320, R324): its record and the kiln's account of it. `charge` is the
quota it holds, `depd` the task that launched a dependent launch, `dcap` the charge it lends a dependent
of its own; `deal` the gangs queued on each logical cluster of a dealt launch (R322): the first and the end
of its own places in the deal, and a stolen gang; `rounds` the steal round of each
cluster; `next` the next gang of any other; `since` when the next began to wait. -/
structure Launch where
  sag     : Nat
  va      : Nat
  vdev    : Nat
  qcb     : Nat
  stream  : Bool
  seqno   : Nat
  prio    : Nat
  tstamp  : Word
  hint    : Nat
  gang    : Nat
  group   : Nat
  ngrid   : Nat
  det     : Bool
  entry   : Word
  param   : Word
  qcost   : Nat
  charge  : Nat
  depd    : Option Nat
  dcap    : Nat
  pipe    : Option Nat
  deal    : Map (Nat × Nat × Option Nat)
  rounds  : Map Nat
  next    : Nat
  since   : Nat
  running : Nat
  exited  : Nat
  dead    : Bool
  n0      : Nat
  deriving DecidableEq, Repr

/-- An element of a queue (R286): its sequence number, bytes, the sequencer it is reserved for
(R266). -/
structure Elem where
  sn   : Nat
  data : List Byte
  rsvd : Option Nat
  deriving DecidableEq, Repr

/-- An ordered queue of a live pipeline (R302, Table 17.7): its record's VA, bounds, elements, next number and
reserve grants. -/
structure OQueue where
  va     : Nat
  cap    : Nat
  size   : Nat
  hi     : Nat
  lo     : Nat
  elems  : List Elem
  next   : Nat
  grants : Nat
  deriving DecidableEq, Repr

/-- A stage of a live pipeline: its record's fields, the counts k(m) fixed so far (newest first), its
consumers' cores by index, `none` where the core has not arrived (R291, R309), and the consumers it has lost that
still have elements to run: the index, the first element no longer theirs, the core. -/
structure Stage where
  entry : Word
  min   : Nat
  max   : Nat
  qin   : Nat
  qout  : Nat
  ks    : List Nat
  cores : List (Option Nat)
  olds  : List (Nat × Nat × Option Nat)
  deriving DecidableEq, Repr

/-- A live pipeline (R286, R302). `moves` are the cores on their way from a donor stage to another
(R309): the donor, its consumer, the gaining stage, its consumer, the first element no longer the donor's. -/
structure Pipe where
  sag    : Nat
  launch : Nat
  va     : Nat
  die    : Nat
  bytes  : Nat
  stages : List Stage
  queues : List OQueue
  closed : Bool
  det    : Bool
  tick   : Nat
  owner  : Option Nat
  moves  : List (Nat × Nat × Nat × Nat × Nat)
  deriving DecidableEq, Repr

/-- A probe on its way (R311): the queue it left, the sequencer whose push sent it, its age in cycles, and whether a
branch of it comes back; it is forgotten once that push waits no more. -/
structure Probe where
  pipe  : Nat
  queue : Nat
  q     : Nat
  age   : Nat
  back  : Bool
  deriving DecidableEq, Repr

/-! ## Saggars and the platform -/

/-- An invalidation not yet acknowledged (R279): the sequencer that waits, and the channel markers. -/
structure Inval where
  q     : Option Nat
  marks : List (Nat × Nat × BitVec 32)
  deriving DecidableEq, Repr

/-- A window of clusters reserved for a waiting gang (R321). -/
structure Window where
  launch : Nat
  inst   : Nat
  first  : Nat
  n      : Nat
  deriving DecidableEq, Repr

/-- A saggar (R332, R333): its clusters in logical order, those leaving, the numbers others answer to (R339), the
migration in progress, the interrupts pending on sequencers under the numbers of their own while their cluster answers
to others (R339, R362), its quads, those leaving, the cycle it started in (R3), its translation roots, trap
bases, its error policy, kiln control block, slot table and timer position, kiln counters, hash
generation, memory key, NVMe namespace, doorbell registers. -/
structure Saggar where
  clusters : List Nat
  leaving  : List Nat
  answers  : List (Nat × Nat)
  moving   : Option (Nat × Nat)
  irqs     : Map (BitVec 3)
  quads    : List Nat
  quadsOut : List Nat
  cyc0     : Nat
  s2root   : Nat
  s1roots  : Map Nat
  tbases   : Map Word
  stopPol  : Bool
  kcb      : Nat
  slotTab  : Nat
  slot     : Nat
  decSeq   : Nat
  accSeq   : Nat
  windows  : List Window
  broken   : List Nat
  invals   : List Inval
  gen      : Nat
  sweep    : Bool
  key      : Nat
  keyed    : Bool
  ns       : BitVec 32
  nsPort   : Nat
  dbell0   : Word
  dbell1   : Word
  dbtgt    : Word
  stewards : List Nat
  loads    : List LoadTask
  deriving DecidableEq, Repr

/-- The state of a resource (Table 19.3). -/
inductive RState
  | neutral
  | owned (s : Nat)
  | leaving (s : Nat)
  | scrubbing
  | joining (s : Nat)
  deriving DecidableEq, Repr

/-- An Ethernet port (Table 20.5), its owner, the physical cycle at which each paused class's pause ends (R345), the
frames that wait for that and those sent. -/
structure Port where
  owner   : Option Nat
  lanes   : Bool
  en      : Bool
  ringErr : Bool
  ktpPort : BitVec 16
  ipLo    : Word
  ipHi    : Word
  ktpTab  : Word
  ktpN    : Word
  txBase  : Word
  txTail  : Word
  txHead  : Word
  rxBase  : Word
  rxTail  : Word
  rxHead  : Word
  ringLen : Word
  rxErr   : Word
  rxDrop  : Word
  pfc     : Map Nat
  waiting : List (List Byte)
  sent    : List (List Byte)
  deriving DecidableEq, Repr

/-- A port that no saggar owns. -/
def Port.init : Port where
  owner := none
  lanes := false
  en := false
  ringErr := false
  ktpPort := 0
  ipLo := 0
  ipHi := 0
  ktpTab := 0
  ktpN := 0
  txBase := 0
  txTail := 0
  txHead := 0
  rxBase := 0
  rxTail := 0
  rxHead := 0
  ringLen := 0
  rxErr := 0
  rxDrop := 0
  pfc := []
  waiting := []
  sent := []

/-- A KTP flow's receiving side (R365): the sender's address and FLOW word, the port, the copy in
progress, its descriptor, the elements performed, whether it failed, the segments performed since the last 8th with 8
more for each acknowledgement owed, the segments held; the elements performed of each earlier copy that did not
fail. -/
structure KtpRx where
  addr   : BitVec 128
  flow   : BitVec 32
  port   : Nat
  rsag   : Nat
  copy   : BitVec 32
  desc   : List Byte
  done   : Nat
  total  : Nat
  failed : Bool
  owed   : Nat
  held   : List KtpSeg
  past   : Map Nat
  deriving DecidableEq, Repr

/-- A PCIe port (R349, R366): its link, its MSI-X control register and pending bits, the host's writable registers of
its header (command and the two 64-bit BARs), the MSI-X table's 64-bit words, the vectors sent, the NVMe commands
issued. -/
structure PPort where
  width : Nat
  rate  : Nat
  msix  : BitVec 16
  pba   : BitVec 16
  cmd   : BitVec 16
  bar0  : Word
  bar2  : Word
  mtab  : Map Word
  sent  : List Nat
  nvme  : List (BitVec 32 × List Byte)
  deriving DecidableEq, Repr

/-- A PCIe port without a link. -/
def PPort.init : PPort := ⟨0, 0, 0, 0, 0, 0, 0, [], [], []⟩

/-- Whether the module has booted (R352). -/
inductive BootState | off | up | failed
  deriving DecidableEq, Repr

/-- An attestation report, with the two signatures of the alias certificate (R355, R356). -/
structure Report where
  device : BitVec 128
  life   : Lifecycle
  nonce  : BitVec 384
  sag    : Nat
  regs   : List (BitVec 384)
  sig    : BitVec 768
  cert   : BitVec 768
  cert2  : List Byte
  deriving DecidableEq, Repr

/-- The root of trust (R352 to R358): measurement registers, lifecycle, keys, nonce, debug port. -/
structure Rot where
  boot     : BootState
  regs     : Map (BitVec 384)
  life     : Lifecycle
  owner    : Bool
  research : Bool
  hss      : Nat
  aliasKey : Nat
  cert     : BitVec 768
  cert2    : List Byte
  keys     : Nat
  nonces   : Nat
  nonce    : Option (BitVec 384)
  debug    : Option (BitVec 32)
  reports  : List Report
  deriving DecidableEq, Repr

/-- The module configuration in force (R368). -/
structure ModCfg where
  macBase  : BitVec 48
  ethLanes : BitVec 16
  pcieEp   : BitVec 4
  ids      : Word
  deriving DecidableEq, Repr

/-- The bandwidth registers of one die and saggar (Table 19.4). -/
structure Bw where
  cur  : BitVec 32
  last : BitVec 32
  tot  : Word
  cap  : BitVec 32
  deriving DecidableEq, Repr

/-- The clock of a die: its rate in MHz and whether a droop stretches it (R359, R360). -/
structure DieClk where
  mhz   : Nat
  droop : Bool
  deriving DecidableEq, Repr

/-- A memory error to come (R178): reads of line `line` in the physical cycles from `first` to `last` meet it,
until the line is rewritten; `unc` where it cannot be corrected. -/
structure Upset where
  line  : Nat
  unc   : Bool
  first : Nat
  last  : Nat
  deriving DecidableEq, Repr

/-! ## The machine -/

/-- The whole machine. Sequencers are numbered 16·cluster + 2·core + i over the module, cores
8·cluster + core. Memory is by 52-bit physical address; an unlisted byte reads zero. `cur` is the sequencer
that acts, `turn` the core whose turn it is, `agenda` the events of the outside world still to come, first the next,
`skews` how far the access and the execute queue lag after each of the coming dispatches (R224), `upsets` the memory
errors, `errLog` the log of the uncorrectable ones met (R178): the core that met it, if one did, and the line;
`cycle` counts this model's cycles, `phys` the physical ones (R3); `pcBusy` is the resize record in progress, and
whether the controller has begun it. -/
structure State where
  cur      : Nat
  turn     : Nat
  agenda   : List Instr
  skews    : List (Nat × Nat)
  upsets   : List Upset
  errLog   : List (Option Nat × Nat)
  cycle    : Nat
  phys     : Nat
  freeCtr  : Nat
  serial   : Nat
  mem      : List Host.Cell
  seqs     : Map Seq
  cores    : Map Core
  sags     : Map Saggar
  tasks    : Map Task
  launches : Map Launch
  pipes    : Map Pipe
  probes   : List Probe
  clState  : Map RState
  quadSt   : Map RState
  groupSt  : Map RState
  pcBusy   : Option (Nat × Bool)
  ports    : Map Port
  flows    : Map KtpRx
  pcie     : Map PPort
  rot      : Rot
  cfg      : ModCfg
  cap      : Nat
  bw       : Map Bw
  clks     : Map DieClk
  deriving DecidableEq, Repr

/-- Why the machine stops. -/
inductive Fault
  /-- Raised by a step of a module whose boot has stopped (R352): it presents no port and runs
  nothing. Safe: nothing is claimed of it. -/
  | bootStopped
  deriving DecidableEq, Repr

/-- Why an operation is not carried out. -/
inductive Refusal
  /-- Raised by an arm of `exec` whose instruction has no meaning yet. Safe. -/
  | notModelled (mnemonic : String)
  deriving DecidableEq, Repr

/-- The machine right after power-on reset: nothing has booted, no saggar exists, nothing runs; every
measurement register is zero (R353); memory lists nothing. -/
def State.reset : State where
  cur := 0
  turn := 0
  agenda := []
  skews := []
  upsets := []
  errLog := []
  cycle := 0
  phys := 0
  freeCtr := 0
  serial := 0
  mem := []
  seqs := []
  cores := []
  sags := []
  tasks := []
  launches := []
  pipes := []
  probes := []
  clState := []
  quadSt := []
  groupSt := []
  pcBusy := none
  ports := []
  flows := []
  pcie := []
  rot := ⟨.off, [], .initial, false, false, 0, 0, 0, [], 0, 0, none, none, []⟩
  cfg := ⟨0, 0, 0, 0⟩
  cap := 190
  bw := []
  clks := []

end Sys2Proof.Machine
end

