-- ==== Sys2Proof/Machine/Reg.lean ====
section
/-! DEFINITION. Access to the parts of the state: sequencers, cores, saggars and records by number; the
registers of a sequencer and the writes that are on their way to them (R66, R226, R231). -/

namespace Sys2Proof.Machine

/-- What an event does: `o` where its condition holds; where it does not, nothing happens. -/
def happens (o : Option State) (s : State) : Host.Outcome State Fault Refusal := .next (o.getD s)

/-! ## Parts of the state by number -/

/-- Change the record at key `k`, if there is one. -/
def adj {α : Type} (k : Nat) (f : α → α) (m : Map α) : Map α :=
  match find k m with
  | some v => upd k (f v) m
  | none => m

/-- Sequencer `q`. -/
def seqAt (q : Nat) (s : State) : Seq := look Seq.idle q s.seqs

def modSeq (q : Nat) (f : Seq → Seq) (s : State) : State :=
  { s with seqs := upd q (f (seqAt q s)) s.seqs }

/-- The sequencer that acts. -/
def me (s : State) : Seq := seqAt s.cur s

def modMe (f : Seq → Seq) (s : State) : State := modSeq s.cur f s

/-- Core `k` of the module. -/
def coreAt (k : Nat) (s : State) : Core := look Core.init k s.cores

def modCore (k : Nat) (f : Core → Core) (s : State) : State :=
  { s with cores := upd k (f (coreAt k s)) s.cores }

/-- The core of the acting sequencer. -/
def myK (s : State) : Nat := s.cur / 2

def myCore (s : State) : Core := coreAt (myK s) s

/-- The cluster of a sequencer, and the core of that cluster with number `c` (Table 0.4). -/
def clusterOf (q : Nat) : Nat := q / 16

def coreIn (q c : Nat) : Nat := clusterOf q * 8 + c % 8

/-- A saggar with nothing in it. -/
def Saggar.none_ : Saggar where
  clusters := []
  leaving := []
  answers := []
  moving := none
  irqs := []
  quads := []
  quadsOut := []
  cyc0 := 0
  s2root := 0
  s1roots := []
  tbases := []
  stopPol := false
  kcb := 0
  slotTab := 0
  slot := 0
  decSeq := 0
  accSeq := 0
  windows := []
  broken := []
  invals := []
  gen := 0
  sweep := false
  key := 0
  keyed := false
  ns := 0
  nsPort := 0
  dbell0 := 0
  dbell1 := 0
  dbtgt := 0
  stewards := []
  loads := []

def sagAt (n : Nat) (s : State) : Saggar := look Saggar.none_ n s.sags

def modSag (n : Nat) (f : Saggar → Saggar) (s : State) : State :=
  { s with sags := adj n f s.sags }

/-- The saggar of the acting sequencer. -/
def mySagN (s : State) : Nat := (me s).sagid.toNat

def modTask (t : Nat) (f : Task → Task) (s : State) : State := { s with tasks := adj t f s.tasks }

def modLaunch (l : Nat) (f : Launch → Launch) (s : State) : State :=
  { s with launches := adj l f s.launches }

def modPipe (p : Nat) (f : Pipe → Pipe) (s : State) : State := { s with pipes := adj p f s.pipes }

/-- The next fresh number. -/
def fresh (s : State) : Nat × State := (s.serial, { s with serial := s.serial + 1 })

/-- The next free value's number. -/
def freeNext (s : State) : Nat × State := (s.freeCtr, { s with freeCtr := s.freeCtr + 1 })

/-! ## Reading registers (R66) -/

/-- Scalar register `n`: s0 reads zero. -/
def Seq.rs (x : Seq) (n : Nat) : Word := if n = 0 then 0 else look 0 n x.s

/-- Predicate register `n`: p0 reads all ones. -/
def Seq.rp (x : Seq) (n : Nat) : PWord := if n = 0 then BitVec.allOnes 256 else look 0 n x.p

/-- Matrix parameter `n`. -/
def Seq.rm (x : Seq) (n : Nat) : Word := look 0 n x.m

/-- A scalar operand of the acting sequencer. -/
def sreg (n : BitVec 6) (s : State) : Word := (me s).rs n.toNat

/-- A predicate operand of the acting sequencer. -/
def preg (n : BitVec 4) (s : State) : PWord := (me s).rp n.toNat

/-- GuardTrue (R67): bit 0 of the guard predicate. -/
def guardTrue (g : BitVec 3) (s : State) : Bool := ((me s).rp g.toNat).getLsbD 0

/-- The file entry that vector name `k`, 0 to 55, stands for: v40 to v55 rotate (R75, R199). -/
def Seq.ventry (x : Seq) (k : Nat) : Nat :=
  let w := if k < 40 then k else 40 + (k - 40 + x.rrb.toNat) % 16
  (x.vwb.toNat + w) % 4096

/-- Vector-file entry `e` of the acting sequencer's core. -/
def vfileAt (e : Nat) (s : State) : VWord := look 0 e (myCore s).vfile

/-! ## Writing registers: results on their way (R226, R227) -/

/-- Add a register write that is due `left` bundles on. -/
def issue (d : Dest) (v : VWord) (left : Nat) (lock : Bool) (s : State) : State :=
  modMe (fun x => { x with inflight := x.inflight ++ [⟨d, v, left, lock⟩] }) s

/-- An exposed scalar result; s0 discards it (R66). -/
def putS (d : BitVec 6) (v : Word) (lat : Nat) (s : State) : State :=
  if d = 0 then s else issue (.s d.toNat) (v.setWidth 2048) lat false s

/-- An interlocked scalar result. -/
def lockS (d : BitVec 6) (v : Word) (s : State) : State :=
  if d = 0 then s else issue (.s d.toNat) (v.setWidth 2048) 1 true s

/-- An exposed predicate result; p0 discards it. -/
def putP (d : BitVec 4) (v : PWord) (lat : Nat) (s : State) : State :=
  if d = 0 then s else issue (.p d.toNat) (v.setWidth 2048) lat false s

/-- An interlocked predicate result. -/
def lockP (d : BitVec 4) (v : PWord) (s : State) : State :=
  if d = 0 then s else issue (.p d.toNat) (v.setWidth 2048) 1 true s

/-- Lane `i` of width `w` bytes (R9). -/
def laneOf (v : VWord) (w i : Nat) : Nat := (v >>> (8 * w * i)).toNat % 2 ^ (8 * w)

/-- Bits of a value replaced from position `lo`. -/
def insertBits (v : Nat) (lo n x : Nat) : Nat :=
  v % 2 ^ lo + (x % 2 ^ n) * 2 ^ lo + v / 2 ^ (lo + n) * 2 ^ (lo + n)

/-- A register write arrives at sequencer `q` (R92, R226). -/
def landOne (q : Nat) (p : Pend) (s : State) : State :=
  match p.dest with
  | .s n => modSeq q (fun x => { x with s := put 0 n (p.val.setWidth 64) x.s }) s
  | .p n => modSeq q (fun x => { x with p := put 0 n (p.val.setWidth 256) x.p }) s
  | .m n => modSeq q (fun x => { x with m := put 0 n (p.val.setWidth 64) x.m }) s
  | .v e => modCore (q / 2) (fun c => { c with vfile := put 0 e p.val c.vfile }) s
  | .vlane e l => modCore (q / 2) (fun c =>
      let v := insertBits (look 0 e c.vfile).toNat (64 * l) 64 p.val.toNat
      { c with vfile := put 0 e (BitVec.ofNat 2048 v) c.vfile }) s
  | .pquarter n k => modSeq q (fun x =>
      let v := insertBits (look 0 n x.p).toNat (64 * k) 64 p.val.toNat
      { x with p := put 0 n (BitVec.ofNat 256 v) x.p }) s

/-- Writes arrive in order. -/
def landAll (q : Nat) : List Pend → State → State
  | [], s => s
  | p :: l, s => landAll q l (landOne q p s)

/-- One position on: every write is one bundle nearer. -/
def ageAll (l : List Pend) : List Pend := l.map fun p => { p with left := p.left - 1 }

/-- The next position of sequencer `q` (R226, R231): the writes due there arrive, in issue order, the
latched ones last; latches count in U mode only (R267). -/
def landDue (q : Nat) (s : State) : State :=
  let x := seqAt q s
  let fl := ageAll x.inflight
  let la := if x.mode = .u then ageAll x.latches else x.latches
  let due := fun (p : Pend) => decide (p.left = 0)
  let s1 := modSeq q (fun x =>
    { x with inflight := fl.filter (fun p => !due p), latches := la.filter (fun p => !due p) }) s
  landAll q (la.filter due) (landAll q (fl.filter due) s1)

/-- Results that arrive at once, in the order of their due positions. -/
def landByDue (q : Nat) (l : List Pend) (s : State) : State :=
  (List.range 9).foldl (fun s i => landAll q (l.filter fun p => p.left == i) s) s

/-- Whether sequencer `q` has a matrix call in the unit or handed over (R132). -/
def matrixBusy (q : Nat) (s : State) : Bool := (seqAt q s).mrow.busy

end Sys2Proof.Machine
end

