-- ==== Sys2Proof/Machine/Mem.lean ====
section
/-! DEFINITION. Memory: bytes, the two translation stages and the regions (R153 to R161), L1 lines,
release and acquire (R184), memory errors (R178), loads, stores, fetches and the accesses of agents. -/

namespace Sys2Proof.Machine

/-! ## Bytes -/

/-- Little-endian value of bytes. -/
def leNat : List Byte → Nat
  | [] => 0
  | b :: l => b.toNat + 256 * leNat l

/-- The `n` little-endian bytes of a value. -/
def leBytes : Nat → Nat → List Byte
  | 0, _ => []
  | n + 1, v => BitVec.ofNat 8 v :: leBytes n (v / 256)

/-- `n` bytes from address `a`. -/
def readCells (m : List Host.Cell) : Nat → Nat → List Byte
  | _, 0 => []
  | a, n + 1 => look 0 a m :: readCells m (a + 1) n

/-- Bytes written from address `a`. -/
def writeCells : Nat → List Byte → List Host.Cell → List Host.Cell
  | _, [], m => m
  | a, b :: l, m => writeCells (a + 1) l (put 0 a b m)

/-- The canonical form of memory: rising addresses, no zero byte listed. -/
def Memory.wf (m : List Host.Cell) : Bool := sorted m && proper 0 m

/-- The byte of memory at a physical address. -/
def byteAt (a : Nat) (s : State) : Byte := look 0 a s.mem

/-- Bytes written to their homes: the one way memory changes. -/
def setMem (a : Nat) (b : List Byte) (s : State) : State := { s with mem := writeCells a b s.mem }

/-- The 8-byte word at a physical address. -/
def word8 (m : List Host.Cell) (a : Nat) : Nat := leNat (readCells m a 8)

/-- Bits [hi:lo] (R67). -/
def bits (x hi lo : Nat) : Nat := x / 2 ^ lo % 2 ^ (hi + 1 - lo)

/-- Bit `i`. -/
def bit (x i : Nat) : Bool := decide (x / 2 ^ i % 2 = 1)

/-- Sign-extended to 64 bits (R67). -/
def sext64 (n x : Nat) : Word := BitVec.ofInt 64 (signed n x)

/-! ## Page tables (Table 8.3) -/

/-- The effective kind (R159). -/
def kindOf (e : Nat) : PKind :=
  match bits e 5 4 with
  | 0 => .rc
  | 1 => .so
  | 2 => .uo
  | _ => .io

/-- The stronger of two kinds (R159). -/
def stronger : PKind → PKind → PKind
  | .io, _ => .io
  | _, .io => .io
  | .so, _ => .so
  | _, .so => .so
  | .rc, _ => .rc
  | _, .rc => .rc
  | .uo, .uo => .uo

/-- An entry that faults wherever it stands (R158). -/
def entryBad (st2 : Bool) (e : Nat) : Bool :=
  !bit e 0 || decide (bits e 63 52 ≠ 0) || (bit e 2 && !bit e 1) || (st2 && bit e 6)

/-- A pointer entry, and one with a field that must be zero (R157). -/
def isPointer (e : Nat) : Bool := decide (bits e 3 1 = 0)

def pointerBad (e : Nat) : Bool :=
  decide (bits e 5 4 ≠ 0) || bit e 6 || decide (bits e 11 10 ≠ 0)

/-- The address a table entry names. -/
def frame (e : Nat) : Nat := bits e 51 12 * 4096

/-- An entry without its A and D bits. -/
def noAD (e : Nat) : Nat := e - bits e 8 7 * 128

/-- Whether the 16 entries of a 64 KiB page agree (R157). -/
def groupOk (m : List Host.Cell) (a e : Nat) : Bool :=
  let base := a - a % 128
  (List.range 16).all (fun i => decide (noAD (word8 m (base + 8 * i)) = noAD e)) &&
    decide (frame e % 65536 = 0)

/-- log2 of the size of a leaf at a level, where it is legal (R157). -/
def leafSize (m : List Host.Cell) (lvl a e : Nat) : Option Nat :=
  match lvl, bits e 11 10 with
  | 1, 3 => some 30
  | 2, 2 => some 21
  | 3, 0 => some 12
  | 3, 1 => if groupOk m a e then some 16 else none
  | _, _ => none

/-- Walk `k` levels from a table: the leaf, its address, log2 of its size. An error says whether stage 2
failed. `at_` gives the physical address of a table entry (R156). -/
def walk (m : List Host.Cell) (at_ : Nat → Except Bool Nat) (st2 : Bool) (a : Nat) :
    Nat → Nat → Except Bool (Nat × Nat × Nat)
  | 0, _ => .error st2
  | k + 1, base =>
    match at_ (base + 8 * (a / 2 ^ (12 + 9 * k) % 512)) with
    | .error b => .error b
    | .ok pa =>
      let e := word8 m pa
      if entryBad st2 e then .error st2
      else if isPointer e then
        if pointerBad e then .error st2 else walk m at_ st2 a k (frame e)
      else match leafSize m (3 - k) pa e with
        | none => .error st2
        | some sz => .ok (e, pa, sz)

/-- The address a leaf gives. -/
def through (e sz a : Nat) : Nat := frame e / 2 ^ sz * 2 ^ sz + a % 2 ^ sz

/-- Whether a leaf allows what is asked. -/
def allows (e : Nat) (r w x : Bool) : Bool := (!r || bit e 1) && (!w || bit e 2) && (!x || bit e 3)

/-- The platform window, which no device-core translation reaches (R361). -/
def platformIA : Nat := 0xFFF000000000

/-- Stage 2: an intermediate address to its leaf (R156, R158). -/
def stage2 (m : List Host.Cell) (root : Nat) (r w x : Bool) (ia : Nat) :
    Except Bool (Nat × Nat × Nat) :=
  if 2 ^ 48 ≤ ia ∨ (platformIA ≤ ia ∧ ia < platformIA + 65536) then .error true
  else match walk m (fun a => .ok a) true ia 4 root with
    | .error b => .error b
    | .ok (e, ea, sz) => if allows e r w x then .ok (e, ea, sz) else .error true

/-- A translation: the physical address, the kind, the stage-1 leaf with its place and size, and the
leaves that take the A and D bits. -/
structure Xlat where
  pa    : Nat
  kind  : PKind
  leaf  : Nat
  leafAt : Nat
  size  : Nat
  marks : List Nat
  deriving DecidableEq, Repr

/-- Host memory's physical addresses, where RC and UO act as SO (R367). -/
def hostRange (pa : Nat) : Bool := decide (0x8000000000000 ≤ pa) && decide (pa < 0xA000000000000)

/-- Both stages (R156 to R159). A physical address that is neither in main memory (Tables 0.1 and 0.2) nor in
host memory (R367) holds bytes as main memory does (log entry 61). -/
def xlate (m : List Host.Cell) (s2 s1 : Nat) (r w x shadow : Bool) (va : Nat) : Except Bool Xlat :=
  let at_ := fun ia => match stage2 m s2 true false false ia with
    | .error b => .error b
    | .ok (e, _, sz) => .ok (through e sz ia)
  match walk m at_ false va 4 s1 with
  | .error b => .error b
  | .ok (e, ea, sz) =>
    if !allows e r w x then .error false
    else
      let ia0 := through e sz va
      let ia := if shadow then (if bit ia0 sz then ia0 - 2 ^ sz else ia0 + 2 ^ sz) else ia0
      match stage2 m s2 r w x ia with
      | .error b => .error b
      | .ok (e2, ea2, sz2) =>
        let pa := through e2 sz2 ia
        let k := stronger (kindOf e) (kindOf e2)
        .ok ⟨pa, if hostRange pa then stronger k .so else k, e, ea, sz, [ea, ea2]⟩

/-- Set A, and D on a write, in leaves at their homes (R159). -/
def markLeaves (w : Bool) : List Nat → List Host.Cell → List Host.Cell
  | [], m => m
  | a :: l, m =>
    let m1 := put 0 a (look 0 a m ||| 0x80#8) m
    markLeaves w l (if w then put 0 (a + 1) (look 0 (a + 1) m1 ||| 1#8) m1 else m1)

/-! ## Regions (R153, R154) -/

/-- Who accesses: the tables it works under, its roots, its core if it has one, its mode. -/
structure View where
  tabs : List Host.Cell
  s2   : Nat
  s1   : Nat
  core : Option Nat
  mode : Mode
  deriving DecidableEq, Repr

/-- Whether an error is there now. -/
def Upset.live (u : Upset) (s : State) : Bool := decide (u.first ≤ s.phys) && decide (s.phys ≤ u.last)

/-- Tables as a walk reads them: a line with an uncorrectable error is delivered as zeros (R178). -/
def readable (s : State) (m : List Host.Cell) : List Host.Cell :=
  if s.upsets.isEmpty then m
  else m.filter fun c => !(s.upsets.any fun u => u.unc && u.live s && u.line == c.1 / 128)

/-- The tables that a saggar's accesses are translated by: without its memory key nothing of them can be
read (R357, R358). -/
def tablesIn (sag : Nat) (s : State) : List Host.Cell := if (sagAt sag s).keyed then s.mem else []

/-- The same as a walk reads them. -/
def tablesOf (sag : Nat) (s : State) : List Host.Cell := readable s (tablesIn sag s)

/-- A sequencer's view. -/
def viewOf (q : Nat) (s : State) : View :=
  let x := seqAt q s
  let g := sagAt x.sagid.toNat s
  ⟨tablesOf x.sagid.toNat s, g.s2root, look 0 x.vdev g.s1roots, some (q / 2), x.mode⟩

/-- The view of a saggar's agent under a virtual device's tables. -/
def agentView (sag vdev : Nat) (s : State) : View :=
  let g := sagAt sag s
  ⟨tablesOf sag s, g.s2root, look 0 vdev g.s1roots, none, .k⟩

/-- The role of a bank (Table 8.1). -/
def roleOf (c : Core) (b : Nat) : Nat := bits c.bankrole.toNat (2 * b + 1) (2 * b)

/-- The local byte a window address names, where the bank's role lets the window reach it (R154). -/
def windowAt (k : Nat) (va : Nat) (s : State) : Option (Nat × Nat) :=
  let own := fun off => let r := roleOf (coreAt k s) (off / 65536)
    if r = 1 ∨ r = 2 then some (k, off) else none
  if 0x7F0000000000 ≤ va ∧ va < 0x7F0000200000 then own (va - 0x7F0000000000)
  else if 0x7F1000000000 ≤ va ∧ va < 0x7F1001000000 then
    let o := va - 0x7F1000000000
    let c := k / 8 * 8 + o / 0x200000
    let off := o % 0x200000
    if c = k then own off
    else if roleOf (coreAt c s) (off / 65536) = 1 then some (c, off) else none
  else none

/-- Whether an address is one of the fixed windows' regions. -/
def inWindows (va : Nat) : Bool := decide (0x7F0000000000 ≤ va) && decide (va < 0x800000000000)

/-- Where an access at an address goes, and the leaves it marks; an error is the trap value (R153,
R154, R158). An aperture is reached by a store of 4 or 8 bytes at its offset 0 only, `ap`. -/
def place (v : View) (s : State) (r w x ap : Bool) (va : Nat) : Except Nat (Place × List Nat) :=
  if 2 ^ 48 ≤ va then .error va
  else if inWindows va then
    match v.core with
    | none => .error va
    | some k =>
      if x then .error va
      else if 0x7F8000000000 ≤ va ∧ va < 0x7F8000010000 then
        if ap && decide (va % 4096 = 0) then .ok (.aper (va / 4096 % 16), []) else .error va
      else match windowAt k va s with
        | some (c, off) => .ok (.sram c off, [])
        | none => .error va
  else if 0x800000000000 ≤ va ∧ v.mode = .u then .error va
  else match xlate v.tabs v.s2 v.s1 r w x false va with
    | .error st2 => .error (if st2 then va + 2 ^ 63 else va)
    | .ok t => .ok (.phys t.pa t.kind, t.marks)

/-- An access cut at 4 KiB boundaries (R162, R187). -/
def pieces : Nat → Nat → Nat → List (Nat × Nat)
  | 0, _, _ => []
  | f + 1, a, n =>
    let k := 4096 - a % 4096
    if n ≤ k then [(a, n)] else (a, k) :: pieces f ((a + k) % 2 ^ 64) (n - k)

/-- The pieces of an access of `n` bytes. -/
def cut (a n : Nat) : List (Nat × Nat) := pieces (n / 4096 + 2) a n

/-- The places of all pieces, in order; the lowest failing address where one fails. -/
def places (v : View) (s : State) (r w ap : Bool) :
    List (Nat × Nat) → Except Nat (List (Place × Nat) × List Nat)
  | [] => .ok ([], [])
  | (a, n) :: l =>
    match place v s r w false ap a with
    | .error t => .error t
    | .ok (p, ms) => match places v s r w ap l with
      | .error t => .error t
      | .ok (ps, mt) => .ok ((p, n) :: ps, ms ++ mt)

/-- Apply the A and D bits of an access. -/
def marked (w : Bool) (ms : List Nat) (s : State) : State := { s with mem := markLeaves w ms s.mem }

/-- The same for an access of the acting sequencer's bundle: what is left of it where the bundle is discarded (R159), and
the places it has read. -/
def noted (w : Bool) (ms : List Nat) (ps : List (Place × Nat)) (s : State) : State :=
  modMe (fun x => { x with bun := { x.bun with
    seen := x.bun.seen ++ ms.map fun a => (a, w)
    reads := x.bun.reads ++ ps } }) (marked w ms s)

/-- The marks of accesses that a discarded bundle has completed. -/
def remark (l : List (Nat × Bool)) (s : State) : State := l.foldl (fun s p => marked p.2 [p.1] s) s

/-! ## The L1 of a core (R150, R184) -/

def Line.none_ : Line := ⟨0, 0, 0⟩

/-- Whether a core has a bank in the L1 role. -/
def hasL1 (c : Core) : Bool := (List.range 32).any fun b => roleOf c b == 0

/-- Whether a place is cached by a core. -/
def cachedAt (k : Nat) (kind : PKind) (s : State) : Bool :=
  (kind == .rc || kind == .uo) && hasL1 (coreAt k s)

/-- Byte `i` of a line. -/
def Line.byte (l : Line) (i : Nat) : Byte := (l.data >>> (8 * i)).setWidth 8

/-- The line with byte `i` set. -/
def Line.set (i : Nat) (b : Byte) (dirt : Bool) (l : Line) : Line where
  have_ := l.have_ ||| BitVec.ofNat 128 (2 ^ i)
  dirty := if dirt then l.dirty ||| BitVec.ofNat 128 (2 ^ i) else l.dirty
  data := BitVec.ofNat 1024 (insertBits l.data.toNat (8 * i) 8 b.toNat)

/-- The bytes of a line that it does not hold come from their homes. -/
def fillFrom (m : List Host.Cell) (ln : Nat) : Nat → Line → Line
  | 0, l => l
  | i + 1, l =>
    fillFrom m ln i (if l.have_.getLsbD i then l else l.set i (look 0 (128 * ln + i) m) false)

/-- The dirty bytes of a line go to their homes (R180). -/
def spill (ln : Nat) (l : Line) : Nat → List Host.Cell → List Host.Cell
  | 0, m => m
  | i + 1, m =>
    spill ln l i (if l.dirty.getLsbD i then put 0 (128 * ln + i) (l.byte i) m else m)

/-- Every dirty byte of a list of lines to its home. -/
def spillAll : Map Line → List Host.Cell → List Host.Cell
  | [], m => m
  | (ln, l) :: r, m => spillAll r (spill ln l 128 m)

/-- The lines that stay in an L1 once every dirty byte has gone home: those that it holds whole. A clean part of a line
would be filled up with later bytes, and so show a store in part (R180). -/
def cleaned (m : Map Line) : Map Line :=
  (m.filter fun p => p.2.have_ = BitVec.allOnes 128).map fun p => (p.1, { p.2 with dirty := 0 })

/-- Read bytes through a core's L1. -/
def l1Read (k : Nat) : Nat → Nat → State → List Byte × State
  | _, 0, s => ([], s)
  | pa, n + 1, s =>
    let c := coreAt k s
    let l := look Line.none_ (pa / 128) c.l1
    let l1 := if l.have_.getLsbD (pa % 128) then l else fillFrom s.mem (pa / 128) 128 l
    let s1 := if l.have_.getLsbD (pa % 128) then s
      else modCore k (fun c => { c with l1 := upd (pa / 128) l1 c.l1 }) s
    let (bs, s2) := l1Read k (pa + 1) n s1
    (l1.byte (pa % 128) :: bs, s2)

/-- Write bytes into a core's L1. -/
def l1Write (k : Nat) : Nat → List Byte → State → State
  | _, [], s => s
  | pa, b :: bs, s =>
    let f := fun (c : Core) =>
      { c with l1 := upd (pa / 128) ((look Line.none_ (pa / 128) c.l1).set (pa % 128) b true) c.l1 }
    l1Write k (pa + 1) bs (modCore k f s)

/-! ## Memory errors (R178, R268) -/

/-- The line of a local byte, above those of memory. -/
def sramLine (c off : Nat) : Nat := 2 ^ 45 + c * 16384 + off / 128

/-- The lines that `n` bytes of a place lie in. -/
def linesOf (p : Place) (n : Nat) : List Nat :=
  let run := fun (first off : Nat) => (List.range ((off % 128 + n + 127) / 128)).map (first + ·)
  match p with
  | .phys pa _ => run (pa / 128) pa
  | .sram c off => run (sramLine c off) off
  | .aper _ => []

/-- The copy of a memory line in a core's L1-role banks, above those of local bytes. -/
def l1Line (k ln : Nat) : Nat := 2 ^ 46 + k * 2 ^ 45 + ln

/-- Whether a core's L1 holds the bytes that a read of `n` bytes at `pa` takes of a line. -/
def l1Holds (k pa n ln : Nat) (s : State) : Bool :=
  (List.range 128).all fun i =>
    decide (128 * ln + i < pa) || decide (pa + n ≤ 128 * ln + i) ||
      (look Line.none_ ln (coreAt k s).l1).have_.getLsbD i

/-- The lines that a read for a core, or an agent, reads: the core's L1 copy of a line, or its home. -/
def readLines (k : Option Nat) (p : Place) (n : Nat) (s : State) : List Nat :=
  match k, p with
  | some k, .phys pa kind => (linesOf p n).map fun ln => if cachedAt k kind s && l1Holds k pa n ln s then l1Line k ln else ln
  | _, _ => linesOf p n

/-- The lines of a list that have an error, uncorrectable or not. -/
def upsetIn (unc : Bool) (l : List Nat) (s : State) : List Nat :=
  if s.upsets.isEmpty then []
  else l.filter fun ln => s.upsets.any fun u => u.line == ln && u.unc == unc && u.live s

/-- The lines of a read that have an error, uncorrectable or not. -/
def upsetLines (unc : Bool) (k : Option Nat) (p : Place) (n : Nat) (s : State) : List Nat :=
  upsetIn unc (readLines k p n s) s

/-- Add to a counter of ERRCNT, which stops at 0xFFFF: SBE at bit 0, UE at 16, RESID at 32 (Table 15.3). -/
def bumpErr (lo n : Nat) (e : Word) : Word :=
  let x := bits e.toNat (lo + 15) lo
  BitVec.ofNat 64 (e.toNat - x * 2 ^ lo + min 0xFFFF (x + n) * 2 ^ lo)

def countCoreErr (k : Option Nat) (lo n : Nat) (s : State) : State :=
  match k with
  | none => s
  | some k => modCore k (fun c => { c with errcnt := bumpErr lo n c.errcnt }) s

/-- Change every copy that a channel holds. -/
def Chan.mapCopies (f : Copy → Copy) (h : Chan) : Chan :=
  { h with queue := h.queue.map f, run := h.run.map fun r => { r with copy := f r.copy } }

def mapCopies (f : Copy → Copy) (s : State) : State :=
  { s with cores := s.cores.map fun c =>
      (c.1, { c.2 with chans := c.2.chans.map fun h => (h.1, h.2.mapCopies f) }) }

/-- A line's home, or its copy in an L1, holds zeros; the tables that copies work under hold what their home does. -/
def zeroLine (ln : Nat) (s : State) : State :=
  if ln < 2 ^ 45 then
    mapCopies (fun c => { c with tmem := c.tmem.filter fun x => x.1 / 128 ≠ ln })
      (setMem (128 * ln) (List.replicate 128 0) s)
  else if 2 ^ 46 ≤ ln then modCore ((ln - 2 ^ 46) / 2 ^ 45) (fun c =>
    { c with l1 := adj (ln % 2 ^ 45) (fun l => { l with data := 0 }) c.l1 }) s
  else modCore ((ln - 2 ^ 45) / 16384) (fun c =>
    { c with sram := writeCells (128 * ((ln - 2 ^ 45) % 16384)) (List.replicate 128 0) c.sram }) s

/-- The errors of lines that have been read or rewritten are gone. -/
def dropUpsets (l : List Nat) (s : State) : State :=
  { s with upsets := s.upsets.filter fun u => !(l.contains u.line && u.live s) }

/-- A read of lines meets their errors: a corrected one is counted; an uncorrectable one is counted and logged, and
leaves zeros in the line (log entry 34). -/
def healLines (k : Option Nat) (l : List Nat) (s : State) : State :=
  if s.upsets.isEmpty then s
  else
    let bad := upsetIn true l s
    let weak := upsetIn false l s
    let s1 := countCoreErr k 16 bad.length (countCoreErr k 0 weak.length s)
    bad.foldl (fun s ln => zeroLine ln s)
      (dropUpsets (bad ++ weak) { s1 with errLog := s1.errLog ++ bad.map fun ln => (k, ln) })

/-- A read of a place meets its errors. -/
def heal (k : Option Nat) (p : Place) (n : Nat) (s : State) : State := healLines k (readLines k p n s) s

/-- The same for every piece. -/
def healAll (k : Option Nat) (ps : List (Place × Nat)) (s : State) : State :=
  ps.foldl (fun s p => heal k p.1 p.2 s) s

/-- A store of `n` bytes: a line that it covers is rewritten, at its home or in the core's L1; the rest of another is
read and merged. -/
def healStore (k : Option Nat) (p : Place) (n : Nat) (s : State) : State :=
  if s.upsets.isEmpty then s
  else
    let inner := fun (off : Nat) =>
      let skip := (128 - off % 128) % 128
      (List.range ((n - skip) / 128)).map ((off + skip) / 128 + ·)
    heal k p n (dropUpsets (match p with
      | .phys pa kind => (inner pa).map fun ln => match k with
        | some k => if cachedAt k kind s then l1Line k ln else ln
        | none => ln
      | .sram c off => (inner off).map (sramLine c 0 + ·)
      | .aper _ => []) s)

/-! ### Write-back, release and acquire (R178, R180, R184) -/

/-- Dirty bytes are to go home: the error of a line that they do not cover is met by the merge read; of one that they
cover, it is gone. No line of memory has a number of 2^45 or more. -/
def mergeHome (k : Nat) (m : Map Line) (s : State) : State :=
  if s.upsets.isEmpty then s
  else m.foldl (fun s p =>
    if p.2.dirty = 0 ∨ 2 ^ 45 ≤ p.1 then s
    else if p.2.dirty = BitVec.allOnes 128 then dropUpsets [p.1] s
    else healLines (some k) [p.1] s) s

/-- A write-back of a core's lines meets the errors of those with dirty bytes: the lines as they are read, and the state
it leaves. -/
def evicted (k : Nat) (m : Map Line) (s : State) : Map Line × State :=
  if s.upsets.isEmpty then (m, s)
  else
    let l := (m.filter fun p => p.2.dirty ≠ 0).map fun p => l1Line k p.1
    let bad := upsetIn true l s
    (m.map fun p => if bad.contains (l1Line k p.1) then (p.1, { p.2 with data := 0 }) else p, healLines (some k) l s)

/-- The dirty bytes of a core's lines go to their homes. -/
def homeward (k : Nat) (m : Map Line) (s : State) : State :=
  let (m1, s1) := evicted k m s
  let s2 := mergeHome k m1 s1
  { s2 with mem := spillAll m1 s2.mem }

/-- Write a core's line back and drop it. -/
def flushLine (k ln : Nat) (s : State) : State :=
  match find ln (coreAt k s).l1 with
  | none => s
  | some l => modCore k (fun c => { c with l1 := del ln c.l1 }) (homeward k [(ln, l)] s)

/-- Write back and drop each line that `n` bytes at `pa` touch. -/
def flushRange (k : Nat) (pa n : Nat) (s : State) : State :=
  (List.range (n / 128 + 2)).foldl (fun s i =>
    if (pa / 128 + i) * 128 < pa + n then flushLine k (pa / 128 + i) s else s) s

/-- A release by a party of core `k` at a scope (R184): at cl and wider every dirty byte goes home. -/
def release (k scope : Nat) (s : State) : State :=
  if scope = 0 then s
  else modCore k (fun c => { c with l1 := cleaned c.l1 }) (homeward k (coreAt k s).l1 s)

/-- An acquire by a party of core `k` at a scope (R184): at cl and wider the clean bytes go. -/
def acquire (k scope : Nat) (s : State) : State :=
  if scope = 0 then s
  else modCore k (fun c =>
    { c with l1 := (c.l1.filter fun p => p.2.dirty ≠ 0).map fun p =>
               (p.1, { p.2 with have_ := p.2.dirty }) }) s

/-! ### The tables' own lines -/

/-- The addresses of the entries that a walk reads; `pre` gives those read to find an entry. -/
def walkSees (m : List Host.Cell) (at_ : Nat → Except Bool Nat) (pre : Nat → List Nat) (a : Nat) :
    Nat → Nat → List Nat
  | 0, _ => []
  | k + 1, base =>
    let x := base + 8 * (a / 2 ^ (12 + 9 * k) % 512)
    pre x ++ match at_ x with
      | .error _ => []
      | .ok pa =>
        let e := word8 m pa
        pa :: if bit e 0 && isPointer e then walkSees m at_ pre a k (frame e) else []

/-- The entries that a translation reads at stage 2, and at both stages. -/
def stage2Sees (m : List Host.Cell) (root ia : Nat) : List Nat :=
  if 2 ^ 48 ≤ ia then [] else walkSees m (fun a => .ok a) (fun _ => []) ia 4 root

def tableSees (v : View) (va : Nat) : List Nat :=
  if 2 ^ 48 ≤ va || inWindows va then []
  else
    let at_ := fun ia => match stage2 v.tabs v.s2 true false false ia with
      | .error b => .error b
      | .ok (e, _, sz) => .ok (through e sz ia)
    walkSees v.tabs at_ (stage2Sees v.tabs v.s2) va 4 v.s1 ++
      match walk v.tabs at_ false va 4 v.s1 with
      | .error _ => []
      | .ok (e, _, sz) => stage2Sees v.tabs v.s2 (through e sz va)

/-- The lines of table entries that the translation of an address reads with an error. -/
def tableUpsets (unc : Bool) (v : View) (va : Nat) (s : State) : List Nat :=
  if s.upsets.isEmpty then []
  else (((tableSees v va).map (· / 128)).eraseDups).filter fun ln =>
    s.upsets.any fun u => u.line == ln && u.unc == unc && u.live s

/-- A sequencer's, or an agent's, translations of an access's pieces meet the errors of the tables' lines. -/
def healTables (k : Option Nat) (v : View) (as : List (Nat × Nat)) (s : State) : State :=
  if s.upsets.isEmpty then s
  else as.foldl (fun s a =>
    (tableUpsets true v a.1 s ++ tableUpsets false v a.1 s).foldl (fun s ln => heal k (.phys (128 * ln) .so) 128 s) s) s

/-- The translation of an access of `n` bytes of the acting sequencer meets the errors of the tables' lines. -/
def walked (a n : Nat) (s : State) : State := healTables (some (myK s)) (viewOf s.cur s) (cut a n) s

/-- Whether a sequencer's saggar stops at an uncorrectable read. -/
def stopsAt (q : Nat) (s : State) : Bool := (sagAt (seqAt q s).sagid.toNat s).stopPol

/-- Whether the translation of an address meets an error that stops sequencer `q`. -/
def tableStops (q va : Nat) (s : State) : Bool := stopsAt q s && !(tableUpsets true (viewOf q s) va s).isEmpty

/-- The cause and value of a trap: a translation fault for want of a table line that could not be read is a machine
check where the saggar stops (R178). -/
def trapCause (q cause : Nat) (tval : Word) (s : State) : Nat × Word :=
  let va := tval.toNat % 2 ^ 63
  if (cause = 0x08 ∨ cause = 0x09) ∧ tableStops q va s then (0x18, BitVec.ofNat 64 va) else (cause, tval)

/-- The address of the first piece of a read that a machine check stops. -/
def machineCheck (q : Nat) (as : List (Nat × Nat)) (ps : List (Place × Nat)) (s : State) : Option Nat :=
  if stopsAt q s then
    ((as.zip ps).find? fun x => !(upsetLines true (some (q / 2)) x.2.1 x.2.2 s).isEmpty).map (·.1.1)
  else none

/-! ## Loads and stores -/

/-- Read a place, for a sequencer of core `k` (R150, R181). -/
def readPlace (k : Nat) (p : Place) (n : Nat) (s : State) : List Byte × State :=
  match p with
  | .sram c off => (readCells (coreAt c s).sram off n, s)
  | .aper _ => ([], s)
  | .phys pa kind =>
    if cachedAt k kind s then l1Read k pa n s
    else
      let s1 := flushRange k pa n s
      (readCells s1.mem pa n, s1)

/-- Write a place, for a sequencer of core `k`. -/
def writePlace (k : Nat) (p : Place) (b : List Byte) (s : State) : State :=
  match p with
  | .sram c off => modCore c (fun c => { c with sram := writeCells off b c.sram }) s
  | .aper _ => s
  | .phys pa kind =>
    if cachedAt k kind s then l1Write k pa b s
    else setMem pa b (flushRange k pa b.length s)

/-- Whether a read of `n` bytes at their home meets an error that stops sequencer `q` (R178). -/
def homeStops (q : Nat) (p : Place) (n : Nat) (s : State) : Bool :=
  stopsAt q s && !(upsetLines true none p n s).isEmpty

/-- Before core `k` reads at the home: its own copies of the lines are written back and dropped, and the lines'
errors are met (R178, R181). -/
def toHome (k pa n : Nat) (s : State) : State := heal (some k) (.phys pa .so) n (flushRange k pa n s)

/-- A store is performed: its lines' errors are met first (R178). -/
def storePlace (k : Nat) (p : Place) (b : List Byte) (s : State) : State :=
  writePlace k p b (healStore (some k) p b.length s)

/-- Read every piece in order. -/
def readPlaces (k : Nat) : List (Place × Nat) → State → List Byte × State
  | [], s => ([], s)
  | (p, n) :: l, s =>
    let (b, s1) := readPlace k p n s
    let (bs, s2) := readPlaces k l s1
    (b ++ bs, s2)

/-- Bytes from address `a` with those that a store of `b` at `x` holds. -/
def overlay (a x : Nat) (b l : List Byte) : List Byte :=
  l.zipIdx.map fun p => if x ≤ a + p.2 ∧ a + p.2 < x + b.length then b.getD (a + p.2 - x) 0 else p.1

/-- A store without the bytes that another write of `n` bytes at a place leaves its value in (R29). -/
def PStore.minus (p : Place) (n : Nat) (t : PStore) : List PStore :=
  let cut := fun (x a : Nat) (at_ : Nat → Place) =>
    if x + n ≤ a ∨ a + t.bytes.length ≤ x then [t]
    else [{ t with bytes := t.bytes.take (x - a) }, { t with place := at_ (x + n), bytes := t.bytes.drop (x + n - a) }].filter
      fun u => !u.bytes.isEmpty
  match p, t.place with
  | .phys x _, .phys a k => cut x a fun b => .phys b k
  | .sram c x, .sram d a => if c = d then cut x a (.sram c) else [t]
  | _, _ => [t]

/-- What a read of a place gives beside a store that is not yet performed (R181, R225). -/
def PStore.over (p : Place) (t : PStore) (l : List Byte) : List Byte :=
  match p, t.place with
  | .phys a _, .phys x _ => overlay a x t.bytes l
  | .sram c a, .sram d x => if c = d then overlay a x t.bytes l else l
  | _, _ => l

/-- The bytes read, with those of the sequencer's own stores that its queues still hold. -/
def forwarded (fl : List Bun) : List (Place × Nat) → List Byte → List Byte
  | [], _ => []
  | (p, n) :: ps, l =>
    fl.foldl (fun l b => b.stores.foldl (fun l t => t.over p l) l) (l.take n) ++ forwarded fl ps (l.drop n)

/-- Load `n` bytes at an address for the acting sequencer; an error is the trap's cause and value: a page
fault (R162), or a machine check (R178). -/
def load (a n : Nat) (s : State) : Except (Nat × Nat) (List Byte × State) :=
  match places (viewOf s.cur s) s true false false (cut a n) with
  | .error t => .error (0x08, t)
  | .ok (ps, ms) => match machineCheck s.cur (cut a n) ps s with
    | some t => .error (0x18, t)
    | none =>
      let s1 := healTables (some (myK s)) (viewOf s.cur s) (cut a n) (noted false ms ps s)
      let (l, s2) := readPlaces (myK s) ps (healAll (some (myK s)) ps s1)
      .ok (if (me s).flight.isEmpty then l else forwarded (me s).flight ps l, s2)

/-- The stores of a piece list, by the slot at a position. -/
def pstores (pos : Nat) : List (Place × Nat) → List Byte → List PStore
  | [], _ => []
  | (p, n) :: l, b => ⟨p, b.take n, pos⟩ :: pstores pos l (b.drop n)

/-- Check a store of bytes at an address and hold it for the commit of its bundle (R69, R162). -/
def store (a : Nat) (b : List Byte) (ap : Bool) (s : State) : Except Nat State :=
  match places (viewOf s.cur s) s false true ap (cut a b.length) with
  | .error t => .error t
  | .ok (ps, ms) =>
    .ok (modMe (fun x => { x with bun := { x.bun with stores := x.bun.stores ++ pstores x.bun.pos ps b } })
      (healTables (some (myK s)) (viewOf s.cur s) (cut a b.length) (marked true ms s)))

/-! ## Fetch (R64, R280) -/

/-- Fetch the word at an address for sequencer `q`: from the core's fetched copy, from the home, or, where
the two differ, from either. An error is the trap's cause and value. -/
def fetchWord (q a : Nat) (s : State) : Except (Nat × Nat) (Slot × State) :=
  match place (viewOf q s) s false false true false a with
  | .error t => .error (0x08, t)
  | .ok (.phys pa kind, ms) =>
    let s0 := healTables (some (q / 2)) (viewOf q s) [(a, 4)] (marked false ms s)
    let copy := find (pa / 4) (coreAt (q / 2) s0).icache
    if stopsAt q s && copy.isNone && !(upsetLines true none (.phys pa kind) 4 s).isEmpty then .error (0x18, a)
    else
      let s1 := if copy.isNone then heal (some (q / 2)) (.phys pa .so) 4 s0 else s0
      let h : Slot := BitVec.ofNat 32 (leNat (readCells s1.mem pa 4))
      match copy with
      | none => .ok (h, modCore (q / 2) (fun c => { c with icache := upd (pa / 4) h c.icache }) s1)
      | some c =>
        if c = h then .ok (h, s1)
        else
          let (n, s2) := freeNext s1
          if Config.staleFetch n then .ok (c, s2)
          else .ok (h, modCore (q / 2) (fun c => { c with icache := upd (pa / 4) h c.icache }) s2)
  | .ok _ => .error (0x08, a)

/-- Words fetched in order, up to the first that cannot be: what that leaves. -/
def fetchAll (q : Nat) : List Nat → State → State
  | [], s => s
  | a :: l, s => match fetchWord q a s with
    | .ok (_, s1) => fetchAll q l s1
    | .error _ => s

/-- Whether the word at an address can be fetched. -/
def canFetch (q a : Nat) (s : State) : Bool :=
  match fetchWord q a s with
  | .ok _ => true
  | .error _ => false

/-! ## Accesses of agents: at the homes (R179) -/

/-- Read every piece from its home. -/
def readHomes (s : State) : List (Place × Nat) → List Byte
  | [] => []
  | (.phys pa _, n) :: l => readCells s.mem pa n ++ readHomes s l
  | (.sram c off, n) :: l => readCells (coreAt c s).sram off n ++ readHomes s l
  | (.aper _, _) :: l => readHomes s l

/-- Write every piece to its home. -/
def writeHomes : List (Place × Nat) → List Byte → State → State
  | [], _, s => s
  | (.phys pa _, n) :: l, b, s => writeHomes l (b.drop n) (setMem pa (b.take n) s)
  | (.sram c off, n) :: l, b, s =>
    writeHomes l (b.drop n) (modCore c (fun c => { c with sram := writeCells off (b.take n) c.sram }) s)
  | (.aper _, _) :: l, b, s => writeHomes l b s

/-- An agent's read of `n` bytes marks the leaves it passes and meets the errors there (R159, R178). -/
def agentSeen (sag vdev a n : Nat) (s : State) : State :=
  match places (agentView sag vdev s) s true false false (cut a n) with
  | .error _ => healTables none (agentView sag vdev s) (cut a n) s
  | .ok (ps, ms) => healAll none ps (healTables none (agentView sag vdev s) (cut a n) (marked false ms s))

/-- What an agent of a saggar reads, `n` bytes under a virtual device's tables; `agentSeen` is what the read
does. -/
def agentRead (sag vdev a n : Nat) (s : State) : Option (List Byte) :=
  match places (agentView sag vdev s) s true false false (cut a n) with
  | .error _ => none
  | .ok (ps, _) => some (readHomes { s with mem := readable s s.mem } ps)

/-- An agent of a saggar writes bytes; nothing where the tables do not let it. -/
def agentWrite (sag vdev a : Nat) (b : List Byte) (s : State) : State :=
  match places (agentView sag vdev s) s false true false (cut a b.length) with
  | .error _ => s
  | .ok (ps, ms) => writeHomes ps b (ps.foldl (fun s p => healStore none p.1 p.2 s) (marked true ms s))

/-- A doubleword an agent reads; zero where it cannot. -/
def agentWord (sag vdev a : Nat) (s : State) : Nat :=
  match agentRead sag vdev a 8 s with
  | some b => leNat b
  | none => 0

/-- A doubleword an agent writes. -/
def agentPut (sag vdev a v : Nat) (s : State) : State := agentWrite sag vdev a (leBytes 8 v) s

end Sys2Proof.Machine
end

