-- ==== Sys2Proof/Machine/Crypto.lean ====
section
/-! DEFINITION. The digests and signatures that the root of trust computes: SHA-384 and SHA-256 (FIPS 180-4),
ECDSA P-384 (FIPS 186), LMS with SHA-256/192, H15 and W4 (SP 800-208), which R353 and R354 name (log entry 74).
Byte 0 of a digest, a key or a signature is its lowest. -/

namespace Sys2Proof.Machine

/-- Network byte order. -/
def beBytes (n v : Nat) : List Byte := (leBytes n v).reverse

def beNat (b : List Byte) : Nat := leNat b.reverse

/-! ## SHA-2 -/

/-- The round constants of SHA-384, in two halves. -/
def sha384KLow : List (BitVec 64) :=
  [0x428A2F98D728AE22, 0x7137449123EF65CD, 0xB5C0FBCFEC4D3B2F, 0xE9B5DBA58189DBBC, 0x3956C25BF348B538,
   0x59F111F1B605D019, 0x923F82A4AF194F9B, 0xAB1C5ED5DA6D8118, 0xD807AA98A3030242, 0x12835B0145706FBE,
   0x243185BE4EE4B28C, 0x550C7DC3D5FFB4E2, 0x72BE5D74F27B896F, 0x80DEB1FE3B1696B1, 0x9BDC06A725C71235,
   0xC19BF174CF692694, 0xE49B69C19EF14AD2, 0xEFBE4786384F25E3, 0x0FC19DC68B8CD5B5, 0x240CA1CC77AC9C65,
   0x2DE92C6F592B0275, 0x4A7484AA6EA6E483, 0x5CB0A9DCBD41FBD4, 0x76F988DA831153B5, 0x983E5152EE66DFAB,
   0xA831C66D2DB43210, 0xB00327C898FB213F, 0xBF597FC7BEEF0EE4, 0xC6E00BF33DA88FC2, 0xD5A79147930AA725,
   0x06CA6351E003826F, 0x142929670A0E6E70, 0x27B70A8546D22FFC, 0x2E1B21385C26C926, 0x4D2C6DFC5AC42AED,
   0x53380D139D95B3DF, 0x650A73548BAF63DE, 0x766A0ABB3C77B2A8, 0x81C2C92E47EDAEE6, 0x92722C851482353B]

def sha384KHigh : List (BitVec 64) :=
  [0xA2BFE8A14CF10364, 0xA81A664BBC423001, 0xC24B8B70D0F89791, 0xC76C51A30654BE30, 0xD192E819D6EF5218,
   0xD69906245565A910, 0xF40E35855771202A, 0x106AA07032BBD1B8, 0x19A4C116B8D2D0C8, 0x1E376C085141AB53,
   0x2748774CDF8EEB99, 0x34B0BCB5E19B48A8, 0x391C0CB3C5C95A63, 0x4ED8AA4AE3418ACB, 0x5B9CCA4F7763E373,
   0x682E6FF3D6B2B8A3, 0x748F82EE5DEFB2FC, 0x78A5636F43172F60, 0x84C87814A1F0AB72, 0x8CC702081A6439EC,
   0x90BEFFFA23631E28, 0xA4506CEBDE82BDE9, 0xBEF9A3F7B2C67915, 0xC67178F2E372532B, 0xCA273ECEEA26619C,
   0xD186B8C721C0C207, 0xEADA7DD6CDE0EB1E, 0xF57D4F7FEE6ED178, 0x06F067AA72176FBA, 0x0A637DC5A2C898A6,
   0x113F9804BEF90DAE, 0x1B710B35131C471B, 0x28DB77F523047D84, 0x32CAAB7B40C72493, 0x3C9EBE0A15C9BEBC,
   0x431D67C49C100D4C, 0x4CC5D4BECB3E42B6, 0x597F299CFC657E2A, 0x5FCB6FAB3AD6FAEC, 0x6C44198C4A475817]

/-- The first hash value of SHA-384. -/
def sha384H : List (BitVec 64) :=
  [0xCBBB9D5DC1059ED8, 0x629A292A367CD507, 0x9159015A3070DD17, 0x152FECD8F70E5939,
   0x67332667FFC00B31, 0x8EB44A8768581511, 0xDB0C2E0D64F98FA7, 0x47B5481DBEFA4FA4]

/-- The round constants and the first hash value of SHA-256. -/
def sha256K : List (BitVec 32) :=
  [0x428A2F98, 0x71374491, 0xB5C0FBCF, 0xE9B5DBA5, 0x3956C25B, 0x59F111F1, 0x923F82A4, 0xAB1C5ED5,
   0xD807AA98, 0x12835B01, 0x243185BE, 0x550C7DC3, 0x72BE5D74, 0x80DEB1FE, 0x9BDC06A7, 0xC19BF174,
   0xE49B69C1, 0xEFBE4786, 0x0FC19DC6, 0x240CA1CC, 0x2DE92C6F, 0x4A7484AA, 0x5CB0A9DC, 0x76F988DA,
   0x983E5152, 0xA831C66D, 0xB00327C8, 0xBF597FC7, 0xC6E00BF3, 0xD5A79147, 0x06CA6351, 0x14292967,
   0x27B70A85, 0x2E1B2138, 0x4D2C6DFC, 0x53380D13, 0x650A7354, 0x766A0ABB, 0x81C2C92E, 0x92722C85,
   0xA2BFE8A1, 0xA81A664B, 0xC24B8B70, 0xC76C51A3, 0xD192E819, 0xD6990624, 0xF40E3585, 0x106AA070,
   0x19A4C116, 0x1E376C08, 0x2748774C, 0x34B0BCB5, 0x391C0CB3, 0x4ED8AA4A, 0x5B9CCA4F, 0x682E6FF3,
   0x748F82EE, 0x78A5636F, 0x84C87814, 0x8CC70208, 0x90BEFFFA, 0xA4506CEB, 0xBEF9A3F7, 0xC67178F2]

def sha256H : List (BitVec 32) :=
  [0x6A09E667, 0xBB67AE85, 0x3C6EF372, 0xA54FF53A, 0x510E527F, 0x9B05688C, 0x1F83D9AB, 0x5BE0CD19]

/-- The rotations and shifts of a SHA-2 function: of the working variables, then of the message schedule. -/
structure ShaRot where
  up0 : Nat × Nat × Nat
  up1 : Nat × Nat × Nat
  lo0 : Nat × Nat × Nat
  lo1 : Nat × Nat × Nat
  deriving DecidableEq, Repr

def rot512 : ShaRot := ⟨(28, 34, 39), (14, 18, 41), (1, 8, 7), (19, 61, 6)⟩
def rot256 : ShaRot := ⟨(2, 13, 22), (6, 11, 25), (7, 18, 3), (17, 19, 10)⟩

/-- Σ of a word: three rotations; σ: two rotations and a shift. -/
def shaUp {w : Nat} (r : Nat × Nat × Nat) (x : BitVec w) : BitVec w :=
  x.rotateRight r.1 ^^^ x.rotateRight r.2.1 ^^^ x.rotateRight r.2.2

def shaLo {w : Nat} (r : Nat × Nat × Nat) (x : BitVec w) : BitVec w :=
  x.rotateRight r.1 ^^^ x.rotateRight r.2.1 ^^^ x >>> r.2.2

/-- One round: the working variables a to h after it. -/
def shaRound {w : Nat} (t : ShaRot) (k m : BitVec w) (v : List (BitVec w)) : List (BitVec w) :=
  let x := fun i => nth 0 i v
  let t1 := x 7 + shaUp t.up1 (x 4) + ((x 4 &&& x 5) ^^^ (~~~x 4 &&& x 6)) + k + m
  let t2 := shaUp t.up0 (x 0) + ((x 0 &&& x 1) ^^^ (x 0 &&& x 2) ^^^ (x 1 &&& x 2))
  [t1 + t2, x 0, x 1, x 2, x 3 + t1, x 4, x 5, x 6]

/-- The rounds of a block: `m` holds the next 16 words of its message schedule. -/
def shaRounds {w : Nat} (t : ShaRot) : List (BitVec w) → List (BitVec w) → List (BitVec w) → List (BitVec w)
  | [], _, v => v
  | k :: ks, m, v =>
    let x := fun i => nth 0 i m
    let new := shaLo t.lo1 (x 14) + x 9 + shaLo t.lo0 (x 1) + x 0
    shaRounds t ks (m.drop 1 ++ [new]) (shaRound t k (x 0) v)

/-- The 16 words of a block of bytes. -/
def shaWords (w : Nat) (b : List Byte) : List (BitVec w) :=
  (List.range 16).map fun i => BitVec.ofNat w (beNat ((b.drop (w / 8 * i)).take (w / 8)))

/-- Every block of a padded message, `n` of them. -/
def shaBlocks {w : Nat} (t : ShaRot) (ks : List (BitVec w)) : Nat → List Byte → List (BitVec w) → List (BitVec w)
  | 0, _, h => h
  | n + 1, b, h =>
    let v := shaRounds t ks (shaWords w b) h
    shaBlocks t ks n (b.drop (2 * w)) ((h.zip v).map fun p => p.1 + p.2)

/-- A message with its padding, for blocks of `n` bytes with a length field of `l`. -/
def shaPad (n l : Nat) (b : List Byte) : List Byte :=
  b ++ 0x80#8 :: List.replicate ((2 * n - (b.length + 1 + l) % n) % n) 0 ++ beBytes l (8 * b.length)

/-- SHA-384: 48 bytes. -/
def sha384Bytes (b : List Byte) : List Byte :=
  let m := shaPad 128 16 b
  (((shaBlocks rot512 (sha384KLow ++ sha384KHigh) (m.length / 128) m sha384H).take 6).map fun x =>
    beBytes 8 x.toNat).flatten

def sha384 (b : List Byte) : BitVec 384 := BitVec.ofNat 384 (leNat (sha384Bytes b))

/-- SHA-256/192: the first 24 bytes of SHA-256. -/
def sha192 (b : List Byte) : List Byte :=
  let m := shaPad 64 8 b
  (((shaBlocks rot256 sha256K (m.length / 64) m sha256H).take 6).map fun x => beBytes 4 x.toNat).flatten

/-! ## ECDSA P-384 -/

/-- The field's prime, the group's order, the coefficient b and the base point. -/
def p384 : Nat := 2 ^ 384 - 2 ^ 128 - 2 ^ 96 + 2 ^ 32 - 1
def n384 : Nat :=
  0xFFFFFFFFFFFFFFFFFFFFFFFFFFFFFFFFFFFFFFFFFFFFFFFFC7634D81F4372DDF581A0DB248B0A77AECEC196ACCC52973
def g384 : Nat × Nat :=
  (0xAA87CA22BE8B05378EB1C71EF320AD746E1D3B628BA79B9859F741E082542A385502F25DBF55296C3A545E3872760AB7,
   0x3617DE4A96262C6F5D9E98BF9292DC29F8F41DBD289A147CE9DA3113B5F0B8C00A60B1CE1D7E819D7A431D7C90EA0E5F)

/-- x^e mod m, from the `n` low bits of e. -/
def powMod (m : Nat) : Nat → Nat → Nat → Nat
  | 0, _, _ => 1
  | n + 1, x, e => powMod m n (x * x % m) (e / 2) * (if e % 2 = 1 then x else 1) % m

/-- The inverse modulo a prime. -/
def invMod (m x : Nat) : Nat := powMod m 384 (x % m) (m - 2)

/-- The sum of two points of the curve; `none` is the point at infinity. -/
def addPoint : Option (Nat × Nat) → Option (Nat × Nat) → Option (Nat × Nat)
  | none, q => q
  | p, none => p
  | some (x1, y1), some (x2, y2) =>
    if x1 = x2 ∧ (y1 + y2) % p384 = 0 then none
    else
      let l := if x1 = x2 then (3 * x1 * x1 + (p384 - 3)) * invMod p384 (2 * y1) % p384
        else (y2 + (p384 - y1)) * invMod p384 (x2 + (p384 - x1)) % p384
      let x := (l * l + (p384 - x1) + (p384 - x2)) % p384
      some (x, (l * (x1 + (p384 - x)) + (p384 - y1)) % p384)

/-- A multiple of a point, from the `n` low bits of the factor. -/
def mulPoint : Nat → Nat → Option (Nat × Nat) → Option (Nat × Nat)
  | 0, _, _ => none
  | n + 1, k, p => addPoint (if k % 2 = 1 then p else none) (mulPoint n (k / 2) (addPoint p p))

/-- Whether an ECDSA P-384 signature of a digest, r and then s, verifies under a public key. -/
def ecdsaValid (key : Nat × Nat) (digest : BitVec 384) (sig : BitVec 768) : Bool :=
  let b := leBytes 96 sig.toNat
  let r := beNat (b.take 48)
  let s := beNat (b.drop 48)
  let e := beNat (leBytes 48 digest.toNat)
  let w := invMod n384 s
  if r = 0 ∨ n384 ≤ r ∨ s = 0 ∨ n384 ≤ s then false
  else match addPoint (mulPoint 384 (e * w % n384) (some g384)) (mulPoint 384 (r * w % n384) (some key)) with
    | none => false
    | some (x, _) => x % n384 == r

/-! ## LMS_SHA256_M24_H15 with LMOTS_SHA256_N24_W4 (types 12 and 7) -/

/-- The 48 digits of a hash and the 3 of its checksum. -/
def otsDigits (h : List Byte) : List Nat :=
  let nib := fun (b : Byte) => [b.toNat / 16, b.toNat % 16]
  let d := (h.map nib).flatten
  let c := (d.map (15 - ·)).sum * 16
  d ++ ((beBytes 2 c).map nib).flatten.take 3

/-- A chain from step `j` on, `n` steps. -/
def otsChain (pre : List Byte) : Nat → Nat → List Byte → List Byte
  | 0, _, x => x
  | n + 1, j, x => otsChain pre n (j + 1) (sha192 (pre ++ beBytes 1 j ++ x))

/-- The one-time public key that a signature of a message gives; `id` is the key's identifier with the leaf's number. -/
def otsKey (id rnd y msg : List Byte) : List Byte :=
  let q := sha192 (id ++ beBytes 2 0x8181 ++ rnd ++ msg)
  sha192 (id ++ beBytes 2 0x8080 ++ ((otsDigits q).zipIdx.map fun d =>
    otsChain (id ++ beBytes 2 d.2) (15 - d.1) d.1 ((y.drop (24 * d.2)).take 24)).flatten)

/-- The root of the tree above a node, from the path's hashes. -/
def lmsRoot (id : List Byte) : Nat → Nat → List Byte → List Byte → List Byte
  | 0, _, _, x => x
  | n + 1, node, path, x =>
    let sib := path.take 24
    let pre := id ++ beBytes 4 (node / 2) ++ beBytes 2 0x8383
    lmsRoot id n (node / 2) (path.drop 24) (sha192 (if node % 2 = 1 then pre ++ sib ++ x else pre ++ x ++ sib))

/-- Whether an LMS signature of a message verifies under a public key: its identifier and its root. -/
def lmsValid (key : List Byte × List Byte) (msg : List Byte) (sig : BitVec 12960) : Bool :=
  let b := leBytes 1620 sig.toNat
  let q := beNat (b.take 4)
  let id := key.1 ++ b.take 4
  let leaf := sha192 (key.1 ++ beBytes 4 (2 ^ 15 + q) ++ beBytes 2 0x8282 ++
    otsKey id ((b.drop 8).take 24) ((b.drop 32).take 1224) msg)
  decide (q < 2 ^ 15) && decide (beNat ((b.drop 4).take 4) = 7) && decide (beNat ((b.drop 1256).take 4) = 12) &&
    lmsRoot key.1 15 (2 ^ 15 + q) (b.drop 1260) leaf == key.2

end Sys2Proof.Machine
end

