-- ==== Sys2Proof/Decode.lean ====
section
/-! DEFINITION. The decoder: total on any slot word, rejecting every word that is no instruction (R50 to R62);
after it the encoder, written from the same encodings. The STOP bit is the bundle's and is not decoded. -/

namespace Sys2Proof

/-- The `n` bits of `w` at the place of weight `k`. -/
def fld (w k n : Nat) : BitVec n := BitVec.ofNat n (w / k)

/-- Major 0x00, CTL (Table 3.5). -/
def decCTL (w : Nat) : Option Instr :=
  match w % 16 with
  | 0 => if w / 16 % 2097152 = 0 then some (.nop) else none
  | 1 => if w / 16 % 4096 = 0 ∧ w / 524288 % 8 = 0 then some (.sync (fld w 4194304 3) (fld w 65536 3)) else none
  | 2 => if w / 1024 % 4096 = 0 then some (.slack (fld w 4194304 3) (fld w 16 6)) else none
  | 3 => if w / 16 % 2097152 = 0 then some (.pause) else none
  | _ => none

/-- Major 0x01, BR (Table 3.5). -/
def decBR (w : Nat) : Option Instr :=
  some (.br (fld w 4194304 3) (fld w 1 22))

/-- Major 0x02, CALL (Table 3.5). -/
def decCALL (w : Nat) : Option Instr :=
  some (.call (fld w 4194304 3) (fld w 1 22))

/-- Major 0x03, BRP (Table 3.5). -/
def decBRP (w : Nat) : Option Instr :=
  some (.brp (fld w 4194304 3) (fld w 262144 4) (fld w 131072 1) (fld w 1 17))

/-- Major 0x04, JUMP (Table 3.5). -/
def decJUMP (w : Nat) : Option Instr :=
  match w % 16 with
  | 0 => if w / 16 % 64 = 0 ∧ w / 65536 % 64 = 0 then some (.jr (fld w 4194304 3) (fld w 1024 6)) else none
  | 1 => if w / 16 % 64 = 0 then some (.jalr (fld w 4194304 3) (fld w 65536 6) (fld w 1024 6)) else none
  | 2 => if w / 16 % 262144 = 0 then some (.ret (fld w 4194304 3)) else none
  | _ => none

/-- Major 0x05, LOOP (Table 3.5). -/
def decLOOP (w : Nat) : Option Instr :=
  some (.loop (fld w 4194304 3) (fld w 65536 6) (fld w 1 16))

/-- Major 0x06, LOOPX (Table 3.5). -/
def decLOOPX (w : Nat) : Option Instr :=
  match w % 16 with
  | 0 => if w / 16 % 2097152 = 0 then some (.lend) else none
  | 1 => if w / 16 % 2097152 = 0 then some (.lendr) else none
  | 2 => if w / 16 % 262144 = 0 then some (.lbrk (fld w 4194304 3)) else none
  | 3 => if w / 16 % 64 = 0 then some (.lidx (fld w 4194304 3) (fld w 65536 6) (fld w 1024 6)) else none
  | _ => none

/-- Major 0x07, SYS (Table 3.5). -/
def decSYS (w : Nat) : Option Instr :=
  match w % 16 with
  | 0 => some (.csrr (fld w 4194304 3) (fld w 1024 12) (fld w 16 6))
  | 1 => some (.csrw (fld w 4194304 3) (fld w 1024 12) (fld w 16 6))
  | 2 => some (.csrs (fld w 4194304 3) (fld w 1024 12) (fld w 16 6))
  | 3 => some (.csrc (fld w 4194304 3) (fld w 1024 12) (fld w 16 6))
  | 4 => if w / 16 % 64 = 0 then some (.trap (fld w 4194304 3) (fld w 1024 12)) else none
  | 5 => if w / 16 % 262144 = 0 then some (.eret (fld w 4194304 3)) else none
  | 6 => if w / 16 % 64 = 0 then some (.waitev (fld w 4194304 3) (fld w 1024 12)) else none
  | 7 => if w / 16 % 64 = 0 then some (.brkpt (fld w 4194304 3) (fld w 1024 12)) else none
  | 8 => some (.tlbinv (fld w 4194304 3) (fld w 1024 12) (fld w 16 6))
  | 9 => if w / 1024 % 4096 = 0 then some (.icinv (fld w 4194304 3) (fld w 16 6)) else none
  | 10 => if w / 16 % 262144 = 0 then some (.exit (fld w 4194304 3)) else none
  | 11 => if w / 16 % 262144 = 0 then some (.yield (fld w 4194304 3)) else none
  | _ => none

/-- Major 0x08, SALU (Table 3.5). -/
def decSALU (w : Nat) : Option Instr :=
  match w % 16 with
  | 0 => some (.add (fld w 4194304 3) (fld w 65536 6) (fld w 1024 6) (fld w 16 6))
  | 1 => some (.sub (fld w 4194304 3) (fld w 65536 6) (fld w 1024 6) (fld w 16 6))
  | 2 => some (.and (fld w 4194304 3) (fld w 65536 6) (fld w 1024 6) (fld w 16 6))
  | 3 => some (.or (fld w 4194304 3) (fld w 65536 6) (fld w 1024 6) (fld w 16 6))
  | 4 => some (.xor (fld w 4194304 3) (fld w 65536 6) (fld w 1024 6) (fld w 16 6))
  | 5 => some (.andn (fld w 4194304 3) (fld w 65536 6) (fld w 1024 6) (fld w 16 6))
  | 6 => some (.shl (fld w 4194304 3) (fld w 65536 6) (fld w 1024 6) (fld w 16 6))
  | 7 => some (.shr (fld w 4194304 3) (fld w 65536 6) (fld w 1024 6) (fld w 16 6))
  | 8 => some (.sra (fld w 4194304 3) (fld w 65536 6) (fld w 1024 6) (fld w 16 6))
  | 9 => some (.rot (fld w 4194304 3) (fld w 65536 6) (fld w 1024 6) (fld w 16 6))
  | 10 => some (.min (fld w 4194304 3) (fld w 65536 6) (fld w 1024 6) (fld w 16 6))
  | 11 => some (.max (fld w 4194304 3) (fld w 65536 6) (fld w 1024 6) (fld w 16 6))
  | 12 => some (.minu (fld w 4194304 3) (fld w 65536 6) (fld w 1024 6) (fld w 16 6))
  | 13 => some (.maxu (fld w 4194304 3) (fld w 65536 6) (fld w 1024 6) (fld w 16 6))
  | 14 => some (.sel (fld w 4194304 3) (fld w 65536 6) (fld w 1024 6) (fld w 16 6))
  | _ => none

/-- Major 0x09, SMUL (Table 3.5). -/
def decSMUL (w : Nat) : Option Instr :=
  match w % 16 with
  | 0 => some (.mul (fld w 4194304 3) (fld w 65536 6) (fld w 1024 6) (fld w 16 6))
  | 1 => some (.mulh (fld w 4194304 3) (fld w 65536 6) (fld w 1024 6) (fld w 16 6))
  | 2 => some (.mulhu (fld w 4194304 3) (fld w 65536 6) (fld w 1024 6) (fld w 16 6))
  | 3 => some (.div (fld w 4194304 3) (fld w 65536 6) (fld w 1024 6) (fld w 16 6))
  | 4 => some (.divu (fld w 4194304 3) (fld w 65536 6) (fld w 1024 6) (fld w 16 6))
  | 5 => some (.rem (fld w 4194304 3) (fld w 65536 6) (fld w 1024 6) (fld w 16 6))
  | 6 => some (.remu (fld w 4194304 3) (fld w 65536 6) (fld w 1024 6) (fld w 16 6))
  | 7 => if w / 16 % 64 = 0 then some (.clz (fld w 4194304 3) (fld w 65536 6) (fld w 1024 6)) else none
  | 8 => if w / 16 % 64 = 0 then some (.ctz (fld w 4194304 3) (fld w 65536 6) (fld w 1024 6)) else none
  | 9 => if w / 16 % 64 = 0 then some (.popc (fld w 4194304 3) (fld w 65536 6) (fld w 1024 6)) else none
  | 10 => if w / 16 % 64 = 0 then some (.brev (fld w 4194304 3) (fld w 65536 6) (fld w 1024 6)) else none
  | 11 => some (.sh1add (fld w 4194304 3) (fld w 65536 6) (fld w 1024 6) (fld w 16 6))
  | 12 => some (.sh2add (fld w 4194304 3) (fld w 65536 6) (fld w 1024 6) (fld w 16 6))
  | 13 => some (.sh3add (fld w 4194304 3) (fld w 65536 6) (fld w 1024 6) (fld w 16 6))
  | 14 => some (.rngh (fld w 4194304 3) (fld w 65536 6) (fld w 1024 6) (fld w 16 6))
  | _ => none

/-- Major 0x0A, ADDI (Table 3.5). -/
def decADDI (w : Nat) : Option Instr :=
  some (.addi (fld w 4194304 3) (fld w 65536 6) (fld w 1024 6) (fld w 1 10))

/-- Major 0x0B, LOGI (Table 3.5). -/
def decLOGI (w : Nat) : Option Instr :=
  match w / 256 % 4 with
  | 0 => some (.andi (fld w 4194304 3) (fld w 65536 6) (fld w 1024 6) (fld w 1 8))
  | 1 => some (.ori (fld w 4194304 3) (fld w 65536 6) (fld w 1024 6) (fld w 1 8))
  | 2 => some (.xori (fld w 4194304 3) (fld w 65536 6) (fld w 1024 6) (fld w 1 8))
  | 3 => if w / 1048576 % 4 = 0 then some (.tsti (fld w 4194304 3) (fld w 65536 4) (fld w 1024 6) (fld w 1 8)) else none
  | _ => none

/-- Major 0x0C, SHI (Table 3.5). -/
def decSHI (w : Nat) : Option Instr :=
  match w / 256 % 4 with
  | 0 => if w / 64 % 4 = 0 then some (.shli (fld w 4194304 3) (fld w 65536 6) (fld w 1024 6) (fld w 1 6)) else none
  | 1 => if w / 64 % 4 = 0 then some (.shri (fld w 4194304 3) (fld w 65536 6) (fld w 1024 6) (fld w 1 6)) else none
  | 2 => if w / 64 % 4 = 0 then some (.srai (fld w 4194304 3) (fld w 65536 6) (fld w 1024 6) (fld w 1 6)) else none
  | 3 => if w / 64 % 4 = 0 then some (.roti (fld w 4194304 3) (fld w 65536 6) (fld w 1024 6) (fld w 1 6)) else none
  | _ => none

/-- Major 0x0D, MOVW (Table 3.5). -/
def decMOVW (w : Nat) : Option Instr :=
  some (.movw (fld w 4194304 3) (fld w 65536 6) (fld w 1 16))

/-- Major 0x0E, MOVH (Table 3.5). -/
def decMOVH (w : Nat) : Option Instr :=
  some (.movh (fld w 4194304 3) (fld w 65536 6) (fld w 1 16))

/-- Major 0x0F, SCMP (Table 3.5). -/
def decSCMP (w : Nat) : Option Instr :=
  if w / 1048576 % 4 = 0 then some (.scmp (fld w 4194304 3) (fld w 65536 4) (fld w 1024 6) (fld w 16 6) (fld w 1 4)) else none

/-- Major 0x10, PRED (Table 3.5). -/
def decPRED (w : Nat) : Option Instr :=
  match w % 16 with
  | 0 => if w / 256 % 4 = 0 ∧ w / 16384 % 4 = 0 ∧ w / 1048576 % 4 = 0 then some (.pand (fld w 4194304 3) (fld w 65536 4) (fld w 1024 4) (fld w 16 4)) else none
  | 1 => if w / 256 % 4 = 0 ∧ w / 16384 % 4 = 0 ∧ w / 1048576 % 4 = 0 then some (.por (fld w 4194304 3) (fld w 65536 4) (fld w 1024 4) (fld w 16 4)) else none
  | 2 => if w / 256 % 4 = 0 ∧ w / 16384 % 4 = 0 ∧ w / 1048576 % 4 = 0 then some (.pxor (fld w 4194304 3) (fld w 65536 4) (fld w 1024 4) (fld w 16 4)) else none
  | 3 => if w / 256 % 4 = 0 ∧ w / 16384 % 4 = 0 ∧ w / 1048576 % 4 = 0 then some (.pandn (fld w 4194304 3) (fld w 65536 4) (fld w 1024 4) (fld w 16 4)) else none
  | 4 => if w / 16 % 64 = 0 ∧ w / 16384 % 4 = 0 ∧ w / 1048576 % 4 = 0 then some (.pnot (fld w 4194304 3) (fld w 65536 4) (fld w 1024 4)) else none
  | 5 => if w / 4096 % 16 = 0 ∧ w / 1048576 % 4 = 0 then some (.psetw (fld w 4194304 3) (fld w 65536 4) (fld w 1024 2) (fld w 16 6)) else none
  | 6 => if w / 64 % 16 = 0 ∧ w / 16384 % 4 = 0 then some (.pcnt (fld w 4194304 3) (fld w 65536 6) (fld w 1024 4) (fld w 16 2)) else none
  | 7 => if w / 64 % 16 = 0 ∧ w / 16384 % 4 = 0 then some (.pfirst (fld w 4194304 3) (fld w 65536 6) (fld w 1024 4) (fld w 16 2)) else none
  | 8 => some (.scmpi (fld w 4194304 3) (fld w 1048576 2) (fld w 65536 4) (fld w 1024 6) (fld w 512 1) (fld w 16 5))
  | _ => none

/-- Major 0x11, XFER (Table 3.5). -/
def decXFER (w : Nat) : Option Instr :=
  match w % 16 with
  | 0 => if w / 64 % 16 = 0 then some (.xsv (fld w 4194304 3) (fld w 65536 6) (fld w 1024 6) (fld w 16 2)) else none
  | 1 => some (.xsvl (fld w 4194304 3) (fld w 65536 6) (fld w 1024 6) (fld w 16 6))
  | 2 => if w / 1048576 % 4 = 0 then some (.xsp (fld w 4194304 3) (fld w 65536 4) (fld w 1024 6) (fld w 16 6)) else none
  | 3 => if w / 16 % 64 = 0 ∧ w / 524288 % 8 = 0 then some (.xmp (fld w 4194304 3) (fld w 65536 3) (fld w 1024 6)) else none
  | 4 => some (.xvs (fld w 4194304 3) (fld w 65536 6) (fld w 1024 6) (fld w 16 6))
  | 5 => if w / 16384 % 4 = 0 then some (.xps (fld w 4194304 3) (fld w 65536 6) (fld w 1024 4) (fld w 16 6)) else none
  | 6 => if w / 16 % 64 = 0 ∧ w / 8192 % 8 = 0 then some (.xpm (fld w 4194304 3) (fld w 65536 6) (fld w 1024 3)) else none
  | _ => none

/-- Major 0x12, LDS (Table 3.5). -/
def decLDS (w : Nat) : Option Instr :=
  some (.lds (fld w 4194304 3) (fld w 65536 6) (fld w 1024 6) (fld w 256 2) (fld w 128 1) (fld w 1 7))

/-- Major 0x13, STS (Table 3.5). -/
def decSTS (w : Nat) : Option Instr :=
  if w / 128 % 2 = 0 then some (.sts (fld w 4194304 3) (fld w 65536 6) (fld w 1024 6) (fld w 256 2) (fld w 1 7)) else none

/-- Major 0x14, VLD (Table 3.5). -/
def decVLD (w : Nat) : Option Instr :=
  some (.vld (fld w 4194304 3) (fld w 65536 6) (fld w 1024 6) (fld w 1 10))

/-- Major 0x15, VST (Table 3.5). -/
def decVST (w : Nat) : Option Instr :=
  some (.vst (fld w 4194304 3) (fld w 65536 6) (fld w 1024 6) (fld w 1 10))

/-- Major 0x16, VMEM (Table 3.5). -/
def decVMEM (w : Nat) : Option Instr :=
  match w % 16 with
  | 0 => some (.vlds (fld w 4194304 3) (fld w 65536 6) (fld w 1024 6) (fld w 16 6))
  | 1 => some (.vsts (fld w 4194304 3) (fld w 65536 6) (fld w 1024 6) (fld w 16 6))
  | 2 => some (.vgath (fld w 4194304 3) (fld w 65536 6) (fld w 1024 6) (fld w 16 6))
  | 3 => some (.vscat (fld w 4194304 3) (fld w 65536 6) (fld w 1024 6) (fld w 16 6))
  | 4 => if w / 65536 % 64 = 0 then some (.pref (fld w 4194304 3) (fld w 1024 6) (fld w 16 6)) else none
  | _ => none

/-- Major 0x17, STRM (Table 3.5). -/
def decSTRM (w : Nat) : Option Instr :=
  match w % 16 with
  | 0 => if w / 16 % 64 = 0 ∧ w / 524288 % 8 = 7 then some (.hbind (fld w 4194304 3) (fld w 65536 3) (fld w 1024 6)) else none
  | 1 => if w / 16 % 64 = 0 ∧ w / 524288 % 8 = 7 then some (.hadv (fld w 4194304 3) (fld w 65536 3) (fld w 1024 6)) else none
  | 2 => if w / 16 % 64 = 0 ∧ w / 524288 % 8 = 7 then some (.hwait (fld w 4194304 3) (fld w 65536 3) (fld w 1024 6)) else none
  | 3 => if w / 16 % 64 = 0 ∧ w / 524288 % 8 = 7 then some (.hprod (fld w 4194304 3) (fld w 65536 3) (fld w 1024 6)) else none
  | 4 => if w / 16 % 64 = 0 ∧ w / 8192 % 8 = 7 then some (.hstat (fld w 4194304 3) (fld w 65536 6) (fld w 1024 3)) else none
  | 5 => if w / 16 % 4096 = 0 ∧ w / 524288 % 8 = 7 then some (.hunbind (fld w 4194304 3) (fld w 65536 3)) else none
  | _ => none

/-- Major 0x18, XENG (Table 3.5). -/
def decXENG (w : Nat) : Option Instr :=
  match w % 16 with
  | 0 => if w / 65536 % 64 = 0 then some (.twait (fld w 4194304 3) (fld w 1024 6) (fld w 16 6)) else none
  | 1 => if w / 16 % 64 = 0 then some (.tstat (fld w 4194304 3) (fld w 65536 6) (fld w 1024 6)) else none
  | 2 => if w / 16 % 64 = 0 then some (.twptr (fld w 4194304 3) (fld w 65536 6) (fld w 1024 6)) else none
  | 3 => if w / 16 % 64 = 0 ∧ w / 65536 % 64 = 0 then some (.publish (fld w 4194304 3) (fld w 1024 6)) else none
  | _ => none

/-- Major 0x19, ATOM1 (Table 3.5). -/
def decATOM1 (w : Nat) : Option Instr :=
  match w % 4 with
  | 0 => some (.atadd (fld w 8388608 2) (fld w 2097152 2) (fld w 1048576 1) (fld w 16384 6) (fld w 256 6) (fld w 4 6))
  | 1 => some (.atand (fld w 8388608 2) (fld w 2097152 2) (fld w 1048576 1) (fld w 16384 6) (fld w 256 6) (fld w 4 6))
  | 2 => some (.ator (fld w 8388608 2) (fld w 2097152 2) (fld w 1048576 1) (fld w 16384 6) (fld w 256 6) (fld w 4 6))
  | 3 => some (.atxor (fld w 8388608 2) (fld w 2097152 2) (fld w 1048576 1) (fld w 16384 6) (fld w 256 6) (fld w 4 6))
  | _ => none

/-- Major 0x1A, ATOM2 (Table 3.5). -/
def decATOM2 (w : Nat) : Option Instr :=
  match w % 4 with
  | 0 => some (.atmin (fld w 8388608 2) (fld w 2097152 2) (fld w 1048576 1) (fld w 16384 6) (fld w 256 6) (fld w 4 6))
  | 1 => some (.atmax (fld w 8388608 2) (fld w 2097152 2) (fld w 1048576 1) (fld w 16384 6) (fld w 256 6) (fld w 4 6))
  | 2 => some (.atminu (fld w 8388608 2) (fld w 2097152 2) (fld w 1048576 1) (fld w 16384 6) (fld w 256 6) (fld w 4 6))
  | 3 => some (.atmaxu (fld w 8388608 2) (fld w 2097152 2) (fld w 1048576 1) (fld w 16384 6) (fld w 256 6) (fld w 4 6))
  | _ => none

/-- Major 0x1B, ATOM3 (Table 3.5). -/
def decATOM3 (w : Nat) : Option Instr :=
  match w % 4 with
  | 0 => some (.atswp (fld w 8388608 2) (fld w 2097152 2) (fld w 1048576 1) (fld w 16384 6) (fld w 256 6) (fld w 4 6))
  | 1 => some (.atcas (fld w 8388608 2) (fld w 2097152 2) (fld w 1048576 1) (fld w 16384 6) (fld w 256 6) (fld w 4 6))
  | 2 => if w / 4 % 64 = 0 then some (.atld (fld w 8388608 2) (fld w 2097152 2) (fld w 1048576 1) (fld w 16384 6) (fld w 256 6)) else none
  | 3 => if w / 16384 % 64 = 0 then some (.atst (fld w 8388608 2) (fld w 2097152 2) (fld w 1048576 1) (fld w 256 6) (fld w 4 6)) else none
  | _ => none

/-- Major 0x1C, VADD (Table 3.5). -/
def decVADD (w : Nat) : Option Instr :=
  some (.vadd (fld w 4194304 3) (fld w 65536 6) (fld w 1024 6) (fld w 16 6) (fld w 4 2) (fld w 2 1) (fld w 1 1))

/-- Major 0x1D, VSUB (Table 3.5). -/
def decVSUB (w : Nat) : Option Instr :=
  some (.vsub (fld w 4194304 3) (fld w 65536 6) (fld w 1024 6) (fld w 16 6) (fld w 4 2) (fld w 2 1) (fld w 1 1))

/-- Major 0x1E, VMUL (Table 3.5). -/
def decVMUL (w : Nat) : Option Instr :=
  some (.vmul (fld w 4194304 3) (fld w 65536 6) (fld w 1024 6) (fld w 16 6) (fld w 4 2) (fld w 2 1) (fld w 1 1))

/-- Major 0x1F, VFMA (Table 3.5). -/
def decVFMA (w : Nat) : Option Instr :=
  some (.vfma (fld w 4194304 3) (fld w 65536 6) (fld w 1024 6) (fld w 16 6) (fld w 4 2) (fld w 2 1) (fld w 1 1))

/-- Major 0x20, VFNMA (Table 3.5). -/
def decVFNMA (w : Nat) : Option Instr :=
  some (.vfnma (fld w 4194304 3) (fld w 65536 6) (fld w 1024 6) (fld w 16 6) (fld w 4 2) (fld w 2 1) (fld w 1 1))

/-- Major 0x21, VMINF (Table 3.5). -/
def decVMINF (w : Nat) : Option Instr :=
  some (.vminf (fld w 4194304 3) (fld w 65536 6) (fld w 1024 6) (fld w 16 6) (fld w 4 2) (fld w 2 1) (fld w 1 1))

/-- Major 0x22, VMAXF (Table 3.5). -/
def decVMAXF (w : Nat) : Option Instr :=
  some (.vmaxf (fld w 4194304 3) (fld w 65536 6) (fld w 1024 6) (fld w 16 6) (fld w 4 2) (fld w 2 1) (fld w 1 1))

/-- Major 0x23, VFCMP (Table 3.5). -/
def decVFCMP (w : Nat) : Option Instr :=
  if w % 2 = 0 then some (.vfcmp (fld w 4194304 3) (fld w 1048576 2) (fld w 65536 4) (fld w 1024 6) (fld w 16 6) (fld w 4 2) (fld w 2 1)) else none

/-- Major 0x24, VFUN (Table 3.5). -/
def decVFUN (w : Nat) : Option Instr :=
  match w / 16 % 64 with
  | 0 => some (.vrcp (fld w 4194304 3) (fld w 65536 6) (fld w 1024 6) (fld w 4 2) (fld w 2 1) (fld w 1 1))
  | 1 => some (.vrsq (fld w 4194304 3) (fld w 65536 6) (fld w 1024 6) (fld w 4 2) (fld w 2 1) (fld w 1 1))
  | 2 => some (.vsqrt (fld w 4194304 3) (fld w 65536 6) (fld w 1024 6) (fld w 4 2) (fld w 2 1) (fld w 1 1))
  | 3 => some (.vexp2 (fld w 4194304 3) (fld w 65536 6) (fld w 1024 6) (fld w 4 2) (fld w 2 1) (fld w 1 1))
  | 4 => some (.vlog2 (fld w 4194304 3) (fld w 65536 6) (fld w 1024 6) (fld w 4 2) (fld w 2 1) (fld w 1 1))
  | 5 => some (.vabsf (fld w 4194304 3) (fld w 65536 6) (fld w 1024 6) (fld w 4 2) (fld w 2 1) (fld w 1 1))
  | 6 => some (.vnegf (fld w 4194304 3) (fld w 65536 6) (fld w 1024 6) (fld w 4 2) (fld w 2 1) (fld w 1 1))
  | 7 => some (.vfloor (fld w 4194304 3) (fld w 65536 6) (fld w 1024 6) (fld w 4 2) (fld w 2 1) (fld w 1 1))
  | 8 => some (.vfrac (fld w 4194304 3) (fld w 65536 6) (fld w 1024 6) (fld w 4 2) (fld w 2 1) (fld w 1 1))
  | _ => none

/-- Major 0x25, VRED (Table 3.5). -/
def decVRED (w : Nat) : Option Instr :=
  if w / 64 % 16 = 0 then some (.vred (fld w 4194304 3) (fld w 65536 6) (fld w 1024 6) (fld w 16 2) (fld w 4 2) (fld w 2 1) (fld w 1 1)) else none

/-- Major 0x26, VIARITH (Table 3.5). -/
def decVIARITH (w : Nat) : Option Instr :=
  match w % 4 with
  | 0 => some (.viadd (fld w 4194304 3) (fld w 65536 6) (fld w 1024 6) (fld w 16 6) (fld w 4 2))
  | 1 => some (.visub (fld w 4194304 3) (fld w 65536 6) (fld w 1024 6) (fld w 16 6) (fld w 4 2))
  | 2 => some (.vimul (fld w 4194304 3) (fld w 65536 6) (fld w 1024 6) (fld w 16 6) (fld w 4 2))
  | 3 => some (.vimulh (fld w 4194304 3) (fld w 65536 6) (fld w 1024 6) (fld w 16 6) (fld w 4 2))
  | _ => none

/-- Major 0x27, VILOGIC (Table 3.5). -/
def decVILOGIC (w : Nat) : Option Instr :=
  match w % 4 with
  | 0 => some (.vand (fld w 4194304 3) (fld w 65536 6) (fld w 1024 6) (fld w 16 6) (fld w 4 2))
  | 1 => some (.vor (fld w 4194304 3) (fld w 65536 6) (fld w 1024 6) (fld w 16 6) (fld w 4 2))
  | 2 => some (.vxor (fld w 4194304 3) (fld w 65536 6) (fld w 1024 6) (fld w 16 6) (fld w 4 2))
  | 3 => some (.vandn (fld w 4194304 3) (fld w 65536 6) (fld w 1024 6) (fld w 16 6) (fld w 4 2))
  | _ => none

/-- Major 0x28, VISHIFT (Table 3.5). -/
def decVISHIFT (w : Nat) : Option Instr :=
  match w % 4 with
  | 0 => some (.vshl (fld w 4194304 3) (fld w 65536 6) (fld w 1024 6) (fld w 16 6) (fld w 4 2))
  | 1 => some (.vshr (fld w 4194304 3) (fld w 65536 6) (fld w 1024 6) (fld w 16 6) (fld w 4 2))
  | 2 => some (.vsra (fld w 4194304 3) (fld w 65536 6) (fld w 1024 6) (fld w 16 6) (fld w 4 2))
  | 3 => some (.vrot (fld w 4194304 3) (fld w 65536 6) (fld w 1024 6) (fld w 16 6) (fld w 4 2))
  | _ => none

/-- Major 0x29, VIMINMAX (Table 3.5). -/
def decVIMINMAX (w : Nat) : Option Instr :=
  match w % 4 with
  | 0 => some (.vimin (fld w 4194304 3) (fld w 65536 6) (fld w 1024 6) (fld w 16 6) (fld w 4 2))
  | 1 => some (.vimax (fld w 4194304 3) (fld w 65536 6) (fld w 1024 6) (fld w 16 6) (fld w 4 2))
  | 2 => some (.viminu (fld w 4194304 3) (fld w 65536 6) (fld w 1024 6) (fld w 16 6) (fld w 4 2))
  | 3 => some (.vimaxu (fld w 4194304 3) (fld w 65536 6) (fld w 1024 6) (fld w 16 6) (fld w 4 2))
  | _ => none

/-- Major 0x2A, VICMP (Table 3.5). -/
def decVICMP (w : Nat) : Option Instr :=
  if w / 1048576 % 4 = 0 then some (.vicmp (fld w 4194304 3) (fld w 65536 4) (fld w 1024 6) (fld w 16 6) (fld w 4 2) (fld w 1 2)) else none

/-- Major 0x2B, VPERMG (Table 3.5). -/
def decVPERMG (w : Nat) : Option Instr :=
  match w % 4 with
  | 0 => some (.vperm (fld w 4194304 3) (fld w 65536 6) (fld w 1024 6) (fld w 16 6) (fld w 4 2))
  | 1 => some (.vshuf (fld w 4194304 3) (fld w 65536 6) (fld w 1024 6) (fld w 16 6) (fld w 4 2))
  | 2 => some (.vsel (fld w 4194304 3) (fld w 65536 6) (fld w 1024 6) (fld w 16 6) (fld w 4 2))
  | 3 => if w / 16 % 4096 = 0 then some (.viota (fld w 4194304 3) (fld w 65536 6) (fld w 4 2)) else none
  | _ => none

/-- Major 0x2C, VCVT (Table 3.5). -/
def decVCVT (w : Nat) : Option Instr :=
  some (.vcvt (fld w 4194304 3) (fld w 65536 6) (fld w 1024 6) (fld w 64 4) (fld w 4 4) (fld w 2 1) (fld w 1 1))

/-- Major 0x2D, VQ (Table 3.5). -/
def decVQ (w : Nat) : Option Instr :=
  match w % 16 with
  | 0 => some (.vmxsc (fld w 4194304 3) (fld w 65536 6) (fld w 1024 6) (fld w 16 6))
  | 1 => some (.vmxq (fld w 4194304 3) (fld w 65536 6) (fld w 1024 6) (fld w 16 6))
  | 2 => some (.vmxdq (fld w 4194304 3) (fld w 65536 6) (fld w 1024 6) (fld w 16 6))
  | 3 => some (.vtern (fld w 4194304 3) (fld w 65536 6) (fld w 1024 6) (fld w 16 6))
  | 4 => if w / 64 % 16 = 0 then some (.vpack (fld w 4194304 3) (fld w 65536 6) (fld w 1024 6) (fld w 16 2)) else none
  | 5 => if w / 256 % 4 = 0 then some (.vunpack (fld w 4194304 3) (fld w 65536 6) (fld w 1024 6) (fld w 128 1) (fld w 64 1) (fld w 16 2)) else none
  | 6 => if w / 16 % 64 = 0 then some (.vmov (fld w 4194304 3) (fld w 65536 6) (fld w 1024 6)) else none
  | 7 => some (.vbcastl (fld w 4194304 3) (fld w 65536 6) (fld w 1024 6) (fld w 16 6))
  | 8 => if w / 16 % 4 = 0 then some (.vscan (fld w 4194304 3) (fld w 65536 6) (fld w 1024 6) (fld w 256 2) (fld w 64 2)) else none
  | _ => none

/-- Major 0x2E, MCALL (Table 3.5). -/
def decMCALL (w : Nat) : Option Instr :=
  if w % 8192 = 0 then some (.mcall (fld w 4194304 3) (fld w 8192 9)) else none

/-- Major 0x2F, MCTL (Table 3.5). -/
def decMCTL (w : Nat) : Option Instr :=
  match w % 16 with
  | 0 => if w / 16 % 262144 = 0 then some (.mwait (fld w 4194304 3)) else none
  | 1 => if w / 65536 % 64 = 0 then some (.mgload (fld w 4194304 3) (fld w 1024 6) (fld w 16 6)) else none
  | 2 => if w / 65536 % 64 = 0 then some (.mgsave (fld w 4194304 3) (fld w 1024 6) (fld w 16 6)) else none
  | 3 => if w / 16 % 4096 = 0 then some (.mprog (fld w 4194304 3) (fld w 65536 6)) else none
  | 4 => if w / 16 % 262144 = 0 then some (.mresume (fld w 4194304 3)) else none
  | _ => none

/-- Major 0x30, ACC (Table 3.5). -/
def decACC (w : Nat) : Option Instr :=
  match w % 16 with
  | 0 => if w / 16 % 64 = 0 then some (.aalloc (fld w 4194304 3) (fld w 65536 6) (fld w 1024 6)) else none
  | 1 => if w / 65536 % 64 = 0 then some (.afree (fld w 4194304 3) (fld w 1024 6) (fld w 16 6)) else none
  | 2 => if w / 65536 % 64 = 0 then some (.aclr (fld w 4194304 3) (fld w 1024 6) (fld w 16 6)) else none
  | 3 => if w / 65536 % 64 = 0 then some (.aband (fld w 4194304 3) (fld w 1024 6) (fld w 16 6)) else none
  | 4 => if w / 16 % 64 = 0 then some (.aown (fld w 4194304 3) (fld w 65536 6) (fld w 1024 6)) else none
  | 5 => if w / 16 % 4096 = 0 then some (.abstat (fld w 4194304 3) (fld w 65536 6)) else none
  | _ => none

/-- Major 0x31, AMOV (Table 3.5). -/
def decAMOV (w : Nat) : Option Instr :=
  match w % 2 with
  | 0 => some (.aread (fld w 4194304 3) (fld w 65536 6) (fld w 1024 6) (fld w 16 6) (fld w 4 2) (fld w 2 1))
  | 1 => some (.awrite (fld w 4194304 3) (fld w 65536 6) (fld w 1024 6) (fld w 16 6) (fld w 4 2) (fld w 2 1))
  | _ => none

/-- Major 0x32, ADRAIN (Table 3.5). -/
def decADRAIN (w : Nat) : Option Instr :=
  some (.adrain (fld w 4194304 3) (fld w 65536 6) (fld w 1024 6) (fld w 16 6) (fld w 1 4))

/-- Major 0x33, AACC (Table 3.5). -/
def decAACC (w : Nat) : Option Instr :=
  if w % 4 = 0 then some (.aacc (fld w 4194304 3) (fld w 65536 6) (fld w 1024 6) (fld w 16 6) (fld w 4 2)) else none

/-- Major 0x34, DREL (Table 3.5). -/
def decDREL (w : Nat) : Option Instr :=
  match w % 64 with
  | 0 => some (.dadd (fld w 4194304 3) (fld w 131072 5) (fld w 4096 5) (fld w 128 5) (fld w 64 1))
  | 1 => some (.dsub (fld w 4194304 3) (fld w 131072 5) (fld w 4096 5) (fld w 128 5) (fld w 64 1))
  | 2 => if w / 131072 % 32 = 0 then some (.dle (fld w 4194304 3) (fld w 4096 5) (fld w 128 5) (fld w 64 1)) else none
  | 3 => if w / 131072 % 32 = 0 then some (.dlt (fld w 4194304 3) (fld w 4096 5) (fld w 128 5) (fld w 64 1)) else none
  | 4 => if w / 131072 % 32 = 0 then some (.deq (fld w 4194304 3) (fld w 4096 5) (fld w 128 5) (fld w 64 1)) else none
  | 5 => if w / 131072 % 32 = 0 then some (.dne (fld w 4194304 3) (fld w 4096 5) (fld w 128 5) (fld w 64 1)) else none
  | 6 => some (.dmulk (fld w 4194304 3) (fld w 131072 5) (fld w 4096 5) (fld w 128 5) (fld w 64 1))
  | 7 => if w / 128 % 32 = 0 then some (.dalld (fld w 4194304 3) (fld w 131072 5) (fld w 4096 5) (fld w 64 1)) else none
  | _ => none

/-- Major 0x36, DCTL (Table 3.5). -/
def decDCTL (w : Nat) : Option Instr :=
  match w % 64 with
  | 0 => if w / 4096 % 32 = 0 then some (.dsets (fld w 4194304 3) (fld w 131072 5) (fld w 64 6)) else none
  | 1 => if w / 4096 % 32 = 0 then some (.dsetv (fld w 4194304 3) (fld w 131072 5) (fld w 64 6)) else none
  | 2 => if w / 4096 % 32 = 0 then some (.drem (fld w 4194304 3) (fld w 131072 5) (fld w 64 6)) else none
  | 3 => if w / 4096 % 32 = 0 then some (.dlo (fld w 4194304 3) (fld w 131072 5) (fld w 64 6)) else none
  | 4 => if w / 4096 % 32 = 0 then some (.dhi (fld w 4194304 3) (fld w 131072 5) (fld w 64 6)) else none
  | 5 => if w / 4096 % 32 = 0 then some (.dsize (fld w 4194304 3) (fld w 131072 5) (fld w 64 6)) else none
  | 6 => if w / 4096 % 1024 = 0 then some (.dckpt (fld w 4194304 3) (fld w 64 6)) else none
  | 7 => if w / 4096 % 1024 = 0 then some (.drest (fld w 4194304 3) (fld w 64 6)) else none
  | 8 => if w / 64 % 65536 = 0 then some (.ddrop (fld w 4194304 3)) else none
  | 9 => if w / 64 % 65536 = 0 then some (.dprop (fld w 4194304 3)) else none
  | 10 => if w / 64 % 65536 = 0 then some (.dclrs (fld w 4194304 3)) else none
  | 11 => if w / 65536 % 2 = 0 then some (.dmemb (fld w 4194304 3) (fld w 131072 5) (fld w 4096 4) (fld w 64 6)) else none
  | _ => none

/-- Major 0x37, FRONT (Table 3.5). -/
def decFRONT (w : Nat) : Option Instr :=
  match w % 16 with
  | 0 => if w / 1024 % 512 = 0 then some (.fcfg (fld w 4194304 3) (fld w 524288 3) (fld w 16 6)) else none
  | 1 => if w / 16 % 32768 = 0 then some (.fclr (fld w 4194304 3) (fld w 524288 3)) else none
  | 2 => if w / 65536 % 8 = 0 then some (.fins (fld w 4194304 3) (fld w 524288 3) (fld w 1024 6) (fld w 16 6)) else none
  | 3 => if w / 16 % 4096 = 0 then some (.fmerge (fld w 4194304 3) (fld w 524288 3) (fld w 65536 3)) else none
  | 4 => if w / 524288 % 8 = 0 then some (.fread (fld w 4194304 3) (fld w 65536 3) (fld w 1024 6) (fld w 16 6)) else none
  | 5 => if w / 1024 % 64 = 0 ∧ w / 524288 % 8 = 0 then some (.fcnt (fld w 4194304 3) (fld w 65536 3) (fld w 16 6)) else none
  | 6 => if w / 1024 % 64 = 0 ∧ w / 524288 % 8 = 0 then some (.frej (fld w 4194304 3) (fld w 65536 3) (fld w 16 6)) else none
  | 7 => if w / 1024 % 64 = 0 ∧ w / 524288 % 8 = 0 then some (.fstat (fld w 4194304 3) (fld w 65536 3) (fld w 16 6)) else none
  | _ => none

/-- Major 0x38, MSYNC (Table 3.5). -/
def decMSYNC (w : Nat) : Option Instr :=
  match w % 16 with
  | 0 => if w / 16 % 1024 = 0 then some (.fence (fld w 4194304 3) (fld w 1048576 2) (fld w 262144 2) (fld w 16384 4)) else none
  | 1 => if w / 16 % 16384 = 0 then some (.bar (fld w 4194304 3) (fld w 1048576 2) (fld w 262144 2)) else none
  | 2 => if w / 16 % 64 = 0 then some (.fwait (fld w 4194304 3) (fld w 65536 6) (fld w 1024 6)) else none
  | 3 => if w / 65536 % 64 = 0 then some (.ffill (fld w 4194304 3) (fld w 1024 6) (fld w 16 6)) else none
  | 4 => if w / 16 % 64 = 0 then some (.fpoll (fld w 4194304 3) (fld w 65536 6) (fld w 1024 6)) else none
  | _ => none

/-- Major 0x39, WORK (Table 3.5). -/
def decWORK (w : Nat) : Option Instr :=
  match w % 16 with
  | 0 => if w / 16 % 64 = 0 then some (.launch (fld w 4194304 3) (fld w 65536 6) (fld w 1024 6)) else none
  | 1 => if w / 16 % 64 = 0 then some (.cwait (fld w 4194304 3) (fld w 65536 6) (fld w 1024 6)) else none
  | 2 => if w / 16 % 64 = 0 then some (.qpush (fld w 4194304 3) (fld w 65536 6) (fld w 1024 6)) else none
  | 3 => if w / 16 % 64 = 0 then some (.qpop (fld w 4194304 3) (fld w 65536 6) (fld w 1024 6)) else none
  | 4 => if w / 16 % 64 = 0 then some (.qpeek (fld w 4194304 3) (fld w 65536 6) (fld w 1024 6)) else none
  | 5 => if w / 16 % 64 = 0 then some (.qstat (fld w 4194304 3) (fld w 65536 6) (fld w 1024 6)) else none
  | 6 => if w / 16 % 64 = 0 ∧ w / 65536 % 64 = 0 then some (.logmark (fld w 4194304 3) (fld w 1024 6)) else none
  | _ => none

/-- A major with no instruction (R56). -/
def decReserved (_w : Nat) : Option Instr := none

/-- The decoders by major, from 0 (Table 3.5). -/
def decMajors : List (Nat → Option Instr) := [
  decCTL,
  decBR,
  decCALL,
  decBRP,
  decJUMP,
  decLOOP,
  decLOOPX,
  decSYS,
  decSALU,
  decSMUL,
  decADDI,
  decLOGI,
  decSHI,
  decMOVW,
  decMOVH,
  decSCMP,
  decPRED,
  decXFER,
  decLDS,
  decSTS,
  decVLD,
  decVST,
  decVMEM,
  decSTRM,
  decXENG,
  decATOM1,
  decATOM2,
  decATOM3,
  decVADD,
  decVSUB,
  decVMUL,
  decVFMA,
  decVFNMA,
  decVMINF,
  decVMAXF,
  decVFCMP,
  decVFUN,
  decVRED,
  decVIARITH,
  decVILOGIC,
  decVISHIFT,
  decVIMINMAX,
  decVICMP,
  decVPERMG,
  decVCVT,
  decVQ,
  decMCALL,
  decMCTL,
  decACC,
  decAMOV,
  decADRAIN,
  decAACC,
  decDREL,
  decReserved,
  decDCTL,
  decFRONT,
  decMSYNC,
  decWORK,
  decReserved,
  decReserved,
  decReserved,
  decReserved,
  decReserved,
  decReserved]

/-- Entry `i` of a list of decoders, `decReserved` past its end. -/
def nthDec : Nat → List (Nat → Option Instr) → (Nat → Option Instr)
  | _, [] => decReserved
  | 0, f :: _ => f
  | n + 1, _ :: l => nthDec n l

/-- The instruction of a slot word, as a number (Table 3.5). -/
def decodeNat (w : Nat) : Option Instr := nthDec (w / 33554432 % 64) decMajors w

/-- The instruction of a slot word, or `none` where it is no instruction (R62). -/
def decode (w : Slot) : Option Instr := decodeNat w.toNat

/-- The instruction of a word numbered as the opcode table numbers it. -/
def decodeTableWord (_nbits w : Nat) : Option Instr := decode (BitVec.ofNat 32 w)

/-- The slot word of an instruction, STOP clear, as a number; an event has none. -/
def encodeNat : Instr → Option Nat
  | .nop => some (0)
  | .sync g m => some (1 + g.toNat * 4194304 + m.toNat * 65536)
  | .slack g n => some (2 + g.toNat * 4194304 + n.toNat * 16)
  | .pause => some (3)
  | .br g i => some (33554432 + g.toNat * 4194304 + i.toNat)
  | .call g i => some (67108864 + g.toNat * 4194304 + i.toNat)
  | .brp g p o i => some (100663296 + g.toNat * 4194304 + p.toNat * 262144 + o.toNat * 131072 + i.toNat)
  | .jr g a => some (134217728 + g.toNat * 4194304 + a.toNat * 1024)
  | .jalr g d a => some (134217729 + g.toNat * 4194304 + d.toNat * 65536 + a.toNat * 1024)
  | .ret g => some (134217730 + g.toNat * 4194304)
  | .loop g a i => some (167772160 + g.toNat * 4194304 + a.toNat * 65536 + i.toNat)
  | .lend => some (201326592)
  | .lendr => some (201326593)
  | .lbrk g => some (201326594 + g.toNat * 4194304)
  | .lidx g d l => some (201326595 + g.toNat * 4194304 + d.toNat * 65536 + l.toNat * 1024)
  | .csrr g c s => some (234881024 + g.toNat * 4194304 + c.toNat * 1024 + s.toNat * 16)
  | .csrw g c s => some (234881025 + g.toNat * 4194304 + c.toNat * 1024 + s.toNat * 16)
  | .csrs g c s => some (234881026 + g.toNat * 4194304 + c.toNat * 1024 + s.toNat * 16)
  | .csrc g c s => some (234881027 + g.toNat * 4194304 + c.toNat * 1024 + s.toNat * 16)
  | .trap g c => some (234881028 + g.toNat * 4194304 + c.toNat * 1024)
  | .eret g => some (234881029 + g.toNat * 4194304)
  | .waitev g c => some (234881030 + g.toNat * 4194304 + c.toNat * 1024)
  | .brkpt g c => some (234881031 + g.toNat * 4194304 + c.toNat * 1024)
  | .tlbinv g c s => some (234881032 + g.toNat * 4194304 + c.toNat * 1024 + s.toNat * 16)
  | .icinv g s => some (234881033 + g.toNat * 4194304 + s.toNat * 16)
  | .exit g => some (234881034 + g.toNat * 4194304)
  | .yield g => some (234881035 + g.toNat * 4194304)
  | .add g d a b => some (268435456 + g.toNat * 4194304 + d.toNat * 65536 + a.toNat * 1024 + b.toNat * 16)
  | .sub g d a b => some (268435457 + g.toNat * 4194304 + d.toNat * 65536 + a.toNat * 1024 + b.toNat * 16)
  | .and g d a b => some (268435458 + g.toNat * 4194304 + d.toNat * 65536 + a.toNat * 1024 + b.toNat * 16)
  | .or g d a b => some (268435459 + g.toNat * 4194304 + d.toNat * 65536 + a.toNat * 1024 + b.toNat * 16)
  | .xor g d a b => some (268435460 + g.toNat * 4194304 + d.toNat * 65536 + a.toNat * 1024 + b.toNat * 16)
  | .andn g d a b => some (268435461 + g.toNat * 4194304 + d.toNat * 65536 + a.toNat * 1024 + b.toNat * 16)
  | .shl g d a b => some (268435462 + g.toNat * 4194304 + d.toNat * 65536 + a.toNat * 1024 + b.toNat * 16)
  | .shr g d a b => some (268435463 + g.toNat * 4194304 + d.toNat * 65536 + a.toNat * 1024 + b.toNat * 16)
  | .sra g d a b => some (268435464 + g.toNat * 4194304 + d.toNat * 65536 + a.toNat * 1024 + b.toNat * 16)
  | .rot g d a b => some (268435465 + g.toNat * 4194304 + d.toNat * 65536 + a.toNat * 1024 + b.toNat * 16)
  | .min g d a b => some (268435466 + g.toNat * 4194304 + d.toNat * 65536 + a.toNat * 1024 + b.toNat * 16)
  | .max g d a b => some (268435467 + g.toNat * 4194304 + d.toNat * 65536 + a.toNat * 1024 + b.toNat * 16)
  | .minu g d a b => some (268435468 + g.toNat * 4194304 + d.toNat * 65536 + a.toNat * 1024 + b.toNat * 16)
  | .maxu g d a b => some (268435469 + g.toNat * 4194304 + d.toNat * 65536 + a.toNat * 1024 + b.toNat * 16)
  | .sel g d a b => some (268435470 + g.toNat * 4194304 + d.toNat * 65536 + a.toNat * 1024 + b.toNat * 16)
  | .mul g d a b => some (301989888 + g.toNat * 4194304 + d.toNat * 65536 + a.toNat * 1024 + b.toNat * 16)
  | .mulh g d a b => some (301989889 + g.toNat * 4194304 + d.toNat * 65536 + a.toNat * 1024 + b.toNat * 16)
  | .mulhu g d a b => some (301989890 + g.toNat * 4194304 + d.toNat * 65536 + a.toNat * 1024 + b.toNat * 16)
  | .div g d a b => some (301989891 + g.toNat * 4194304 + d.toNat * 65536 + a.toNat * 1024 + b.toNat * 16)
  | .divu g d a b => some (301989892 + g.toNat * 4194304 + d.toNat * 65536 + a.toNat * 1024 + b.toNat * 16)
  | .rem g d a b => some (301989893 + g.toNat * 4194304 + d.toNat * 65536 + a.toNat * 1024 + b.toNat * 16)
  | .remu g d a b => some (301989894 + g.toNat * 4194304 + d.toNat * 65536 + a.toNat * 1024 + b.toNat * 16)
  | .clz g d a => some (301989895 + g.toNat * 4194304 + d.toNat * 65536 + a.toNat * 1024)
  | .ctz g d a => some (301989896 + g.toNat * 4194304 + d.toNat * 65536 + a.toNat * 1024)
  | .popc g d a => some (301989897 + g.toNat * 4194304 + d.toNat * 65536 + a.toNat * 1024)
  | .brev g d a => some (301989898 + g.toNat * 4194304 + d.toNat * 65536 + a.toNat * 1024)
  | .sh1add g d a b => some (301989899 + g.toNat * 4194304 + d.toNat * 65536 + a.toNat * 1024 + b.toNat * 16)
  | .sh2add g d a b => some (301989900 + g.toNat * 4194304 + d.toNat * 65536 + a.toNat * 1024 + b.toNat * 16)
  | .sh3add g d a b => some (301989901 + g.toNat * 4194304 + d.toNat * 65536 + a.toNat * 1024 + b.toNat * 16)
  | .rngh g d a b => some (301989902 + g.toNat * 4194304 + d.toNat * 65536 + a.toNat * 1024 + b.toNat * 16)
  | .addi g d a i => some (335544320 + g.toNat * 4194304 + d.toNat * 65536 + a.toNat * 1024 + i.toNat)
  | .andi g d a i => some (369098752 + g.toNat * 4194304 + d.toNat * 65536 + a.toNat * 1024 + i.toNat)
  | .ori g d a i => some (369099008 + g.toNat * 4194304 + d.toNat * 65536 + a.toNat * 1024 + i.toNat)
  | .xori g d a i => some (369099264 + g.toNat * 4194304 + d.toNat * 65536 + a.toNat * 1024 + i.toNat)
  | .tsti g p a i => some (369099520 + g.toNat * 4194304 + p.toNat * 65536 + a.toNat * 1024 + i.toNat)
  | .shli g d a k => some (402653184 + g.toNat * 4194304 + d.toNat * 65536 + a.toNat * 1024 + k.toNat)
  | .shri g d a k => some (402653440 + g.toNat * 4194304 + d.toNat * 65536 + a.toNat * 1024 + k.toNat)
  | .srai g d a k => some (402653696 + g.toNat * 4194304 + d.toNat * 65536 + a.toNat * 1024 + k.toNat)
  | .roti g d a k => some (402653952 + g.toNat * 4194304 + d.toNat * 65536 + a.toNat * 1024 + k.toNat)
  | .movw g d i => some (436207616 + g.toNat * 4194304 + d.toNat * 65536 + i.toNat)
  | .movh g d i => some (469762048 + g.toNat * 4194304 + d.toNat * 65536 + i.toNat)
  | .scmp g p a b c => some (503316480 + g.toNat * 4194304 + p.toNat * 65536 + a.toNat * 1024 + b.toNat * 16 + c.toNat)
  | .pand g d a b => some (536870912 + g.toNat * 4194304 + d.toNat * 65536 + a.toNat * 1024 + b.toNat * 16)
  | .por g d a b => some (536870913 + g.toNat * 4194304 + d.toNat * 65536 + a.toNat * 1024 + b.toNat * 16)
  | .pxor g d a b => some (536870914 + g.toNat * 4194304 + d.toNat * 65536 + a.toNat * 1024 + b.toNat * 16)
  | .pandn g d a b => some (536870915 + g.toNat * 4194304 + d.toNat * 65536 + a.toNat * 1024 + b.toNat * 16)
  | .pnot g d a => some (536870916 + g.toNat * 4194304 + d.toNat * 65536 + a.toNat * 1024)
  | .psetw g d w s => some (536870917 + g.toNat * 4194304 + d.toNat * 65536 + w.toNat * 1024 + s.toNat * 16)
  | .pcnt g d p w => some (536870918 + g.toNat * 4194304 + d.toNat * 65536 + p.toNat * 1024 + w.toNat * 16)
  | .pfirst g d p w => some (536870919 + g.toNat * 4194304 + d.toNat * 65536 + p.toNat * 1024 + w.toNat * 16)
  | .scmpi g c p a h i => some (536870920 + g.toNat * 4194304 + c.toNat * 1048576 + p.toNat * 65536 + a.toNat * 1024 + h.toNat * 512 + i.toNat * 16)
  | .xsv g d a w => some (570425344 + g.toNat * 4194304 + d.toNat * 65536 + a.toNat * 1024 + w.toNat * 16)
  | .xsvl g d a b => some (570425345 + g.toNat * 4194304 + d.toNat * 65536 + a.toNat * 1024 + b.toNat * 16)
  | .xsp g p a b => some (570425346 + g.toNat * 4194304 + p.toNat * 65536 + a.toNat * 1024 + b.toNat * 16)
  | .xmp g m a => some (570425347 + g.toNat * 4194304 + m.toNat * 65536 + a.toNat * 1024)
  | .xvs g d a b => some (570425348 + g.toNat * 4194304 + d.toNat * 65536 + a.toNat * 1024 + b.toNat * 16)
  | .xps g d p b => some (570425349 + g.toNat * 4194304 + d.toNat * 65536 + p.toNat * 1024 + b.toNat * 16)
  | .xpm g d m => some (570425350 + g.toNat * 4194304 + d.toNat * 65536 + m.toNat * 1024)
  | .lds g d b z x i => some (603979776 + g.toNat * 4194304 + d.toNat * 65536 + b.toNat * 1024 + z.toNat * 256 + x.toNat * 128 + i.toNat)
  | .sts g d b z i => some (637534208 + g.toNat * 4194304 + d.toNat * 65536 + b.toNat * 1024 + z.toNat * 256 + i.toNat)
  | .vld g d b i => some (671088640 + g.toNat * 4194304 + d.toNat * 65536 + b.toNat * 1024 + i.toNat)
  | .vst g d b i => some (704643072 + g.toNat * 4194304 + d.toNat * 65536 + b.toNat * 1024 + i.toNat)
  | .vlds g d a b => some (738197504 + g.toNat * 4194304 + d.toNat * 65536 + a.toNat * 1024 + b.toNat * 16)
  | .vsts g d a b => some (738197505 + g.toNat * 4194304 + d.toNat * 65536 + a.toNat * 1024 + b.toNat * 16)
  | .vgath g d a b => some (738197506 + g.toNat * 4194304 + d.toNat * 65536 + a.toNat * 1024 + b.toNat * 16)
  | .vscat g d a b => some (738197507 + g.toNat * 4194304 + d.toNat * 65536 + a.toNat * 1024 + b.toNat * 16)
  | .pref g a b => some (738197508 + g.toNat * 4194304 + a.toNat * 1024 + b.toNat * 16)
  | .hbind g h a => some (775421952 + g.toNat * 4194304 + h.toNat * 65536 + a.toNat * 1024)
  | .hadv g h a => some (775421953 + g.toNat * 4194304 + h.toNat * 65536 + a.toNat * 1024)
  | .hwait g h a => some (775421954 + g.toNat * 4194304 + h.toNat * 65536 + a.toNat * 1024)
  | .hprod g h a => some (775421955 + g.toNat * 4194304 + h.toNat * 65536 + a.toNat * 1024)
  | .hstat g d h => some (771809284 + g.toNat * 4194304 + d.toNat * 65536 + h.toNat * 1024)
  | .hunbind g h => some (775421957 + g.toNat * 4194304 + h.toNat * 65536)
  | .twait g a b => some (805306368 + g.toNat * 4194304 + a.toNat * 1024 + b.toNat * 16)
  | .tstat g d a => some (805306369 + g.toNat * 4194304 + d.toNat * 65536 + a.toNat * 1024)
  | .twptr g d a => some (805306370 + g.toNat * 4194304 + d.toNat * 65536 + a.toNat * 1024)
  | .publish g a => some (805306371 + g.toNat * 4194304 + a.toNat * 1024)
  | .atadd o c z d a b => some (838860800 + o.toNat * 8388608 + c.toNat * 2097152 + z.toNat * 1048576 + d.toNat * 16384 + a.toNat * 256 + b.toNat * 4)
  | .atand o c z d a b => some (838860801 + o.toNat * 8388608 + c.toNat * 2097152 + z.toNat * 1048576 + d.toNat * 16384 + a.toNat * 256 + b.toNat * 4)
  | .ator o c z d a b => some (838860802 + o.toNat * 8388608 + c.toNat * 2097152 + z.toNat * 1048576 + d.toNat * 16384 + a.toNat * 256 + b.toNat * 4)
  | .atxor o c z d a b => some (838860803 + o.toNat * 8388608 + c.toNat * 2097152 + z.toNat * 1048576 + d.toNat * 16384 + a.toNat * 256 + b.toNat * 4)
  | .atmin o c z d a b => some (872415232 + o.toNat * 8388608 + c.toNat * 2097152 + z.toNat * 1048576 + d.toNat * 16384 + a.toNat * 256 + b.toNat * 4)
  | .atmax o c z d a b => some (872415233 + o.toNat * 8388608 + c.toNat * 2097152 + z.toNat * 1048576 + d.toNat * 16384 + a.toNat * 256 + b.toNat * 4)
  | .atminu o c z d a b => some (872415234 + o.toNat * 8388608 + c.toNat * 2097152 + z.toNat * 1048576 + d.toNat * 16384 + a.toNat * 256 + b.toNat * 4)
  | .atmaxu o c z d a b => some (872415235 + o.toNat * 8388608 + c.toNat * 2097152 + z.toNat * 1048576 + d.toNat * 16384 + a.toNat * 256 + b.toNat * 4)
  | .atswp o c z d a b => some (905969664 + o.toNat * 8388608 + c.toNat * 2097152 + z.toNat * 1048576 + d.toNat * 16384 + a.toNat * 256 + b.toNat * 4)
  | .atcas o c z d a b => some (905969665 + o.toNat * 8388608 + c.toNat * 2097152 + z.toNat * 1048576 + d.toNat * 16384 + a.toNat * 256 + b.toNat * 4)
  | .atld o c z d a => some (905969666 + o.toNat * 8388608 + c.toNat * 2097152 + z.toNat * 1048576 + d.toNat * 16384 + a.toNat * 256)
  | .atst o c z a b => some (905969667 + o.toNat * 8388608 + c.toNat * 2097152 + z.toNat * 1048576 + a.toNat * 256 + b.toNat * 4)
  | .vadd g d a b f i o => some (939524096 + g.toNat * 4194304 + d.toNat * 65536 + a.toNat * 1024 + b.toNat * 16 + f.toNat * 4 + i.toNat * 2 + o.toNat)
  | .vsub g d a b f i o => some (973078528 + g.toNat * 4194304 + d.toNat * 65536 + a.toNat * 1024 + b.toNat * 16 + f.toNat * 4 + i.toNat * 2 + o.toNat)
  | .vmul g d a b f i o => some (1006632960 + g.toNat * 4194304 + d.toNat * 65536 + a.toNat * 1024 + b.toNat * 16 + f.toNat * 4 + i.toNat * 2 + o.toNat)
  | .vfma g d a b f i o => some (1040187392 + g.toNat * 4194304 + d.toNat * 65536 + a.toNat * 1024 + b.toNat * 16 + f.toNat * 4 + i.toNat * 2 + o.toNat)
  | .vfnma g d a b f i o => some (1073741824 + g.toNat * 4194304 + d.toNat * 65536 + a.toNat * 1024 + b.toNat * 16 + f.toNat * 4 + i.toNat * 2 + o.toNat)
  | .vminf g d a b f i o => some (1107296256 + g.toNat * 4194304 + d.toNat * 65536 + a.toNat * 1024 + b.toNat * 16 + f.toNat * 4 + i.toNat * 2 + o.toNat)
  | .vmaxf g d a b f i o => some (1140850688 + g.toNat * 4194304 + d.toNat * 65536 + a.toNat * 1024 + b.toNat * 16 + f.toNat * 4 + i.toNat * 2 + o.toNat)
  | .vfcmp g c p a b f i => some (1174405120 + g.toNat * 4194304 + c.toNat * 1048576 + p.toNat * 65536 + a.toNat * 1024 + b.toNat * 16 + f.toNat * 4 + i.toNat * 2)
  | .vrcp g d a f i o => some (1207959552 + g.toNat * 4194304 + d.toNat * 65536 + a.toNat * 1024 + f.toNat * 4 + i.toNat * 2 + o.toNat)
  | .vrsq g d a f i o => some (1207959568 + g.toNat * 4194304 + d.toNat * 65536 + a.toNat * 1024 + f.toNat * 4 + i.toNat * 2 + o.toNat)
  | .vsqrt g d a f i o => some (1207959584 + g.toNat * 4194304 + d.toNat * 65536 + a.toNat * 1024 + f.toNat * 4 + i.toNat * 2 + o.toNat)
  | .vexp2 g d a f i o => some (1207959600 + g.toNat * 4194304 + d.toNat * 65536 + a.toNat * 1024 + f.toNat * 4 + i.toNat * 2 + o.toNat)
  | .vlog2 g d a f i o => some (1207959616 + g.toNat * 4194304 + d.toNat * 65536 + a.toNat * 1024 + f.toNat * 4 + i.toNat * 2 + o.toNat)
  | .vabsf g d a f i o => some (1207959632 + g.toNat * 4194304 + d.toNat * 65536 + a.toNat * 1024 + f.toNat * 4 + i.toNat * 2 + o.toNat)
  | .vnegf g d a f i o => some (1207959648 + g.toNat * 4194304 + d.toNat * 65536 + a.toNat * 1024 + f.toNat * 4 + i.toNat * 2 + o.toNat)
  | .vfloor g d a f i o => some (1207959664 + g.toNat * 4194304 + d.toNat * 65536 + a.toNat * 1024 + f.toNat * 4 + i.toNat * 2 + o.toNat)
  | .vfrac g d a f i o => some (1207959680 + g.toNat * 4194304 + d.toNat * 65536 + a.toNat * 1024 + f.toNat * 4 + i.toNat * 2 + o.toNat)
  | .vred g d a r f i o => some (1241513984 + g.toNat * 4194304 + d.toNat * 65536 + a.toNat * 1024 + r.toNat * 16 + f.toNat * 4 + i.toNat * 2 + o.toNat)
  | .viadd g d a b w => some (1275068416 + g.toNat * 4194304 + d.toNat * 65536 + a.toNat * 1024 + b.toNat * 16 + w.toNat * 4)
  | .visub g d a b w => some (1275068417 + g.toNat * 4194304 + d.toNat * 65536 + a.toNat * 1024 + b.toNat * 16 + w.toNat * 4)
  | .vimul g d a b w => some (1275068418 + g.toNat * 4194304 + d.toNat * 65536 + a.toNat * 1024 + b.toNat * 16 + w.toNat * 4)
  | .vimulh g d a b w => some (1275068419 + g.toNat * 4194304 + d.toNat * 65536 + a.toNat * 1024 + b.toNat * 16 + w.toNat * 4)
  | .vand g d a b w => some (1308622848 + g.toNat * 4194304 + d.toNat * 65536 + a.toNat * 1024 + b.toNat * 16 + w.toNat * 4)
  | .vor g d a b w => some (1308622849 + g.toNat * 4194304 + d.toNat * 65536 + a.toNat * 1024 + b.toNat * 16 + w.toNat * 4)
  | .vxor g d a b w => some (1308622850 + g.toNat * 4194304 + d.toNat * 65536 + a.toNat * 1024 + b.toNat * 16 + w.toNat * 4)
  | .vandn g d a b w => some (1308622851 + g.toNat * 4194304 + d.toNat * 65536 + a.toNat * 1024 + b.toNat * 16 + w.toNat * 4)
  | .vshl g d a b w => some (1342177280 + g.toNat * 4194304 + d.toNat * 65536 + a.toNat * 1024 + b.toNat * 16 + w.toNat * 4)
  | .vshr g d a b w => some (1342177281 + g.toNat * 4194304 + d.toNat * 65536 + a.toNat * 1024 + b.toNat * 16 + w.toNat * 4)
  | .vsra g d a b w => some (1342177282 + g.toNat * 4194304 + d.toNat * 65536 + a.toNat * 1024 + b.toNat * 16 + w.toNat * 4)
  | .vrot g d a b w => some (1342177283 + g.toNat * 4194304 + d.toNat * 65536 + a.toNat * 1024 + b.toNat * 16 + w.toNat * 4)
  | .vimin g d a b w => some (1375731712 + g.toNat * 4194304 + d.toNat * 65536 + a.toNat * 1024 + b.toNat * 16 + w.toNat * 4)
  | .vimax g d a b w => some (1375731713 + g.toNat * 4194304 + d.toNat * 65536 + a.toNat * 1024 + b.toNat * 16 + w.toNat * 4)
  | .viminu g d a b w => some (1375731714 + g.toNat * 4194304 + d.toNat * 65536 + a.toNat * 1024 + b.toNat * 16 + w.toNat * 4)
  | .vimaxu g d a b w => some (1375731715 + g.toNat * 4194304 + d.toNat * 65536 + a.toNat * 1024 + b.toNat * 16 + w.toNat * 4)
  | .vicmp g p a b w c => some (1409286144 + g.toNat * 4194304 + p.toNat * 65536 + a.toNat * 1024 + b.toNat * 16 + w.toNat * 4 + c.toNat)
  | .vperm g d a b w => some (1442840576 + g.toNat * 4194304 + d.toNat * 65536 + a.toNat * 1024 + b.toNat * 16 + w.toNat * 4)
  | .vshuf g d a b w => some (1442840577 + g.toNat * 4194304 + d.toNat * 65536 + a.toNat * 1024 + b.toNat * 16 + w.toNat * 4)
  | .vsel g d a b w => some (1442840578 + g.toNat * 4194304 + d.toNat * 65536 + a.toNat * 1024 + b.toNat * 16 + w.toNat * 4)
  | .viota g d w => some (1442840579 + g.toNat * 4194304 + d.toNat * 65536 + w.toNat * 4)
  | .vcvt g d a s r i o => some (1476395008 + g.toNat * 4194304 + d.toNat * 65536 + a.toNat * 1024 + s.toNat * 64 + r.toNat * 4 + i.toNat * 2 + o.toNat)
  | .vmxsc g d a e => some (1509949440 + g.toNat * 4194304 + d.toNat * 65536 + a.toNat * 1024 + e.toNat * 16)
  | .vmxq g d a e => some (1509949441 + g.toNat * 4194304 + d.toNat * 65536 + a.toNat * 1024 + e.toNat * 16)
  | .vmxdq g d a e => some (1509949442 + g.toNat * 4194304 + d.toNat * 65536 + a.toNat * 1024 + e.toNat * 16)
  | .vtern g d a b => some (1509949443 + g.toNat * 4194304 + d.toNat * 65536 + a.toNat * 1024 + b.toNat * 16)
  | .vpack g d a w => some (1509949444 + g.toNat * 4194304 + d.toNat * 65536 + a.toNat * 1024 + w.toNat * 16)
  | .vunpack g d a x h w => some (1509949445 + g.toNat * 4194304 + d.toNat * 65536 + a.toNat * 1024 + x.toNat * 128 + h.toNat * 64 + w.toNat * 16)
  | .vmov g d a => some (1509949446 + g.toNat * 4194304 + d.toNat * 65536 + a.toNat * 1024)
  | .vbcastl g d a b => some (1509949447 + g.toNat * 4194304 + d.toNat * 65536 + a.toNat * 1024 + b.toNat * 16)
  | .vscan g d a r f => some (1509949448 + g.toNat * 4194304 + d.toNat * 65536 + a.toNat * 1024 + r.toNat * 256 + f.toNat * 64)
  | .mcall g i => some (1543503872 + g.toNat * 4194304 + i.toNat * 8192)
  | .mwait g => some (1577058304 + g.toNat * 4194304)
  | .mgload g a b => some (1577058305 + g.toNat * 4194304 + a.toNat * 1024 + b.toNat * 16)
  | .mgsave g a b => some (1577058306 + g.toNat * 4194304 + a.toNat * 1024 + b.toNat * 16)
  | .mprog g d => some (1577058307 + g.toNat * 4194304 + d.toNat * 65536)
  | .mresume g => some (1577058308 + g.toNat * 4194304)
  | .aalloc g d a => some (1610612736 + g.toNat * 4194304 + d.toNat * 65536 + a.toNat * 1024)
  | .afree g a b => some (1610612737 + g.toNat * 4194304 + a.toNat * 1024 + b.toNat * 16)
  | .aclr g a b => some (1610612738 + g.toNat * 4194304 + a.toNat * 1024 + b.toNat * 16)
  | .aband g a b => some (1610612739 + g.toNat * 4194304 + a.toNat * 1024 + b.toNat * 16)
  | .aown g d a => some (1610612740 + g.toNat * 4194304 + d.toNat * 65536 + a.toNat * 1024)
  | .abstat g d => some (1610612741 + g.toNat * 4194304 + d.toNat * 65536)
  | .aread g v a b f o => some (1644167168 + g.toNat * 4194304 + v.toNat * 65536 + a.toNat * 1024 + b.toNat * 16 + f.toNat * 4 + o.toNat * 2)
  | .awrite g v a b f o => some (1644167169 + g.toNat * 4194304 + v.toNat * 65536 + a.toNat * 1024 + b.toNat * 16 + f.toNat * 4 + o.toNat * 2)
  | .adrain g d a c f => some (1677721600 + g.toNat * 4194304 + d.toNat * 65536 + a.toNat * 1024 + c.toNat * 16 + f.toNat)
  | .aacc g v a b f => some (1711276032 + g.toNat * 4194304 + v.toNat * 65536 + a.toNat * 1024 + b.toNat * 16 + f.toNat * 4)
  | .dadd g d a b s => some (1744830464 + g.toNat * 4194304 + d.toNat * 131072 + a.toNat * 4096 + b.toNat * 128 + s.toNat * 64)
  | .dsub g d a b s => some (1744830465 + g.toNat * 4194304 + d.toNat * 131072 + a.toNat * 4096 + b.toNat * 128 + s.toNat * 64)
  | .dle g a b s => some (1744830466 + g.toNat * 4194304 + a.toNat * 4096 + b.toNat * 128 + s.toNat * 64)
  | .dlt g a b s => some (1744830467 + g.toNat * 4194304 + a.toNat * 4096 + b.toNat * 128 + s.toNat * 64)
  | .deq g a b s => some (1744830468 + g.toNat * 4194304 + a.toNat * 4096 + b.toNat * 128 + s.toNat * 64)
  | .dne g a b s => some (1744830469 + g.toNat * 4194304 + a.toNat * 4096 + b.toNat * 128 + s.toNat * 64)
  | .dmulk g d a k s => some (1744830470 + g.toNat * 4194304 + d.toNat * 131072 + a.toNat * 4096 + k.toNat * 128 + s.toNat * 64)
  | .dalld g d c s => some (1744830471 + g.toNat * 4194304 + d.toNat * 131072 + c.toNat * 4096 + s.toNat * 64)
  | .dsets g d s => some (1811939328 + g.toNat * 4194304 + d.toNat * 131072 + s.toNat * 64)
  | .dsetv g d s => some (1811939329 + g.toNat * 4194304 + d.toNat * 131072 + s.toNat * 64)
  | .drem g d s => some (1811939330 + g.toNat * 4194304 + d.toNat * 131072 + s.toNat * 64)
  | .dlo g d s => some (1811939331 + g.toNat * 4194304 + d.toNat * 131072 + s.toNat * 64)
  | .dhi g d s => some (1811939332 + g.toNat * 4194304 + d.toNat * 131072 + s.toNat * 64)
  | .dsize g d s => some (1811939333 + g.toNat * 4194304 + d.toNat * 131072 + s.toNat * 64)
  | .dckpt g s => some (1811939334 + g.toNat * 4194304 + s.toNat * 64)
  | .drest g s => some (1811939335 + g.toNat * 4194304 + s.toNat * 64)
  | .ddrop g => some (1811939336 + g.toNat * 4194304)
  | .dprop g => some (1811939337 + g.toNat * 4194304)
  | .dclrs g => some (1811939338 + g.toNat * 4194304)
  | .dmemb g d p s => some (1811939339 + g.toNat * 4194304 + d.toNat * 131072 + p.toNat * 4096 + s.toNat * 64)
  | .fcfg g f s => some (1845493760 + g.toNat * 4194304 + f.toNat * 524288 + s.toNat * 16)
  | .fclr g f => some (1845493761 + g.toNat * 4194304 + f.toNat * 524288)
  | .fins g f v s => some (1845493762 + g.toNat * 4194304 + f.toNat * 524288 + v.toNat * 1024 + s.toNat * 16)
  | .fmerge g f a => some (1845493763 + g.toNat * 4194304 + f.toNat * 524288 + a.toNat * 65536)
  | .fread g a v s => some (1845493764 + g.toNat * 4194304 + a.toNat * 65536 + v.toNat * 1024 + s.toNat * 16)
  | .fcnt g a s => some (1845493765 + g.toNat * 4194304 + a.toNat * 65536 + s.toNat * 16)
  | .frej g a s => some (1845493766 + g.toNat * 4194304 + a.toNat * 65536 + s.toNat * 16)
  | .fstat g a s => some (1845493767 + g.toNat * 4194304 + a.toNat * 65536 + s.toNat * 16)
  | .fence g o c k => some (1879048192 + g.toNat * 4194304 + o.toNat * 1048576 + c.toNat * 262144 + k.toNat * 16384)
  | .bar g o c => some (1879048193 + g.toNat * 4194304 + o.toNat * 1048576 + c.toNat * 262144)
  | .fwait g d a => some (1879048194 + g.toNat * 4194304 + d.toNat * 65536 + a.toNat * 1024)
  | .ffill g a b => some (1879048195 + g.toNat * 4194304 + a.toNat * 1024 + b.toNat * 16)
  | .fpoll g d a => some (1879048196 + g.toNat * 4194304 + d.toNat * 65536 + a.toNat * 1024)
  | .launch g d a => some (1912602624 + g.toNat * 4194304 + d.toNat * 65536 + a.toNat * 1024)
  | .cwait g d a => some (1912602625 + g.toNat * 4194304 + d.toNat * 65536 + a.toNat * 1024)
  | .qpush g v a => some (1912602626 + g.toNat * 4194304 + v.toNat * 65536 + a.toNat * 1024)
  | .qpop g v a => some (1912602627 + g.toNat * 4194304 + v.toNat * 65536 + a.toNat * 1024)
  | .qpeek g v a => some (1912602628 + g.toNat * 4194304 + v.toNat * 65536 + a.toNat * 1024)
  | .qstat g d a => some (1912602629 + g.toNat * 4194304 + d.toNat * 65536 + a.toNat * 1024)
  | .logmark g a => some (1912602630 + g.toNat * 4194304 + a.toNat * 1024)
  | .bundleDispatch _ => none
  | .bundleCommit _ => none
  | .sequencer1StarvationIssue _ => none
  | .pauseHoldEnd _ => none
  | .trapEntry _ _ _ => none
  | .preemptionRequest _ => none
  | .interrupt _ _ => none
  | .preemptionLanding _ => none
  | .preemptionFreeze _ => none
  | .matrixCallStart _ => none
  | .glazeStep _ => none
  | .matrixCallComplete _ => none
  | .matrixFaultDelivery _ => none
  | .copyStart _ _ => none
  | .addOnWritePass _ _ _ => none
  | .copyComplete _ _ => none
  | .streamFillComplete _ _ => none
  | .tlbInvalidationAck _ => none
  | .stage2Invalidation _ => none
  | .bankroleWrite _ _ => none
  | .vwbWrite _ _ => none
  | .tcauseLatchDiscard _ => none
  | .streamRecordAccept _ _ => none
  | .gangPlacement _ _ _ => none
  | .backfillReservation _ _ _ => none
  | .contextRestore _ _ => none
  | .elementDelivery _ _ => none
  | .freeModeRebalance _ => none
  | .probeSend _ => none
  | .probeReturn _ => none
  | .probeDrop _ => none
  | .kilnRescanStreams _ => none
  | .kilnCancelLaunch _ => none
  | .kilnReloadMicrocode _ => none
  | .kilnClosePipeline _ => none
  | .slotEnd _ => none
  | .saggarStart _ => none
  | .saggarStop _ => none
  | .resizeGrow _ => none
  | .resizeShrink _ => none
  | .hashSweepComplete _ => none
  | .clusterJoin _ _ => none
  | .clusterMigration _ _ _ => none
  | .bandwidthWindowEnd _ => none
  | .bwtotWrite _ _ _ => none
  | .powerOnBoot _ => none
  | .droopDetected _ => none
  | .droopCleared _ => none
  | .powerCapSet _ => none
  | .attestationRequest _ _ => none
  | .debugNonceRequest => none
  | .debugUnlock _ => none
  | .hostDoorbellWrite _ _ _ => none
  | .signalWrite _ _ => none
  | .hostirqWrite _ => none
  | .platformRegisterWrite _ _ _ => none
  | .pctlWrite _ _ _ => none
  | .txtailWrite _ _ _ => none
  | .rxtailWrite _ _ _ => none
  | .txDescriptorDone _ => none
  | .frameReceived _ _ => none
  | .ktpDataSegment _ _ => none
  | .ktpAckSend _ => none
  | .ktpAckSegment _ _ => none
  | .ktpErrorSegment _ _ => none
  | .ktpRetransmitTimeout _ _ _ => none
  | .nvmeCommand _ _ _ _ => none
  | .l1WriteBackOrDrop _ _ _ => none
  | .accessPerformed _ => none
  | .copyElementDelivery _ _ => none
  | .powerCapClockChange _ _ => none
  | .lifecycleChange _ => none
  | .pcieLinkTraining _ _ _ _ => none

/-- The slot word of an instruction, STOP clear. -/
def encode (i : Instr) : Option Slot := (encodeNat i).map (BitVec.ofNat 32)

/-- The slot word of an instruction, zero for an event. -/
def encodeD (i : Instr) : Slot := (encode i).getD 0

end Sys2Proof
end

