-- ==== Sys2Proof/Machine/Work.lean ====
section
/-! DEFINITION. The kiln's account of work: trace records, launches, groups, pipelines and their cores,
the slots of virtual devices, the start and the end of tasks (R286 to R328, R343). -/

namespace Sys2Proof.Machine

/-! ## Trace records (R327, R328) -/

/-- A word of a saggar's kiln control block (Table 18.5). -/
def kcbWord (sag off : Nat) (s : State) : Nat := agentWord sag 0 ((sagAt sag s).kcb + off) s

def kcbPut (sag off v : Nat) (s : State) : State := agentPut sag 0 ((sagAt sag s).kcb + off) v s

/-- No core, in a trace record. -/
def noCore : Nat := 0xFFFF

/-- No task, in a trace record. -/
def noTask : Nat := 0xFFFFFFFF

/-- CYCLE of a saggar: the physical cycles since it started, more of which may have passed than are counted
here (R3, Table 15.3). -/
def cycleNow (sag : Nat) (s : State) : Word × State :=
  let (n, s1) := freeNext s
  let s2 := { s1 with phys := s1.phys + Config.cyclesPassed n }
  (BitVec.ofNat 64 (s2.phys - (sagAt sag s).cyc0), s2)

/-- Write a trace record: TICK, CYCLE, TASK with FROM and TO, ARG with REASON and TYPE; then TRWR and the
counter of the TYPE. Without a ring only the counter moves. -/
def trace (sag type reason task frm to_ arg : Nat) (tick : Option Nat) (s : State) : State :=
  let g := sagAt sag s
  let (cy, s1) := cycleNow sag (modSag sag (fun g => { g with decSeq := g.decSeq + 1 }) s)
  let wr := kcbWord sag 32 s1
  let ln := kcbWord sag 24 s1 % 32
  let a := kcbWord sag 16 s1 % 2 ^ 48 + 32 * (wr % 2 ^ ln)
  let rec_ := leBytes 8 (tick.getD g.decSeq) ++ leBytes 8 cy.toNat ++
    leBytes 8 (task % 2 ^ 32 * 2 ^ 32 + frm % 65536 * 65536 + to_ % 65536) ++
    leBytes 8 (arg % 2 ^ 48 * 65536 + reason * 256 + type)
  let s2 := if ln = 0 then s1 else kcbPut sag 32 ((wr + 1) % 2 ^ 64) (agentWrite sag 0 a rec_ s1)
  let c := 128 + 8 * (type - 1)
  kcbPut sag c ((kcbWord sag c s2 + 1) % 2 ^ 64) s2

/-- The TASK field of a task's records (Table 18.4). -/
def taskTag (t : Task) (s : State) : Nat :=
  let n := match find t.launch s.launches with
    | some l => l.seqno
    | none => 0
  n % 2 ^ 24 * 256 + (match t.stage with
    | some st => st.stage
    | none => t.grp * 16 + t.idx)

/-! ## Numbers (R2, R6, R339) -/

/-- The physical cluster that answers to a logical cluster number, 512 where none does: one that answers to a moved
number does not answer to its own (R339). -/
def physCluster (sag c : Nat) (s : State) : Nat :=
  let g := sagAt sag s
  match find c g.answers with
  | some p => p
  | none =>
    let p := nth 512 c g.clusters
    if g.answers.any fun a => a.2 == p then 512 else p

/-- The physical core of a logical core. -/
def physCore (sag l : Nat) (s : State) : Nat := physCluster sag (l / 8) s * 8 + l % 8

/-- The sequencer of a SEQID. -/
def seqOf (sag sid : Nat) (s : State) : Nat := physCore sag (sid / 2) s * 2 + sid % 2

/-! ## Slots (R343, R344) -/

/-- Entry `i` of a saggar's slot table: its device, first cluster and count, where it is valid. -/
def slotEntry (sag i : Nat) (s : State) : Option (Nat × Nat × Nat) :=
  let t := (sagAt sag s).slotTab
  let w := agentWord sag 0 (t + 16 * i) s
  let v := agentWord sag 0 (t + 16 * i + 8) s
  if t ≠ 0 ∧ bit w 6 = true then some (w % 64, v % 512, bits v 25 16) else none

/-- The first valid entry from entry `i` on, wrapping. -/
def slotFrom (sag i : Nat) (s : State) : Option Nat :=
  ((List.range 64).map fun j => (i + j) % 64).find? fun j => (slotEntry sag j s).isSome

/-- The slot in force, where the table has a valid entry. -/
def curSlot (sag : Nat) (s : State) : Option (Nat × Nat × Nat) :=
  match slotFrom sag (sagAt sag s).slot s with
  | some i => slotEntry sag i s
  | none => none

/-- Whether a device's work may be placed on a logical cluster now. -/
def slotAllows (sag vdev c : Nat) (s : State) : Bool :=
  match curSlot sag s with
  | none => true
  | some (d, first, n) => d == vdev && decide (first ≤ c) && decide (c < first + n)

/-- Whether a logical cluster lies in its saggar for work to come: one that leaves, or answers to a moved number, takes
none (R335, R339). -/
def clusterOwn (sag c : Nat) (s : State) : Bool :=
  let g := sagAt sag s
  let p := nth 0 c g.clusters
  decide (c < g.clusters.length) && decide (p < 512) && !g.leaving.contains p && !g.answers.any (fun a => a.2 == p) &&
    !g.moving.any (fun m => m.2 == p)

/-- Whether a logical cluster of a saggar may take new work: of a gang, or of another kind. A window is open to its
own gang only (R321). -/
def clusterOpen (sag vdev : Nat) (gang : Option (Nat × Nat)) (c : Nat) (s : State) : Bool :=
  clusterOwn sag c s && slotAllows sag vdev c s &&
    !(sagAt sag s).windows.any fun w =>
      gang != some (w.launch, w.inst) && decide (w.first ≤ c) && decide (c < w.first + w.n)

/-! ## Launches (R315, R319, R320) -/

/-- The state word of a launch record. -/
def statusWord (l : Launch) (s : State) : Nat := agentWord l.sag l.vdev (l.va + 48) s

def setStatus (l : Launch) (exited reason st : Nat) (s : State) : State :=
  agentPut l.sag l.vdev (l.va + 48) (exited % 2 ^ 32 * 2 ^ 32 + reason * 256 + st) s

/-- Add to a counter of a launch's stream. -/
def qcbCount (l : Launch) (off n : Nat) (s : State) : State :=
  agentPut l.sag 0 (l.qcb + off) ((agentWord l.sag 0 (l.qcb + off) s + n) % 2 ^ 64) s

/-- Change USED of a launch's stream. -/
def qcbUsed (l : Launch) (f : Nat → Nat) (s : State) : State :=
  let w := agentWord l.sag 0 (l.qcb + 40) s
  agentPut l.sag 0 (l.qcb + 40) (w / 2 ^ 32 * 2 ^ 32 + f (w % 2 ^ 32) % 2 ^ 32) s

/-- The tasks of a launch. -/
def Launch.total (l : Launch) : Nat := (l.ngrid + 1) * l.gang * l.group

/-- The windows reserved for gangs of a launch of which nothing more is placed (R321). -/
def dropWindows (n : Nat) (s : State) : State :=
  { s with sags := s.sags.map fun p => (p.1, { p.2 with windows := p.2.windows.filter fun w => w.launch ≠ n }) }

/-- Forget a launch that is over, and its tasks. -/
def dropLaunch (n : Nat) (s : State) : State :=
  dropWindows n { s with launches := del n s.launches, tasks := s.tasks.filter fun p => p.2.launch ≠ n }

/-- A launch completes: STATE 10, its quota returned (R320). -/
def completeLaunch (n : Nat) (s : State) : State :=
  match find n s.launches with
  | none => s
  | some l => dropLaunch n (qcbUsed l (· - l.charge) (setStatus l l.exited 0 2 s))

/-- Whether a task waits in CWAIT on a record (R325). -/
def parkedOn (t va : Nat) (s : State) : Bool :=
  match find t s.tasks with
  | some k => match k.on with
    | some q => (seqAt q s).wait == .cwait va
    | none => false
  | none => false

/-- The cores of a pipeline: its consumers', and those of consumers lost that still run. -/
def Pipe.held (p : Pipe) : List Nat :=
  (p.stages.map fun st => (st.cores ++ st.olds.map fun o => o.2.2).filterMap id).flatten

/-- Whether any part of a launch has been placed: a task, or a core of its pipeline (R325). -/
def Launch.placed (l : Launch) (s : State) : Bool :=
  decide (0 < l.running + l.exited) || (match l.pipe with
    | some pn => (match find pn s.pipes with
      | some p => !p.held.isEmpty
      | none => false)
    | none => false)

/-- Whether a launch may be placed: a dependent one only while its launching task waits for it. -/
def mayPlace (l : Launch) (s : State) : Bool :=
  !l.dead && (match l.depd with
    | none => true
    | some t => l.placed s || parkedOn t l.va s)

/-- The tick of a launch's trace records: its pipeline's (R327). -/
def tickOf (l : Launch) (s : State) : Option Nat :=
  match l.pipe with
  | some pn => (find pn s.pipes).map fun p => p.tick
  | none => none

/-- The tick of a task's trace records. -/
def taskTick (tn : Nat) (s : State) : Option Nat :=
  match find tn s.tasks with
  | some t => (find t.launch s.launches).bind fun l => tickOf l s
  | none => none

/-! ## Cores and pipelines (R286, R308, R309) -/

/-- Whether a logical core belongs to a pipeline. -/
def inPipe (sag core : Nat) (s : State) : Bool :=
  s.pipes.any fun p => p.2.sag == sag && p.2.held.contains core

/-- Whether both sequencers of a logical core are free, and no pipeline holds it. -/
def coreFree (sag core : Nat) (s : State) : Bool :=
  let k := physCore sag core s
  !inPipe sag core s && (seqAt (2 * k) s).run == .off && (seqAt (2 * k + 1) s).run == .off

/-- The lowest free logical core of a saggar for a virtual device's pipeline, where new work may be placed. -/
def lowestCore (sag vdev : Nat) (s : State) : Option Nat :=
  (List.range ((sagAt sag s).clusters.length * 8)).find? fun c =>
    clusterOpen sag vdev none (c / 8) s && coreFree sag c s

/-- Every front of a core becomes unconfigured (R287, R301). -/
def clearFronts (k : Nat) (s : State) : State := modCore k (fun c => { c with fronts := [] }) s

/-- The consumer count of interval `m` of a stage, once it is fixed (R291). -/
def Stage.kAt (st : Stage) (m : Nat) : Option Nat :=
  if m < st.ks.length then some (nth 1 (st.ks.length - 1 - m) st.ks) else none

/-- The newest consumer count of a stage. -/
def Stage.k (st : Stage) : Nat := st.ks.headD 0

/-- Element `i` of a list set, with `d` before it where the list is shorter. -/
def setPad {α : Type} (d : α) (i : Nat) (v : α) (l : List α) : List α :=
  setAt i v (l ++ List.replicate (i + 1 - l.length) d)

def Stage.none_ : Stage := ⟨0, 0, 0, 0, 0, [], [], []⟩

def OQueue.none_ : OQueue := ⟨0, 0, 0, 0, 0, [], 0, 0⟩

/-- The stage of a pipeline whose output, or input, is a queue. -/
def Pipe.source (p : Pipe) (q : Nat) : Option Nat := p.stages.findIdx? fun st => st.qout == q

def Pipe.sink (p : Pipe) (q : Nat) : Option Nat := p.stages.findIdx? fun st => st.qin == q

/-- The live tasks of a stage. -/
def stageTasks (pn st : Nat) (s : State) : List StageTask :=
  s.tasks.filterMap fun p => match p.2.stage with
    | some x => if x.pipe = pn ∧ x.stage = st ∧ p.2.ended = false then some x else none
    | none => none

/-- Whether an element below `bound` that consumer `i` of stage `st` runs may still be in a queue or
reach it (R309). -/
def mayArrive (pn : Nat) (p : Pipe) (st : Stage) (i bound : Nat) (s : State) : Nat → Nat → Bool
  | 0, _ => false
  | f + 1, q =>
    let his := fun sn => decide (sn < bound) && (match st.kAt (sn / 16) with
      | some k => decide (sn % k = i)
      | none => false)
    let oq := nth OQueue.none_ q p.queues
    oq.elems.any (fun e => his e.sn) || (match p.source q with
      | some u => (stageTasks pn u s).any (fun x => his x.sn) ||
          mayArrive pn p st i bound s f (nth Stage.none_ u p.stages).qin
      | none => decide (oq.next < bound))

/-- Change one stage of a pipeline. -/
def modStage (pn st : Nat) (f : Stage → Stage) (s : State) : State :=
  modPipe pn (fun p => { p with stages := setAt st (f (nth Stage.none_ st p.stages)) p.stages }) s

def modQueue (pn q : Nat) (f : OQueue → OQueue) (s : State) : State :=
  modPipe pn (fun p => { p with queues := setAt q (f (nth OQueue.none_ q p.queues)) p.queues }) s

/-- Whether a stage task runs on a logical core of a pipeline. -/
def coreBusy (pn core : Nat) (s : State) : Bool :=
  s.tasks.any fun p => !p.2.ended && p.2.sid / 2 == core && (match p.2.stage with
    | some x => x.pipe == pn
    | none => false)

/-- A core arrives at a consumer of a stage: at the one that has waited longest under its index. -/
def Stage.receive (gi c : Nat) (st : Stage) : Stage :=
  match st.olds.findIdx? fun o => o.1 == gi && o.2.2.isNone with
  | some n => { st with olds := setAt n (gi, (nth (0, 0, none) n st.olds).2.1, some c) st.olds }
  | none => { st with cores := setPad none gi (some c) st.cores }

/-- Pass each core whose donor has run its last task (R309). -/
def passCores (pn : Nat) : List (Nat × Nat × Nat × Nat × Nat) → State → State
  | [], s => s
  | (d, di, g, gi, bound) :: l, s =>
    match find pn s.pipes with
    | none => s
    | some p =>
      let st := nth Stage.none_ d p.stages
      match st.olds.find? fun o => o.1 == di && o.2.1 == bound with
      | some (_, _, some c) =>
        if coreBusy pn c s || mayArrive pn p st di bound s (p.stages.length + 1) st.qin then passCores pn l s
        else
          let s1 := modStage pn d (fun st =>
            { st with olds := st.olds.eraseP fun o => o.1 == di && o.2.1 == bound }) s
          let s2 := modStage pn g (Stage.receive gi c) s1
          let s3 := modPipe pn (fun p => { p with moves := p.moves.erase (d, di, g, gi, bound) }) s2
          passCores pn l (clearFronts (physCore p.sag c s) s3)
      | _ => passCores pn l s

/-- Every consumer of a pipeline, by stage and index. -/
def Pipe.consumers (p : Pipe) : List (Nat × Nat) :=
  ((List.range p.stages.length).map fun i =>
    (List.range (nth Stage.none_ i p.stages).k).map fun j => (i, j)).flatten

/-- The first consumer of a pipeline that has no core, and none on its way. -/
def Pipe.lacking (p : Pipe) : Option (Nat × Nat) :=
  p.consumers.find? fun x => (nth none x.2 (nth Stage.none_ x.1 p.stages).cores).isNone &&
    !p.moves.any fun m => m.2.2.1 == x.1 && m.2.2.2.1 == x.2

/-- The core that a pipeline's next consumer would take: its stage, its index, the lowest free logical core that may
take the device's work (R286, R321). -/
def nextCore (l : Launch) (s : State) : Option (Nat × Nat × Nat) :=
  match l.pipe with
  | none => none
  | some pn => match find pn s.pipes with
    | none => none
    | some p => match p.lacking, lowestCore l.sag l.vdev s with
      | some (st, i), some c => some (st, i, c)
      | _, _ => none

/-- The kiln gives a core to a consumer of a stage, with its record (R286, R301, R327). -/
def giveCore (l : Launch) (pn st i c : Nat) (s : State) : State :=
  let s1 := modStage pn st (fun y => { y with cores := setPad none i (some c) y.cores }) s
  trace l.sag 1 0 (l.seqno % 2 ^ 24 * 256 + st) noCore c 0 (tickOf l s)
    (clearFronts (physCore l.sag c s) s1)

/-- Whether a closed pipeline has come to its end (R286). -/
def Pipe.over (pn : Nat) (p : Pipe) (s : State) : Bool :=
  p.closed && p.queues.all (fun q => q.elems.isEmpty) &&
    (List.range p.stages.length).all (fun i => (stageTasks pn i s).isEmpty)

/-- The interrupts that are pending under a sequencer's own number, while its cluster answered to another, are pending on
it, and its event bit is set (R339, R362). -/
def ownIrqs (sag q : Nat) (s : State) : State :=
  let k := look 0 q (sagAt sag s).irqs
  let s1 := modSag sag (fun g => { g with irqs := del q g.irqs }) s
  if k = 0 ∧ (seqAt q s).pirq = 0 then s1
  else modSeq q (fun x => { x with
    pirq := if x.run = .off then k else x.pirq ||| k
    evt := if k = 0 then x.evt else x.evt ||| 4#3 }) s1

/-- A receiving cluster returns to its own number once no task, and no pipeline's core, has the number that
was moved to it (R339). -/
def trimAnswers (sag : Nat) (s : State) : State :=
  let used := fun c => s.tasks.any (fun p => p.2.sag == sag && !p.2.ended && p.2.sid / 16 == c) ||
    s.pipes.any (fun p => p.2.sag == sag && p.2.held.any fun k => k / 8 == c)
  let ends := (sagAt sag s).answers.filter fun a => !used a.1
  let qs := (ends.map fun a => (List.range 16).map (a.2 * 16 + ·)).flatten
  qs.foldl (fun s q => ownIrqs sag q s)
    (modSag sag (fun g => { g with answers := g.answers.filter fun a => used a.1 }) s)

/-- Take a pipeline's cores back and forget it. -/
def dropPipe (pn : Nat) (s : State) : State :=
  match find pn s.pipes with
  | none => s
  | some p =>
    let s1 := p.held.foldl (fun s c => clearFronts (physCore p.sag c s) s) s
    trimAnswers p.sag { s1 with pipes := del pn s1.pipes, probes := s1.probes.filter fun x => x.pipe ≠ pn }

/-- A pipeline ends, and its launch completes. -/
def endPipe (pn : Nat) (p : Pipe) (s : State) : State := completeLaunch p.launch (dropPipe pn s)

/-- What the kiln does for one pipeline after a change: pass cores, end it. -/
def pipeSettle (pn : Nat) (s : State) : State :=
  match find pn s.pipes with
  | none => s
  | some p =>
    let s1 := passCores pn p.moves s
    match find pn s1.pipes with
    | none => s1
    | some p => if p.over pn s1 then endPipe pn p s1 else s1

/-- The same for every pipeline. -/
def settleAll : List Nat → State → State
  | [], s => s
  | pn :: l, s => settleAll l (pipeSettle pn s)

def settlePipes (s : State) : State := settleAll (s.pipes.map (·.1)) s

/-! ## Rebalancing (R308, R310) -/

/-- The load of a queue: in deterministic mode ceil(16/k) of the stage it feeds, else its count. -/
def queueLoad (p : Pipe) (q : Nat) : Nat :=
  if p.det then match p.sink q with
    | none => 0
    | some i => (15 + (nth Stage.none_ i p.stages).k) / (nth Stage.none_ i p.stages).k
  else (nth OQueue.none_ q p.queues).elems.length

/-- The donor: the stage with the smallest input load among those that may lose a consumer. -/
def donorOf (p : Pipe) (old : List Nat) (done : List Nat) (s : Nat) : Option Nat :=
  ((List.range p.stages.length).filter fun i =>
      decide (i ≠ s) && !done.contains i && decide ((nth Stage.none_ i p.stages).min < nth 0 i old)).foldl
    (fun b i => match b with
      | none => some i
      | some j => if queueLoad p (nth Stage.none_ i p.stages).qin < queueLoad p (nth Stage.none_ j p.stages).qin
          then some i else some j) none

/-- Set the newest count of a stage, as a new interval or, in free mode, as the running one. -/
def setK (pn st k : Nat) (det : Bool) (s : State) : State :=
  modStage pn st (fun x => { x with ks := if det then k :: x.ks.drop 1 else [k] }) s

/-- A stage loses its consumer of the highest index: it runs the elements below `bound` and then passes its core to
consumer `gi` of stage `g` (R309). -/
def donate (pn d di g gi bound : Nat) (s : State) : State :=
  modPipe pn (fun p => { p with moves := p.moves ++ [(d, di, g, gi, bound)] })
    (modStage pn d (fun x => { x with olds := x.olds ++ [(di, bound, nth none di x.cores)]
                                      cores := x.cores.take di }) s)

/-- Stage by stage: `p0` is the pipeline before the tick, `old` its counts, `done` the stages that have
gained or lost. -/
def rebalanceFrom (pn : Nat) (p0 : Pipe) (l : Launch) (old : List Nat) (bound : Nat) (tick : Option Nat) :
    List Nat → List Nat → State → State
  | [], _, s => s
  | i :: rest, done, s =>
    let st := nth Stage.none_ i p0.stages
    let k := nth 0 i old
    let wants := decide (k < st.max) && !done.contains i &&
      decide ((nth OQueue.none_ st.qin p0.queues).hi < queueLoad p0 st.qin) &&
      decide (queueLoad p0 st.qout < (nth OQueue.none_ st.qout p0.queues).lo)
    let tag := l.seqno % 2 ^ 24 * 256
    if !wants then rebalanceFrom pn p0 l old bound tick rest done s
    else match lowestCore p0.sag l.vdev s with
      | some c =>
        let s1 := modStage pn i (fun x => { x with cores := setPad none k (some c) x.cores })
          (setK pn i (k + 1) p0.det s)
        let s2 := trace p0.sag 4 2 (tag + i) noCore c 0 tick (clearFronts (physCore p0.sag c s) s1)
        rebalanceFrom pn p0 l old bound tick rest (i :: done) s2
      | none => match donorOf p0 old done i with
        | none => rebalanceFrom pn p0 l old bound tick rest done s
        | some d =>
          let di := nth 0 d old - 1
          let c := (nth none di (nth Stage.none_ d p0.stages).cores).getD noCore
          let s1 := donate pn d di i k bound (setK pn d di p0.det (setK pn i (k + 1) p0.det s))
          let s2 := trace p0.sag 4 2 (tag + i) c c 0 tick (trace p0.sag 4 3 (tag + d) c c 0 tick s1)
          rebalanceFrom pn p0 l old bound tick rest (i :: d :: done) s2

/-- The rule of R308 at a tick: every stage's count for the new interval is first the old one. -/
def rebalance (pn bound : Nat) (tick : Option Nat) (s : State) : State :=
  match find pn s.pipes with
  | none => s
  | some p => match find p.launch s.launches with
    | none => s
    | some l =>
      let old := p.stages.map fun st => st.k
      let s1 := if p.det then modPipe pn (fun p =>
          { p with stages := p.stages.map fun st => { st with ks := st.k :: st.ks } }) s else s
      pipeSettle pn (rebalanceFrom pn p l old bound tick (List.range p.stages.length) [] s1)

/-! ## The end of tasks -/

/-- The probes of a sequencer's push that waits no more: their return would grant nothing (R312). -/
def dropProbes (q : Nat) (s : State) : State := { s with probes := s.probes.filter fun p => p.q ≠ q }

/-- A sequencer's wait ends without its instruction; a parked FWAIT leaves its cell: with no waiter left the cell is
empty again (R195). -/
def unpark (q : Nat) (s : State) : State :=
  let s := dropProbes q s
  match (seqAt q s).wait with
  | .future pa none =>
    let s1 := modSeq q (fun x => { x with wait := .none }) s
    if s1.seqs.any (fun p => p.2.wait == .future pa none) then s1
    else setMem (pa + 8) (leBytes 8 0) s1
  | _ => modSeq q (fun x => { x with wait := .none }) s

/-- The elements a sequencer's discarded pops hold go back to every consumer (R266). -/
def unreserve (q : Nat) (s : State) : State :=
  { s with pipes := s.pipes.map fun p => (p.1, { p.2 with queues := p.2.queues.map fun oq =>
      { oq with elems := oq.elems.map fun e => if e.rsvd = some q then { e with rsvd := none } else e } }) }

/-- What a sequencer keeps when its task has ended: every register but the latches, the faulted-call record and the
handles (R281), until a task start sets them (R318). An interrupt stays pending on it (R362). -/
def Seq.freed (x : Seq) : Seq :=
  { x with
    run := .off
    handles := []
    inflight := []
    latches := []
    preq := false
    land := .none
    halt := false
    freeze := 0
    accLag := 0
    exLag := 0
    flight := []
    pause := 0
    sync := false
    tlb := false
    mrow := { x.mrow with pend := false, busy := false }
    frec := []
    mfault := []
    hold := .none
    uhold := .none
    wait := .none
    bun := Bun.none }

/-- A sequencer gives its task up: interlocked results have landed (R281). -/
def freeSeq (q : Nat) (s : State) : State :=
  let s1 := unreserve q (unpark q s)
  let s2 := landAll q ((seqAt q s1).inflight.filter fun p => p.lock) s1
  let s3 := modCore (q / 2) (fun c =>
    { c with mq := c.mq.filter (fun m => m.q ≠ q)
             mrun := match c.mrun with
               | some r => if r.call.q = q then none else some r
               | none => none }) s2
  modSeq q Seq.freed s3

/-- The tasks of a task's group. -/
def groupOf (t : Task) (s : State) : Map Task :=
  s.tasks.filter fun p => p.2.launch == t.launch && p.2.inst == t.inst && p.2.grp == t.grp

/-- Whether every task of a group has ended. -/
def groupOver (t : Task) (s : State) : Bool :=
  (groupOf t s).all fun p => p.2.ended

/-- The kiln ends a group: every bank its sequencers own is freed (R141). -/
def freeBands (t : Task) (s : State) : State :=
  let owners := (groupOf t s).map fun p => p.2.sid % 16
  let cl := physCluster t.sag (t.sid / 16) s
  (List.range 8).foldl (fun s c => modCore (cl * 8 + c) (fun k =>
    { k with bands := k.bands.filter fun b => !owners.contains b.2.owner }) s) s

/-- The highest-numbered gang queued on a cluster of a dealt launch (R322). -/
def dealtHigh (n c : Nat) (d : Nat × Nat × Option Nat) : Option Nat :=
  match d with
  | (lo, hi, some x) => if lo < hi then some (max x (c + (hi - 1) * n)) else some x
  | (lo, hi, none) => if lo < hi then some (c + (hi - 1) * n) else none

/-- Take that gang. -/
def dealtTake (n c i : Nat) (d : Nat × Nat × Option Nat) : Nat × Nat × Option Nat :=
  match d with
  | (lo, hi, some x) => if x = i then (lo, hi, none) else (lo, hi - 1, some x)
  | (lo, hi, none) => if i = c + (hi - 1) * n then (lo, hi - 1, none) else (lo, hi, none)

/-- Steal attempts of a cluster (R322). -/
def stealFrom (ln c : Nat) : Nat → State → State
  | 0, s => s
  | f + 1, s =>
    match find ln s.launches with
    | none => s
    | some l =>
      let n := l.n0
      let r := look 1 c l.rounds
      let v := (c + r) % n
      let r1 := if (c + r + 1) % n = c then r + 2 else r + 1
      let s1 := modLaunch ln (fun l => { l with rounds := upd c r1 l.rounds }) s
      let d := look (0, 0, none) v l.deal
      match dealtHigh n v d with
      | none => stealFrom ln c f s1
      | some i =>
        let e := look (0, 0, none) c l.deal
        let deal := upd c (e.1, e.2.1, some i) (upd v (dealtTake n v i d) l.deal)
        let s2 := modLaunch ln (fun l => { l with deal := deal }) s1
        qcbCount l 104 1 (trace l.sag 3 0 (l.seqno % 2 ^ 24 * 256) (v * 8) (c * 8) 0 none s2)

/-- A cluster whose group has ended and that has no gang of the launch queued tries to steal one. -/
def steal (t : Task) (s : State) : State :=
  match find t.launch s.launches with
  | none => s
  | some l =>
    let c := t.sid / 16
    if l.deal = [] ∨ l.dead ∨ (dealtHigh l.n0 c (look (0, 0, none) c l.deal)).isSome then s
    else stealFrom t.launch c (l.n0 - 1) s

/-- What follows when the last task of a group has ended. -/
def groupEnd (t : Task) (s : State) : State :=
  if groupOver t s then steal t (freeBands t s) else s

/-- Cancel a launch (R315): STATE 11 with a reason; nothing more of it is placed. -/
def killLaunch (n reason : Nat) (s : State) : State :=
  match find n s.launches with
  | none => s
  | some l =>
    let s1 := setStatus l l.exited reason 3 (modLaunch n (fun l => { l with dead := true, charge := 0 })
      (dropWindows n s))
    let s2 := qcbUsed l (· - l.charge) s1
    let s3 := match l.pipe with
      | some pn => dropPipe pn s2
      | none => s2
    if l.running = 0 then dropLaunch n s3 else s3

/-- The launches that depend on a task that has ended, and were never placed, are cancelled (R325). -/
def killDependents (tn : Nat) (s : State) : State :=
  (s.launches.filter fun p => p.2.depd == some tn && !p.2.placed s && !p.2.dead).foldl
    (fun s p => killLaunch p.1 3
      (trace p.2.sag 9 0 (p.2.seqno % 2 ^ 24 * 256) noCore noCore 0 (tickOf p.2 s) s)) s

/-- The pipelines that a task launched are closed when it exits (R286), and when it is cancelled (log entry 86). -/
def closePipes (tn : Nat) (s : State) : State :=
  { s with pipes := s.pipes.map fun p =>
      (p.1, if p.2.owner = some tn then { p.2 with closed := true } else p.2) }

/-- A task's sequencer gives it up. -/
def stopTask (t : Task) (s : State) : State :=
  match t.on with
  | some q => freeSeq q s
  | none => s

/-- A task ends: by EXIT, or, `exits` false, by cancellation (R281, R317, R320). Either closes the pipelines it launched,
though R286 speaks of its exit only (log entry 86). -/
def endTask (tn : Nat) (exits : Bool) (s : State) : State :=
  match find tn s.tasks with
  | none => s
  | some t =>
    let s2 := modTask tn (fun t => { t with ended := true, on := none, yielded := false }) (stopTask t s)
    let s3 := match find t.launch s2.launches with
      | none => s2
      | some l =>
        let e := if exits then l.exited + 1 else l.exited
        let s := modLaunch t.launch (fun l => { l with exited := e, running := l.running - 1 }) s2
        let s := agentPut l.sag l.vdev (l.va + 48) (e % 2 ^ 32 * 2 ^ 32 + statusWord l s % 2 ^ 32) s
        qcbCount l 80 1 s
    let s4 := groupEnd t s3
    let s5 := trimAnswers t.sag (settlePipes (killDependents tn (closePipes tn s4)))
    match find t.launch s5.launches with
    | none => s5
    | some l =>
      if l.dead then (if l.running = 0 then dropLaunch t.launch s5 else s5)
      else if l.pipe = none ∧ l.exited = l.total then completeLaunch t.launch s5
      else s5

/-- The kiln cancels a task's group (R263): its sequencers stop, and its tasks end where they stand. A launch of ordinary
tasks is cancelled with it (R315); a pipeline's stays accepted, without STATE 11, and goes on with its other elements
(log entry 86). -/
def cancelGroup (tn reason : Nat) (s : State) : State :=
  match find tn s.tasks with
  | none => s
  | some t =>
    let live := (groupOf t s).filter fun p => !p.2.ended
    let tick := (find t.launch s.launches).bind fun l => tickOf l s
    let s1 := live.foldl (fun s p => stopTask p.2 s) (trace t.sag 9 reason noTask noCore noCore 0 tick s)
    let s2 := if t.stage = none then killLaunch t.launch 1 s1 else s1
    live.foldl (fun s p => endTask p.1 false s) s2

/-! ## The start of a task (R317, R318) -/

/-- Registers n, n+1, … from a list. -/
def regsFrom : Nat → List Word → Map Word → Map Word
  | _, [], m => m
  | n, v :: l, m => regsFrom (n + 1) l (put 0 n v m)

/-- The context areas of a saggar's pool that no live task holds, lowest first. -/
def freeAreas (sag n : Nat) (s : State) : List Nat :=
  let used := (s.tasks.filter fun p => p.2.sag == sag && !p.2.ended).map fun p => p.2.ctx
  let total := kcbWord sag 48 s % 2 ^ 32
  ((List.range (min total (used.length + n))).filter fun i => !used.contains i).take n

/-- What the loader holds of a task of a virtual device (R49). -/
def loadOf (sag vdev entry : Nat) (s : State) : Option LoadTask :=
  (sagAt sag s).loads.find? fun l => l.vdev == vdev && l.entry == entry

/-- A task's liveness table, from the loader's records. -/
def liveTable (sag vdev entry : Nat) (s : State) : Nat :=
  match loadOf sag vdev entry s with
  | some l => l.live
  | none => 0

/-- A virtual device's trap base, with the zero field of TVEC (Table 15.3). -/
def trapBase (sag vdev : Nat) (s : State) : Word := look 0 vdev (sagAt sag s).tbases &&& 0xFFFFFFFFF000#64

/-- Start task `tn` on sequencer `q`: the whole task-start state. -/
def startTask (tn : Nat) (t : Task) (q vdev : Nat) (entry : Word) (regs : List Word) (s : State) : State :=
  let w := t.sid % 2 * 2048
  let irq := (seqAt q s).pirq
  let x : Seq := { Seq.idle with
    run := .running
    task := tn
    seqid := BitVec.ofNat 13 t.sid
    clid := BitVec.ofNat 9 (t.sid / 16)
    sagid := BitVec.ofNat 4 t.sag
    vdev := vdev
    pc := entry
    s := regsFrom 1 regs []
    vwb := BitVec.ofNat 12 w
    tvec := trapBase t.sag vdev s
    lvbase := BitVec.ofNat 64 (liveTable t.sag vdev entry.toNat s) &&& 0xFFFFFFFFFFF0#64
    pirq := irq
    land := if irq = 0 then .none else .now }
  let s1 := modCore (q / 2) (fun c =>
    { c with vfile := c.vfile.filter fun e => e.1 < w || w + 56 ≤ e.1 }) s
  let s2 := { modSeq q (fun _ => x) s1 with tasks := upd tn { t with on := some q } s.tasks }
  match find t.launch s2.launches with
  | none => s2
  | some l => qcbCount l 72 1 (modLaunch t.launch (fun l => { l with running := l.running + 1 }) s2)

end Sys2Proof.Machine
end

