-- ==== Sys2Proof/Machine/Flags.lean ====
section
/-! DEFINITION. The control registers: which mode may reach them, what they read, what a write leaves
(Tables 15.2, 15.3, 12.1, 13.6, 13.7, 6.3, R268 to R272). -/

namespace Sys2Proof.Machine

/-- Whether a mode may read a control register (Table 15.2). -/
def csrReadable (idx : Nat) (m : Mode) : Bool :=
  match m with
  | .k => true
  | .u => !(decide (0x020 ≤ idx) && decide (idx ≤ 0x024))

/-- Whether a mode may name a control register in a write: a register marked R·P or — raises 0x04. -/
def csrWritable (idx : Nat) (m : Mode) : Bool :=
  match m with
  | .k => true
  | .u => csrReadable idx .u && decide (idx ≠ 0x025) && decide (idx ≠ 0x040)

/-- DSTAT (Table 13.7). -/
def dstat (d : DomUnit) : Word :=
  BitVec.ofNat 64 (d.rexec.toNat * 2 ^ 32 + d.standing.length % 128 * 256 + d.ckpts.length % 32)

/-- MROW (Table 6.3). -/
def MRow.word (m : MRow) : Word :=
  BitVec.ofNat 64 ((if m.pend then 2 ^ 63 else 0) + (if m.busy then 2 ^ 62 else 0) +
    m.idx.toNat * 2 ^ 32 + m.rows.toNat)

/-- TCAUSE: PK, LATCH while latches are held, CAUSE. -/
def tcauseWord (x : Seq) : Word :=
  BitVec.ofNat 64 ((if x.tpk then 2 ^ 63 else 0) + (if x.latches.isEmpty then 0 else 2 ^ 62) +
    x.tcause.toNat)

/-- What a control register other than CYCLE reads. -/
def csrVal (idx : Nat) (x : Seq) (c : Core) : Word :=
  match idx with
  | 0x000 => x.seqid.setWidth 64
  | 0x001 => x.clid.setWidth 64
  | 0x002 => x.sagid.setWidth 64
  | 0x003 => x.ltick
  | 0x010 => x.rmode.setWidth 64
  | 0x011 => x.fflags.setWidth 64
  | 0x012 => x.vwb.setWidth 64
  | 0x013 => x.rrb.setWidth 64
  | 0x014 => BitVec.ofNat 64 x.loops.length
  | 0x020 => x.tvec
  | 0x021 => tcauseWord x
  | 0x022 => x.taddr
  | 0x023 => x.tval
  | 0x024 => x.tscr
  | 0x025 => x.lvbase
  | 0x030 => x.dbound.setWidth 64
  | 0x031 => dstat x.dom
  | 0x040 => c.bankrole
  | 0x041 => x.slack.setWidth 64
  | 0x042 => x.ttbase
  | 0x050 => x.mrow.word
  | 0x060 => c.errcnt
  | _ => 0

/-- Read a control register: CYCLE counts on; a register that commits write reads what the committed bundles have left
(R113, R270). -/
def csrRead (idx : Nat) (s : State) : Word × State :=
  if idx = 0x004 then cycleNow (mySagN s) s else (csrVal idx (me s) (myCore s), s)

/-- The value a write makes of the old one (R274). -/
def csrNew (op : CsrOp) (old v : Word) : Word :=
  match op with
  | .w => v
  | .s => old ||| v
  | .c => old &&& ~~~v

/-- Whether two ranges of entries overlap. -/
def overlaps (a n b m : Nat) : Bool := decide (a < b + m) && decide (b < a + n)

/-- Whether a range of file entries overlaps a bound ring of a sequencer, handle `h` left out. -/
def ringClash (q : Nat) (h : Option Nat) (base len : Nat) (s : State) : Bool :=
  (seqAt q s).handles.any fun p => decide (some p.1 ≠ h) && overlaps base len p.2.base p.2.len

/-- The base of a sequencer's window; an idle one's is where its next task start puts it (R21). -/
def windowBase (q : Nat) (s : State) : Nat :=
  if (seqAt q s).run = .off then q % 2 * 2048 else (seqAt q s).vwb.toNat

/-- Whether a sequencer's window overlaps a range of file entries. -/
def windowClash (q base len : Nat) (s : State) : Bool := overlaps base len (windowBase q s) 56

/-- The other sequencer of the core. -/
def sibling (q : Nat) : Nat := q / 2 * 2 + (1 - q % 2)

/-- Whether a value may be written to VWB of a sequencer (R272). -/
def vwbOk (q : Nat) (v : Word) (s : State) : Bool :=
  decide (v.toNat < 4096) && decide (v.toNat % 64 = 0) &&
    !windowClash (sibling q) v.toNat 56 s &&
    !ringClash q none v.toNat 56 s && !ringClash (sibling q) none v.toNat 56 s

/-- Whether a value has no role of code 11 (R152). -/
def rolesOk (v : Word) : Bool := (List.range 32).all fun b => bits v.toNat (2 * b + 1) (2 * b) != 3

/-- Whether a copy is in flight on a channel of a core's cluster, started or queued (R152, step 2). -/
def copiesRun (k : Nat) (s : State) : Bool :=
  (List.range 8).any fun c => (coreAt (k / 8 * 8 + c) s).chans.any fun h => h.2.run.isSome || !h.2.queue.isEmpty

/-- Zero the local bytes of the banks `f` picks. -/
def zeroBanks (f : Nat → Bool) (m : List Host.Cell) : List Host.Cell :=
  m.filter fun c => !f (c.1 / 65536)

/-- The commit of a BANKROLE write: write back and invalidate, zero-fill, new roles (R152). -/
def setBankrole (k : Nat) (v : Word) (s : State) : State :=
  let old := coreAt k s
  let role := fun b => bits v.toNat (2 * b + 1) (2 * b)
  let leaves := (List.range 32).any fun b => roleOf old b == 0 && role b != 0
  let s1 := if leaves then modCore k (fun c => { c with l1 := [] }) (homeward k old.l1 s) else s
  modCore k (fun c =>
    { c with bankrole := v
             sram := zeroBanks (fun b => role b != 0 && role b != roleOf old b) c.sram }) s1

/-- The limit SLACK takes from a written value (Table 12.1). -/
def slackOf (v : Word) : BitVec 5 :=
  let n := v.toNat % 32
  if n = 0 ∨ 16 < n then 16 else BitVec.ofNat 5 n

/-- A control-register write arrives in a sequencer's own registers. -/
def csrSet (idx : Nat) (v : Word) (x : Seq) : Seq :=
  match idx with
  | 0x010 => { x with rmode := v.setWidth 2 }
  | 0x011 => { x with fflags := v.setWidth 10 }
  | 0x012 => { x with vwb := v.setWidth 12 }
  | 0x013 => { x with rrb := v.setWidth 4 }
  | 0x020 => { x with tvec := v &&& 0xFFFFFFFFF000#64 }
  | 0x021 => { x with tpk := v.getLsbD 63, tcause := v.setWidth 8,
                      latches := if v.getLsbD 62 then x.latches else [] }
  | 0x022 => { x with taddr := v &&& 0xFFFFFFFFFFFF#64 }
  | 0x023 => { x with tval := v }
  | 0x024 => { x with tscr := v }
  | 0x025 => { x with lvbase := v &&& 0xFFFFFFFFFFF0#64 }
  | 0x030 => { x with dbound := v.setWidth 32 }
  | 0x041 => { x with slack := slackOf v }
  | 0x042 => { x with ttbase := v &&& 0xFFFFFFFFFFC0#64 }
  | _ => x

/-- Whether a write to a control register takes effect at dispatch: marked D in Table 15.2 (R270). -/
def csrAtDispatch (idx : Nat) : Bool :=
  [0x010, 0x012, 0x013, 0x021, 0x022, 0x023, 0x024, 0x030, 0x041].contains idx

/-- A control-register write of sequencer `q` takes effect (R270). ERRCNT changes in K mode only. -/
def csrWrite (q idx : Nat) (op : CsrOp) (v : Word) (s : State) : State :=
  let x := seqAt q s
  let new := csrNew op (csrVal idx x (coreAt (q / 2) s)) v
  match idx with
  | 0x040 => setBankrole (q / 2) new s
  | 0x060 => match x.mode with
    | .u => s
    | .k => modCore (q / 2) (fun c => { c with errcnt := new &&& 0xFFFFFFFFFFFF#64 }) s
  | _ => modSeq q (csrSet idx new) s

end Sys2Proof.Machine
end

