-- ==== Sys2Proof/Machine/Commit.lean ====
section
/-! DEFINITION. What a bundle's commit does outside its sequencer (R69, R225), and the bundles that the issue queues
still hold (R223 to R225). -/

namespace Sys2Proof.Machine

/-- A copy handed to a channel: the next ID, at the end of its queue (R165). It works in the mode its sequencer has now: a
stream fill too, whatever mode bound the handle (log entry 27). -/
def startCopy (k ch q : Nat) (w : BitVec 32) (p : Word) (fill : Option Fill) (s : State) : State :=
  let x := seqAt q s
  modCore k (fun c =>
    let h := look Chan.init ch c.chans
    let cp : Copy := ⟨h.last + 1, q, x.sagid.toNat, x.vdev, x.mode, x.ttbase, w, p, fill,
      tablesIn x.sagid.toNat s⟩
    { c with chans := upd ch { h with last := h.last + 1, queue := h.queue ++ [cp] } c.chans }) s

/-- The fills of a handle on their way. -/
def pendingFills (k : Nat) (h : Handle) (s : State) : Nat :=
  let c := look Chan.init h.ch (coreAt k s).chans
  let mine := fun (p : Copy) => match p.fill with
    | some f => f.serial == h.serial
    | none => false
  (c.queue.filter mine).length + (match c.run with
    | some r => if mine r.copy then 1 else 0
    | none => 0)

/-- Start the fills that a handle's free entries allow, at most `n` (R175). -/
def feed (q hn : Nat) : Nat → State → State
  | 0, s => s
  | n + 1, s =>
    match find hn (seqAt q s).handles with
    | none => s
    | some h =>
      if h.feed && (decide (h.count = 0) || decide (h.asked < h.count)) &&
          decide (h.filled + pendingFills (q / 2) h s < h.len) then
        let s1 := modSeq q (fun x =>
          { x with handles := adj hn (fun h => { h with asked := h.asked + 1 }) x.handles }) s
        feed q hn n (startCopy (q / 2) h.ch q (BitVec.ofNat 32 h.tidx) (BitVec.ofNat 64 (256 * h.asked))
          (some ⟨q, hn, h.serial, h.asked⟩) s1)
      else s

/-- A handle's change at the commit (R176, R177). -/
def applyHop (q : Nat) (op : Hop) (s : State) : State :=
  let ch := fun (hn : Nat) (f : Handle → Handle) (s : State) =>
    feed q hn 256 (modSeq q (fun x => { x with handles := adj hn f x.handles }) s)
  match op with
  | .consume h => ch h (fun h => { h with head := (h.head + 1) % h.len, filled := h.filled - 1 }) s
  | .produce h => ch h (fun h => { h with filled := h.filled + 1 }) s
  | .adv h n off =>
    ch h (fun h => { h with head := (h.head + n) % h.len, filled := h.filled - n, off := off }) s
  | .bind h hd =>
    let (n, s1) := fresh s
    feed q h 256 (modSeq q (fun x => { x with handles := upd h { hd with serial := n } x.handles }) s1)
  | .unbind h => modSeq q (fun x => { x with handles := del h x.handles }) s

/-- A held store is performed; a store to an aperture starts a copy (R69, R165). -/
def applyStore (q : Nat) (p : PStore) (s : State) : State :=
  match p.place with
  | .aper ch => startCopy (q / 2) ch q (BitVec.ofNat 32 (leNat (p.bytes.take 4)))
      (BitVec.ofNat 64 (leNat (p.bytes.drop 4))) none s
  | pl => storePlace (q / 2) pl p.bytes s

/-- Flip the pair bit of published leaves (R173), in memory and in the tables that copies work under. -/
def flipIn (l : List (Nat × Nat)) (m : List Host.Cell) : List Host.Cell :=
  l.foldl (fun m p => writeCells p.1 (leBytes 8 (word8 m p.1 ^^^ 2 ^ p.2)) m) m


/-- The publication of a bundle as one event, after a release at pa. -/
def publishAll (q : Nat) (l : List (Nat × Nat)) (s : State) : State :=
  if l.isEmpty then s
  else
    let s1 := release (q / 2) 2 s
    mapCopies (fun c => { c with tmem := flipIn l c.tmem }) { s1 with mem := flipIn l s1.mem }

/-- The first compensated call on a pair of banks pairs them (R25, R140). -/
def pairBands (c : MCall) (k : Core) : Core :=
  if bits (nth 0 4 c.par).toNat 11 10 = 2 then
    let bs := if c.idx == 0x018 then (c.groups.filter fun g => g.rows != 0).map (·.bank)
      else [bits (nth 0 2 c.par).toNat 20 15]
    { k with bands := k.bands.map fun p =>
        (p.1, if bs.contains (p.1 - p.1 % 2) then { p.2 with paired := true } else p.2) }
  else k

/-- A matrix call is handed to the unit: MROW and the unit's queue (R125); at an MRESUME too ROWS is m7 of the call, whatever
ROWS an installed record had (R131, log entry 84). -/
def handOff (c : MCall) (s : State) : State :=
  modCore (c.q / 2) (fun k => { pairBands c k with mq := k.mq ++ [c] })
    (modSeq c.q (fun x =>
      { x with mrow := ⟨false, true, BitVec.ofNat 9 c.idx, BitVec.ofNat 16 (nth 0 7 c.par).toNat⟩ }) s)

/-- The parts of a commit that every bundle has: stores in order of their slots, handles, publication, a control register
marked C, a matrix call's hand-off; a write of FFLAGS before the raised flags are ORed in (R30); LTICK in U mode (Table
15.3). -/
def effectsOf (q : Nat) (b : Bun) (s : State) : State :=
  let s1 := b.stores.foldl (fun s p => applyStore q p s) s
  let s2 := b.hops.foldl (fun s h => applyHop q h s) s1
  let s3 := publishAll q b.publish s2
  let s4 := match b.ctl with
    | .csr idx op v => if csrAtDispatch idx then s3 else csrWrite q idx op v s3
    | _ => s3
  let s5 := match b.mcall with
    | some c => handOff c s4
    | none => s4
  modSeq q (fun x =>
    { x with fflags := x.fflags ||| b.flags
             ltick := if x.mode = .u then x.ltick + 1 else x.ltick }) s5

/-- The effects of the bundle in execution. -/
def commitEffects (q : Nat) (s : State) : State := effectsOf q (seqAt q s).bun s

/-- The `n` oldest bundles in the queues of sequencer `q` commit, in order (R225). -/
def commitOldest (q : Nat) : Nat → State → State
  | 0, s => s
  | n + 1, s => match (seqAt q s).flight with
    | [] => s
    | b :: l => commitOldest q n (effectsOf q b (modSeq q (fun x => { x with flight := l }) s))

/-- The greatest lag of the execute queue at which the access queue lags by `a` bundles: its slots have waited for what
they need of the execute queue (R205, R225). -/
def exLimit (a : Nat) (fl : List Bun) : Nat :=
  ((fl.reverse.zipIdx.drop a).map fun p => if p.1.need = 0 then 16 else p.2 + p.1.need).foldl min 16

/-- The queues execute until they lag by at most `a` and `e` bundles; what both have executed commits (R225). -/
def settleQueues (q a e : Nat) (s : State) : State :=
  let x := seqAt q s
  if x.flight.isEmpty then s
  else
    let a1 := min x.accLag a
    let e1 := min (min x.exLag e) (exLimit a1 x.flight)
    commitOldest q (x.flight.length - max a1 e1)
      (modSeq q (fun x => { x with accLag := a1, exLag := e1 }) s)

/-- Every dispatched bundle of a sequencer commits. -/
def drain (q : Nat) (s : State) : State := settleQueues q 0 0 s

end Sys2Proof.Machine
end

