-- ==== Sys2Proof/WellFormed.lean ====
section
/-! DEFINITION. The operand values that Tables 3.3 and 3.6 to 3.14 allow (R62): a slot outside them is an
illegal instruction although its word has the shape of one. -/

namespace Sys2Proof

/-- The control-register indexes of Table 15.2 (R269). -/
def csrKnown (c : BitVec 12) : Bool :=
  match c.toNat with
  | 0x000 | 0x001 | 0x002 | 0x003 | 0x004 | 0x010 | 0x011 | 0x012 | 0x013 | 0x014
  | 0x020 | 0x021 | 0x022 | 0x023 | 0x024 | 0x025 | 0x030 | 0x031
  | 0x040 | 0x041 | 0x042 | 0x050 | 0x060 => true
  | _ => false

/-- The element bits of a format code (Table 5.2); 0 for the illegal codes. -/
def fmtBits (c : Nat) : Nat :=
  match c with
  | 0 => 32 | 1 => 16 | 2 => 16 | 3 => 8 | 4 => 8 | 5 => 8 | 6 => 4
  | 7 => 8 | 8 => 16 | 9 => 32 | 10 => 2 | 11 => 8 | 12 => 8
  | _ => 0

/-- The legal source and destination pairs of VCVT (R216). -/
def cvtLegal (s d : Nat) : Bool :=
  decide (s ≤ 12) && decide (d ≤ 12) && decide (s ≠ d) &&
  (decide (s ≠ 12) || decide (d ≤ 6)) && (decide (d ≠ 12) || decide (s ≤ 6))

/-- The element codes of the MX instructions (Table 3.10). -/
def mxCode (e : BitVec 6) : Bool := e == 4 || e == 5 || e == 6

/-- Whether an instruction's operand values are within their limits (R62). -/
def wellFormed : Instr → Bool
  | .sync _ m => decide (m ≠ 0)
  | .slack _ n => decide (1 ≤ n.toNat ∧ n.toNat ≤ 16)
  | .lidx _ _ l => decide (l.toNat ≤ 5)
  | .csrr _ c _ => csrKnown c
  | .csrw _ c _ => csrKnown c
  | .csrs _ c _ => csrKnown c
  | .csrc _ c _ => csrKnown c
  | .waitev _ c => decide (c ≠ 0 ∧ c.toNat < 8)
  | .tlbinv _ c _ => decide (c.toNat ≤ 1)
  | .scmp _ _ _ _ c => decide (c.toNat ≤ 5)
  | .scmpi _ c _ _ h _ => decide (h.toNat * 4 + c.toNat ≤ 5)
  | .lds _ _ _ z x _ => decide (¬(z = 3 ∧ x = 1))
  | .vadd _ _ _ _ f _ _ => decide (f ≠ 3)
  | .vsub _ _ _ _ f _ _ => decide (f ≠ 3)
  | .vmul _ _ _ _ f _ _ => decide (f ≠ 3)
  | .vfma _ _ _ _ f _ _ => decide (f ≠ 3)
  | .vfnma _ _ _ _ f _ _ => decide (f ≠ 3)
  | .vminf _ _ _ _ f _ _ => decide (f ≠ 3)
  | .vmaxf _ _ _ _ f _ _ => decide (f ≠ 3)
  | .vfcmp _ _ _ _ _ f _ => decide (f ≠ 3)
  | .vrcp _ _ _ f _ _ => decide (f ≠ 3)
  | .vrsq _ _ _ f _ _ => decide (f ≠ 3)
  | .vsqrt _ _ _ f _ _ => decide (f ≠ 3)
  | .vexp2 _ _ _ f _ _ => decide (f ≠ 3)
  | .vlog2 _ _ _ f _ _ => decide (f ≠ 3)
  | .vabsf _ _ _ f _ _ => decide (f ≠ 3)
  | .vnegf _ _ _ f _ _ => decide (f ≠ 3)
  | .vfloor _ _ _ f _ _ => decide (f ≠ 3)
  | .vfrac _ _ _ f _ _ => decide (f ≠ 3)
  | .vred _ _ _ _ f _ _ => decide (f ≠ 3)
  | .vscan _ _ _ _ f => decide (f ≠ 3)
  | .vcvt _ _ _ s r _ _ => cvtLegal s.toNat r.toNat
  | .vmxsc _ _ _ e => mxCode e
  | .vmxq _ _ _ e => mxCode e
  | .vmxdq _ _ _ e => mxCode e
  | .vpack _ _ _ w => decide (w ≠ 0)
  | .vunpack _ _ _ _ _ w => decide (w ≠ 0)
  | .aread _ _ _ _ f o => decide (¬(f = 3 ∧ o = 1))
  | .awrite _ _ _ _ f o => decide (¬(f = 3 ∧ o = 1))
  | .adrain _ _ _ _ f => decide (f.toNat ≤ 11 ∧ f ≠ 5 ∧ f ≠ 6 ∧ f ≠ 10)
  | .dalld _ d c _ => decide (2 ≤ c.toNat ∧ c.toNat ≤ 8 ∧ d.toNat + c.toNat ≤ 32)
  | .fence _ _ _ k => decide (k ≠ 0)
  | _ => true

end Sys2Proof
end

