-- ==== Sys2Proof/Machine/Ops.lean ====
section
/-! DEFINITION. What a slot can do to its bundle; taking a trap and returning from one (R262 to R267,
R276); targets of transfers (R54); the loop stack (R73 to R77). -/

namespace Sys2Proof.Machine

/-! ## Taking a trap (R265) -/

/-- Steps 3 and 4 of R265: interlocked results arrive; exposed ones enter the latches in U mode, and
arrive at once in K mode. -/
def trapLand (q : Nat) (s : State) : State :=
  let x := seqAt q s
  match x.mode with
  | .u =>
    let s1 := modSeq q (fun x =>
      { x with inflight := [], latches := x.latches ++ x.inflight.filter fun p => !p.lock }) s
    landAll q (x.inflight.filter fun p => p.lock) s1
  | .k => landByDue q x.inflight (modSeq q (fun x => { x with inflight := [] }) s)

/-- The address of the handler of a cause (R263). -/
def vector (tvec : Word) (cause : Nat) : Word := tvec + BitVec.ofNat 64 (64 * cause)

/-- The barrier that an interrupted task has arrived at (R96): it holds the task again on its return. -/
def Seq.keptBar (x : Seq) : Hold :=
  match x.mode, x.hold with
  | .u, .bar o c i => .bar o c i
  | _, _ => x.uhold

/-- A sequencer whose dispatch is held for the end of its matrix call (R230, R281, R282). -/
def Seq.held (h : Hold) (x : Seq) : Seq := { x with uhold := x.keptBar, hold := h }

/-- Steps 5 and 6: the trap registers, K mode, the handler's address. -/
def trapRegs (cause : Nat) (tval taddr : Word) (x : Seq) : Seq :=
  { x with tpk := x.mode == .k
           tcause := BitVec.ofNat 8 cause
           taddr := taddr &&& 0xFFFFFFFFFFFF#64
           tval := tval
           mode := .k
           pc := vector x.tvec cause
           uhold := x.keptBar
           hold := .none
           land := .none
           accLag := 0
           exLag := 0
           flight := []
           pause := 0
           sync := false
           bun := Bun.none }

/-- A double fault: the sequencer stops, the kiln cancels its group (R263). -/
def doubleFault (q : Nat) (s : State) : State :=
  let t := (seqAt q s).task
  cancelGroup t 9 (modSeq q (fun x => { x with run := .stopped }) s)

/-- A translation fault has met the errors of the lines its walk read (R178). -/
def tablesMet (q cause : Nat) (tval : Word) (s : State) : State :=
  if cause = 0x08 ∨ cause = 0x09 then healTables (some (q / 2)) (viewOf q s) [(tval.toNat % 2 ^ 63, 1)] s else s

/-- Taking a trap on sequencer `q`, whose bundle in execution is discarded: every bundle before it commits in full
(R68); the one operation behind every cause (R265). -/
def trapEntry (q cause : Nat) (tval taddr : Word) (s : State) : State :=
  let s1 := modSeq q (trapRegs cause tval taddr) (unpark q (trapLand q (tablesMet q cause tval (drain q s))))
  if canFetch q (seqAt q s1).pc.toNat s1 then s1 else doubleFault q s1

/-- A slot of the acting sequencer's bundle traps (R68): entry at the bundle, held while a matrix call of
the sequencer is in the unit (R230). -/
def takeTrap (cause : Nat) (tval : Word) (s : State) : State :=
  let (c, v) := trapCause s.cur cause tval s
  let s1 := if matrixBusy s.cur s then s else trapEntry s.cur c v (me s).bun.addr s
  modMe (fun x => { x with bun := { x.bun with trapped := some (c, v) } }) s1

/-- The current loop: the innermost entry, if it was entered at the call level in force. -/
def Seq.loop (x : Seq) : Option LoopEnt :=
  match x.loops with
  | [] => none
  | e :: _ => if e.level = x.callLev then some e else none

/-! ## Landing (R234, R370, Table 12.6) -/

/-- Whether a pre-emption may land at a wait. -/
def Wait.lands : Wait → Bool
  | .none => false
  | .busy => false
  | _ => true

/-- Whether a hold is an arrival at a barrier. -/
def Hold.isBar : Hold → Bool
  | .bar _ _ _ => true
  | _ => false

/-- Whether an item waits for a landing: a request, an interrupt, a stop for a migration. -/
def Seq.pending (x : Seq) : Bool := x.preq || x.halt || x.pirq != 0

/-- Where the pending item lands, as the sequencer stands (Table 12.6); an interrupt as with no current loop. -/
def Seq.landing (x : Seq) : Landing :=
  if x.run != .running || x.mode == .k || !x.pending then .none
  else if x.wait.lands || x.hold.isBar then .now
  else match if x.preq || x.halt then x.loop else none with
    | some e => .loop e.stop
    | none => if x.wait = .busy then .next else .now

/-- A landing is chosen, where none has been. -/
def Seq.choose (x : Seq) : Seq := { x with land := if x.land = .none then x.landing else x.land }

/-- A pre-emption request is taken: it chooses a landing of its own, in place of one that an interrupt has chosen, since
one landing serves the request first (R234, R370); a task that is to be moved keeps its own. -/
def Seq.request (x : Seq) : Seq :=
  let y := { x with preq := true, freeze := 0 }
  if x.halt then y.choose else { y with land := y.landing }

/-- The return from a trap (R276): the mode of TCAUSE.PK, the address of TADDR. In U mode latches count
again, a barrier arrived at holds again, and what is pending lands at a bundle chosen afresh. -/
def trapReturn (x : Seq) : Seq :=
  if x.tpk then { x with pc := x.taddr }
  else
    let y := { x with pc := x.taddr
                      mode := .u
                      hold := if x.hold.isBar then x.hold else x.uhold
                      uhold := if x.hold.isBar then x.uhold else .none }
    { y with land := y.landing }

/-! ## What a slot does -/

/-- What a slot does to its bundle: a state, a trap, or a wait. -/
inductive Res
  | ok (s : State)
  | trap (cause : Nat) (tval : Word)
  | park (p : Park)
  deriving DecidableEq, Repr

/-- The bundle must wait for this slot. -/
def setPark (p : Park) (s : State) : State :=
  modMe (fun x => { x with bun := { x.bun with park := some p } }) s

/-- The sequencer takes what a slot does. -/
def Res.take (s : State) : Res → Host.Outcome State Fault Refusal
  | .ok t => .next t
  | .trap c v => .next (takeTrap c v s)
  | .park p => .next (setPark p s)

/-- Continue after a check. -/
def orTrap {α : Type} (cause : Nat) (r : Except Nat α) (f : α → Res) : Res :=
  match r with
  | .ok v => f v
  | .error t => .trap cause (BitVec.ofNat 64 t)

/-- Continue after a read, whose error is a cause and a trap value. -/
def orFault {α : Type} (r : Except (Nat × Nat) α) (f : α → Res) : Res :=
  match r with
  | .ok v => f v
  | .error (c, t) => .trap c (BitVec.ofNat 64 t)

/-- The trap value of causes 0x01 and 0x04: the slot's position and word (Table 3.15). -/
def slotVal (s : State) : Word :=
  let b := (me s).bun
  BitVec.ofNat 64 (b.pos * 2 ^ 32 + (nth 0 b.pos b.words).toNat)

/-- A guarded slot (R32, R69): its operand values are checked whatever the guard holds (R62, R63). -/
def slot (i : Instr) (g : BitVec 3) (f : State → Res) (s : State) :
    Host.Outcome State Fault Refusal :=
  if !wellFormed i then .next (takeTrap 0x01 (slotVal s) s)
  else if guardTrue g s then (f s).take s
  else .next s

/-- A slot with no guard, or that executes whatever its guard holds. -/
def always (i : Instr) (f : State → Res) (s : State) : Host.Outcome State Fault Refusal :=
  if !wellFormed i then .next (takeTrap 0x01 (slotVal s) s) else (f s).take s

/-- A guarded slot that neither traps nor waits. -/
def plain (i : Instr) (g : BitVec 3) (f : State → State) (s : State) :
    Host.Outcome State Fault Refusal := slot i g (fun s => .ok (f s)) s

/-! ## Effects that wait for the commit (R69) -/

def modBun (f : Bun → Bun) (s : State) : State := modMe (fun x => { x with bun := f x.bun }) s

def setCtl (c : Ctl) (s : State) : State := modBun (fun b => { b with ctl := c }) s

def addHop (h : Hop) (s : State) : State := modBun (fun b => { b with hops := b.hops ++ [h] }) s

/-- Raise flags (R113). -/
def raise (f : Flags) (s : State) : State := modBun (fun b => { b with flags := b.flags ||| f }) s

/-! ## Targets (R54) -/

/-- Whether a word has its STOP bit. -/
def stops (w : Slot) : Bool := w.getLsbD 31

/-- The fault of a target that is not a bundle start, or whose test word cannot be fetched (R54, R64). -/
def startFault (q : Nat) (t : Word) (s : State) : Option (Nat × Word) :=
  if t.toNat % 16 ≠ 0 then some (0x0B, t)
  else if t.toNat % 4096 = 0 then none
  else match fetchWord q (t.toNat - 4) s with
    | .error (c, v) => some (c, BitVec.ofNat 64 v)
    | .ok (w, _) => if stops w then none else some (0x0B, t)

/-- The fault of a transfer to `t`, if it has one: cause and trap value (R54, R64, R72). -/
def targetFault (q : Nat) (t : Word) (s : State) : Option (Nat × Word) :=
  if 2 ^ 48 ≤ t.toNat then some (0x08, t) else startFault q t s

/-- The length of the bundle at an address (R53). -/
def bundleLen (q a : Nat) (s : State) : Except (Nat × Nat) Nat :=
  match fetchWord q a s with
  | .error v => .error v
  | .ok (w0, _) => match fetchWord q (a + 4) s with
    | .error v => .error v
    | .ok (w1, _) => match fetchWord q (a + 8) s with
      | .error v => .error v
      | .ok (w2, _) => match fetchWord q (a + 12) s with
        | .error v => .error v
        | .ok (w3, _) => .ok (if stops w0 || stops w1 || stops w2 || stops w3 then 16 else 32)

/-! ## The loop stack (R73 to R77): the innermost entry first -/

/-- A taken branch leaves every current loop that its target lies outside of (R77). -/
def popOutside (t : Word) (lev : Nat) : List LoopEnt → List LoopEnt
  | [] => []
  | e :: l =>
    if e.level = lev ∧ (t.toNat < e.start.toNat ∨ e.stop.toNat < t.toNat) then popOutside t lev l
    else e :: l

/-- A return pops the loops entered at deeper levels (R73). -/
def popDeeper (lev : Nat) : List LoopEnt → List LoopEnt
  | [] => []
  | e :: l => if lev < e.level then popDeeper lev l else e :: l

end Sys2Proof.Machine
end

