-- ==== Sys2Proof/Machine/Bundle.lean ====
section
/-! DEFINITION. Bundles: the dispatch of one (fetch, format, slots, conflicts: R26 to R33, R53, R62 to R65),
and its commit (R69, R225). -/

namespace Sys2Proof.Machine

/-! ## Classes (Tables 2.1, 2.2) -/

/-- The unit classes. -/
inductive Cls | none | c | s | xin | xout | a | v | m | d | f | q
  deriving DecidableEq, Repr

/-- The class of a slot word. -/
def classOf (w : Slot) : Cls :=
  let mj := bits w.toNat 30 25
  let mn := w.toNat % 16
  if mj = 0 then (if w.toNat % 2 ^ 25 = 0 then .none else .c)
  else if mj ≤ 0x07 then .c
  else if mj ≤ 0x10 then .s
  else if mj = 0x11 then (if mn ≤ 3 then .xin else if mn ≤ 6 then .xout else .none)
  else if mj ≤ 0x1B then .a
  else if mj ≤ 0x2D then .v
  else if mj ≤ 0x33 then .m
  else if mj = 0x34 ∨ mj = 0x36 then .d
  else if mj = 0x37 then .f
  else if mj = 0x38 ∨ mj = 0x39 then .q
  else .none

/-- Slots per bundle. -/
def Cls.limit : Cls → Nat
  | .none => 8
  | .s => 2
  | .a => 2
  | .v => 2
  | _ => 1

/-- The first slot over its class's limit; `seen` are the classes of the slots before position `n`. -/
def overLimit : List Slot → List Cls → Nat → Option Nat
  | [], _, _ => none
  | w :: l, seen, n =>
    let k := classOf w
    if k.limit ≤ (seen.filter (· == k)).length then some n else overLimit l (k :: seen) (n + 1)

/-- The issue queues. -/
inductive Queue | none | scalar | access | execute
  deriving DecidableEq, Repr

/-- The issue queue that a slot enters (Table 2.1). -/
def queueOfSlot (w : Slot) : Queue :=
  let mj := bits w.toNat 30 25
  match classOf w with
  | .none => .none
  | .c | .s | .xin | .xout | .d | .f => .scalar
  | .a =>
    if mj = 0x14 ∨ mj = 0x15 then .execute
    else if mj = 0x16 ∧ w.toNat % 16 ≠ 4 then .execute
    else .access
  | .v | .m => .execute
  | .q => if mj = 0x38 then .access else .scalar

/-- Whether a slot enters the scalar queue, and so executes at dispatch (R223). -/
def scalarQueue (w : Slot) : Bool := queueOfSlot w == .scalar

/-! ## Destinations (R30) -/

/-- The destinations a slot names: class and number. Classes: 0 scalar, 1 predicate, 2 vector or handle,
3 domain, 4 matrix parameter, 5 front, 6 control register. -/
def destsOf : Instr → List (Nat × Nat)
  | .call _ _ => [(0, 63)]
  | .jalr _ d _ | .lidx _ d _ | .csrr _ _ d => [(0, d.toNat)]
  | .csrw _ c _ | .csrs _ c _ | .csrc _ c _ => [(6, c.toNat)]
  | .slack _ _ => [(6, 0x041)]
  | .add _ d _ _ | .sub _ d _ _ | .and _ d _ _ | .or _ d _ _ | .xor _ d _ _ | .andn _ d _ _
  | .shl _ d _ _ | .shr _ d _ _ | .sra _ d _ _ | .rot _ d _ _ | .min _ d _ _ | .max _ d _ _
  | .minu _ d _ _ | .maxu _ d _ _ | .sel _ d _ _ | .mul _ d _ _ | .mulh _ d _ _ | .mulhu _ d _ _
  | .div _ d _ _ | .divu _ d _ _ | .rem _ d _ _ | .remu _ d _ _ | .clz _ d _ | .ctz _ d _
  | .popc _ d _ | .brev _ d _ | .sh1add _ d _ _ | .sh2add _ d _ _ | .sh3add _ d _ _ | .rngh _ d _ _
  | .addi _ d _ _ | .andi _ d _ _ | .ori _ d _ _ | .xori _ d _ _ | .shli _ d _ _ | .shri _ d _ _
  | .srai _ d _ _ | .roti _ d _ _ | .movw _ d _ | .movh _ d _ | .pcnt _ d _ _ | .pfirst _ d _ _
  | .xvs _ d _ _ | .xps _ d _ _ | .xpm _ d _ | .lds _ d _ _ _ _ | .hstat _ d _ | .tstat _ d _
  | .twptr _ d _ | .mprog _ d | .aalloc _ d _ | .aown _ d _ | .abstat _ d | .dlo _ _ d | .dhi _ _ d
  | .dsize _ _ d | .drest _ d | .fcnt _ _ d | .frej _ _ d | .fstat _ _ d | .fwait _ d _ | .fpoll _ d _
  | .launch _ d _ | .cwait _ d _ | .qstat _ d _ => [(0, d.toNat)]
  | .atadd _ _ _ d _ _ | .atand _ _ _ d _ _ | .ator _ _ _ d _ _ | .atxor _ _ _ d _ _
  | .atmin _ _ _ d _ _ | .atmax _ _ _ d _ _ | .atminu _ _ _ d _ _ | .atmaxu _ _ _ d _ _
  | .atswp _ _ _ d _ _ | .atcas _ _ _ d _ _ | .atld _ _ _ d _ => [(0, d.toNat)]
  | .tsti _ p _ _ | .scmp _ p _ _ _ | .scmpi _ _ p _ _ _ | .xsp _ p _ _ | .vfcmp _ _ p _ _ _ _
  | .vicmp _ p _ _ _ _ | .dmemb _ _ p _ | .pand _ p _ _ | .por _ p _ _ | .pxor _ p _ _
  | .pandn _ p _ _ | .pnot _ p _ | .psetw _ p _ _ => [(1, p.toNat)]
  | .xsv _ d _ _ | .xsvl _ d _ _ | .vld _ d _ _ | .vlds _ d _ _ | .vgath _ d _ _
  | .vadd _ d _ _ _ _ _ | .vsub _ d _ _ _ _ _ | .vmul _ d _ _ _ _ _ | .vfma _ d _ _ _ _ _
  | .vfnma _ d _ _ _ _ _ | .vminf _ d _ _ _ _ _ | .vmaxf _ d _ _ _ _ _ | .vrcp _ d _ _ _ _
  | .vrsq _ d _ _ _ _ | .vsqrt _ d _ _ _ _ | .vexp2 _ d _ _ _ _ | .vlog2 _ d _ _ _ _
  | .vabsf _ d _ _ _ _ | .vnegf _ d _ _ _ _ | .vfloor _ d _ _ _ _ | .vfrac _ d _ _ _ _
  | .vred _ d _ _ _ _ _ | .viadd _ d _ _ _ | .visub _ d _ _ _ | .vimul _ d _ _ _ | .vimulh _ d _ _ _
  | .vand _ d _ _ _ | .vor _ d _ _ _ | .vxor _ d _ _ _ | .vandn _ d _ _ _ | .vshl _ d _ _ _
  | .vshr _ d _ _ _ | .vsra _ d _ _ _ | .vrot _ d _ _ _ | .vimin _ d _ _ _ | .vimax _ d _ _ _
  | .viminu _ d _ _ _ | .vimaxu _ d _ _ _ | .vperm _ d _ _ _ | .vshuf _ d _ _ _ | .vsel _ d _ _ _
  | .viota _ d _ | .vcvt _ d _ _ _ _ _ | .vmxsc _ d _ _ | .vmxq _ d _ _ | .vmxdq _ d _ _
  | .vtern _ d _ _ | .vpack _ d _ _ | .vunpack _ d _ _ _ _ | .vmov _ d _ | .vbcastl _ d _ _
  | .vscan _ d _ _ _ | .aread _ d _ _ _ _ | .fread _ _ d _ | .qpop _ d _ | .qpeek _ d _ =>
    [(2, d.toNat)]
  | .hbind _ h _ | .hadv _ h _ | .hunbind _ h => [(2, 56 + h.toNat)]
  | .dadd _ d _ _ _ | .dsub _ d _ _ _ | .dmulk _ d _ _ _ | .dalld _ d _ _ | .dsets _ d _ | .dsetv _ d _
  | .drem _ d _ => [(3, d.toNat)]
  | .xmp _ m _ => [(4, m.toNat)]
  | .fcfg _ f _ | .fclr _ f | .fins _ f _ _ | .fmerge _ f _ => [(5, f.toNat)]
  | _ => []

/-- The destinations that can conflict: not s0, not p0. -/
def named (i : Instr) : List (Nat × Nat) :=
  (destsOf i).filter fun d => !(decide (d.1 ≤ 1) && decide (d.2 = 0))

/-- The positions, as a mask, of the slots that name a destination. -/
def namersOf (d : Nat × Nat) : List Instr → Nat → Nat
  | [], _ => 0
  | i :: l, n => (if (named i).contains d then 2 ^ n else 0) + namersOf d l (n + 1)

/-- The mask of the first destination named twice, taking destinations in slot order. -/
def conflict (all : List Instr) : List Instr → Nat → Option Nat
  | [], _ => none
  | i :: l, n =>
    match (named i).find? fun d => decide (namersOf d all 0 ≠ 2 ^ n) with
    | some d => some (namersOf d all 0)
    | none => conflict all l (n + 1)

/-! ## Privilege (R65, R277) -/

/-- Whether a slot is refused to a mode. -/
def privileged (m : Mode) : Instr → Bool
  | .eret _ | .tlbinv _ _ _ => m == .u
  | .csrr _ c _ => !csrReadable c.toNat m
  | .csrw _ c _ | .csrs _ c _ | .csrc _ c _ => !csrWritable c.toNat m
  | .waitev _ c => m == .u && c.getLsbD 2
  | _ => false

/-- A slot that is illegal for the values it finds, where its guard holds: a seventh loop (R74), a role of code 11
(R152, log entry 64). -/
def illegalNow (i : Instr) (s : State) : Bool :=
  let bank := fun (g : BitVec 3) (c : BitVec 12) (op : CsrOp) (r : BitVec 6) =>
    guardTrue g s && c == 0x040#12 && (me s).mode == .k &&
      !rolesOk (csrNew op (myCore s).bankrole (sreg r s))
  match i with
  | .loop g _ _ => guardTrue g s && decide (6 ≤ (me s).loops.length)
  | .csrw g c r => bank g c .w r
  | .csrs g c r => bank g c .s r
  | .csrc g c r => bank g c .c r
  | _ => false

/-! ## Dispatch -/

/-- Fetch `n` words from an address. -/
def fetchWords (q : Nat) : Nat → Nat → State → Except (Nat × Nat) (List Slot × State)
  | _, 0, s => .ok ([], s)
  | a, n + 1, s =>
    match fetchWord q a s with
    | .error t => .error t
    | .ok (w, s1) => match fetchWords q (a + 4) n s1 with
      | .error t => .error t
      | .ok (ws, s2) => .ok (w :: ws, s2)

/-- Fetch a bundle's words: four, and four more where none of the first four stops (R53). -/
def fetchBundle (q a : Nat) (s : State) : Except (Nat × Nat) (List Slot × State) :=
  match fetchWords q a 4 s with
  | .error t => .error t
  | .ok (ws, s1) =>
    if ws.any stops then .ok (ws, s1)
    else match fetchWords q (a + 16) 4 s1 with
      | .error t => .error t
      | .ok (vs, s2) => .ok (ws ++ vs, s2)

/-- The value of a bundle-format fault (Table 3.15). -/
def formatVal (reason pos : Nat) : Word := BitVec.ofNat 64 (reason * 256 + pos)

/-- The filler word that is not 0x8000_0000, by position. -/
def badFiller : List Slot → Nat → Option Nat
  | [], _ => none
  | w :: l, n => if w = 0x80000000#32 then badFiller l (n + 1) else some n

/-- The slots of a bundle and its length, or the trap value of its format fault (R26, R28, R53). -/
def formOf (a : Nat) (ws : List Slot) : Except Word (List Slot × Nat) :=
  match ws.findIdx? stops with
  | none => .error (formatVal 2 8)
  | some k =>
    if k < 3 then .error (formatVal 1 k)
    else if 3 < k ∧ a % 4096 = 0xFF0 then .error (formatVal 5 0)
    else match badFiller (ws.drop (k + 1)) (k + 1) with
      | some n => .error (formatVal 4 n)
      | none => match overLimit (ws.take (k + 1)) [] 0 with
        | some n => .error (formatVal 3 n)
        | none => .ok (ws.take (k + 1), if k = 3 then 16 else 32)

/-- The slot as an instruction, if it is legal. -/
def slotInstr (w : Slot) : Option Instr :=
  match decode w with
  | none => none
  | some i => if wellFormed i then some i else none

/-- The value of a fault at a slot. -/
def atSlot (n : Nat) (w : Slot) : Word := BitVec.ofNat 64 (n * 2 ^ 32 + w.toNat)

/-- The lowest slot that is illegal, in the state its operands are read in. -/
def firstIllegal (s : State) : List Slot → Nat → Option Word
  | [], _ => none
  | w :: l, n =>
    match slotInstr w with
    | none => some (atSlot n w)
    | some i => if illegalNow i s then some (atSlot n w) else firstIllegal s l (n + 1)

/-- The lowest slot that the mode may not run. -/
def firstPrivileged (m : Mode) : List Slot → Nat → Option Word
  | [], _ => none
  | w :: l, n =>
    match slotInstr w with
    | some i => if privileged m i then some (atSlot n w) else firstPrivileged m l (n + 1)
    | none => firstPrivileged m l (n + 1)

/-- The instructions of a bundle's words. -/
def instrsOf (ws : List Slot) : List Instr := ws.filterMap slotInstr

/-- Whether a slot closes an iteration. -/
def closes : Instr → Bool
  | .lend | .lendr => true
  | _ => false

/-- The target that a slot of the bundle at `a` transfers to, where it is taken, and whether R72's limit is on it: a
loop's end is under R54 only. -/
def takenTarget (a : Word) (i : Instr) (s : State) : Option (Word × Bool) :=
  let if_ := fun (c : Bool) (t : Word) => if c then some (t, true) else none
  match i with
  | .br g i => if_ (guardTrue g s) (a + 4 * sext64 22 i.toNat)
  | .call g i => if_ (guardTrue g s) (a + 4 * sext64 22 i.toNat)
  | .brp g p o i =>
    if_ (guardTrue g s && (preg p s).getLsbD 0 == decide (o = 1)) (a + 4 * sext64 17 i.toNat)
  | .jr g r => if_ (guardTrue g s) (sreg r s)
  | .jalr g _ r => if_ (guardTrue g s) (sreg r s)
  | .ret g => if_ (guardTrue g s) (sreg 63 s)
  | .eret g => if_ (guardTrue g s && (me s).mode == .k) (me s).taddr
  | .loop g _ i => if guardTrue g s then some (a + BitVec.ofNat 64 (4 * i.toNat), false) else none
  | _ => none

/-- The fault of a taken transfer's own target (R54, R64, R72). -/
def transferFault (q : Nat) (a : Word) (i : Instr) (s : State) : Option (Nat × Word) :=
  match takenTarget a i s with
  | none => none
  | some (t, far) => if far then targetFault q t s else startFault q t s

/-- The bundle whose length a LOOP that skips its body, or a LBRK, needs (R74, R76). -/
def skips (a : Word) (i : Instr) (s : State) : Option Word :=
  match i with
  | .loop g r i => if guardTrue g s && sreg r s == 0 then some (a + BitVec.ofNat 64 (4 * i.toNat)) else none
  | .lbrk g => if guardTrue g s then (me s).loop.map (·.stop) else none
  | _ => none

/-- The fetch fault of a slot's target, or of the bundle it skips, which no other fault of the bundle precedes (R63, R64,
log entry 65). -/
def reachFault (q : Nat) (a : Word) (s : State) (w : Slot) : Option (Nat × Word) :=
  match slotInstr w with
  | none => none
  | some i => match transferFault q a i s with
    | some (0x0B, _) | none => match (skips a i s).map fun e => bundleLen q e.toNat s with
      | some (.error (c, v)) => some (c, BitVec.ofNat 64 v)
      | _ => none
    | r => r

/-- Whether the end `e` of a loop is out of place for a LOOP whose bundle ends at `next`: before that, or not inside the
current loop (R54, R74). -/
def Seq.endBad (e next : Word) (x : Seq) : Bool :=
  decide (e.toNat < next.toNat) || x.loop.any fun l => decide (l.stop.toNat ≤ e.toNat)

/-- The alignment fault of a slot of the bundle at `a`, whose end is `next` (R54, R63, R74, R76). -/
def alignFault (q : Nat) (a next : Word) (i : Instr) (s : State) : Option Word :=
  match transferFault q a i s with
  | some (0x0B, v) => some v
  | _ => match i with
    | .loop g _ d =>
      let e := a + BitVec.ofNat 64 (4 * d.toNat)
      if guardTrue g s && (me s).endBad e next then some e else none
    | .lbrk g => if guardTrue g s && (me s).loop.isNone then some 0 else none
    | _ => none

/-- The words of a bundle up to its stop. -/
def upToStop (ws : List Slot) : List Slot :=
  match ws.findIdx? stops with
  | some k => ws.take (k + 1)
  | none => ws

/-- The alignment faults of a bundle against the current loop (R54, R75). -/
def loopFault (x : Seq) (a len : Nat) (is : List Instr) : Option Word :=
  match x.loop with
  | none => if is.any closes then some 0 else none
  | some e =>
    let at_ := decide (e.stop.toNat = a)
    if decide (a < e.stop.toNat) && decide (e.stop.toNat < a + len) then some e.stop
    else if is.any closes != at_ then some e.stop
    else none

/-! ## What dispatch waits for (R94, R224, R226) -/

/-- The scalar registers that a slot reads or writes at dispatch. -/
def scalarsOf : Instr → List (BitVec 6)
  | .jr _ a | .loop _ a _ | .tsti _ _ a _ | .scmpi _ _ _ a _ _ | .xsv _ _ a _ | .xmp _ _ a => [a]
  | .call _ _ | .ret _ => [63]
  | .lidx _ d _ | .csrr _ _ d | .csrw _ _ d | .csrs _ _ d | .csrc _ _ d | .movw _ d _ | .movh _ d _
  | .pcnt _ d _ _ | .pfirst _ d _ _ | .psetw _ _ _ d | .xpm _ d _ | .vld _ _ d _ | .vst _ _ d _
  | .dsets _ _ d | .dsetv _ _ d | .drem _ _ d | .dlo _ _ d | .dhi _ _ d | .dsize _ _ d | .dckpt _ d | .drest _ d
  | .dmemb _ _ _ d | .fcfg _ _ d | .fins _ _ _ d | .fread _ _ _ d | .fcnt _ _ d | .frej _ _ d | .fstat _ _ d => [d]
  | .jalr _ d a | .clz _ d a | .ctz _ d a | .popc _ d a | .brev _ d a | .addi _ d a _ | .andi _ d a _
  | .ori _ d a _ | .xori _ d a _ | .shli _ d a _ | .shri _ d a _ | .srai _ d a _ | .roti _ d a _
  | .scmp _ _ d a _ | .xsvl _ _ d a | .xsp _ _ d a | .xvs _ d _ a | .xps _ d _ a | .lds _ d a _ _ _
  | .sts _ d a _ _ | .vlds _ _ d a | .vsts _ _ d a | .pref _ d a => [d, a]
  | .vgath _ _ a _ | .vscat _ _ a _ => [a]
  | .add _ d a b | .sub _ d a b | .and _ d a b | .or _ d a b | .xor _ d a b | .andn _ d a b | .shl _ d a b
  | .shr _ d a b | .sra _ d a b | .rot _ d a b | .min _ d a b | .max _ d a b | .minu _ d a b | .maxu _ d a b
  | .sel _ d a b | .mul _ d a b | .mulh _ d a b | .mulhu _ d a b | .div _ d a b | .divu _ d a b
  | .rem _ d a b | .remu _ d a b | .sh1add _ d a b | .sh2add _ d a b | .sh3add _ d a b | .rngh _ d a b =>
    [d, a, b]
  | _ => []

/-- The predicates that a slot of the scalar queue reads or writes, its guard apart. -/
def predsOf : Instr → List (BitVec 4)
  | .brp _ p _ _ | .tsti _ p _ _ | .scmp _ p _ _ _ | .scmpi _ _ p _ _ _ | .psetw _ p _ _ | .pcnt _ _ p _
  | .pfirst _ _ p _ | .xsp _ p _ _ | .dmemb _ _ p _ => [p]
  | .pnot _ d a => [d, a]
  | .pand _ d a b | .por _ d a b | .pxor _ d a b | .pandn _ d a b => [d, a, b]
  | _ => []

/-- The vector name that a slot reads at dispatch (R289). -/
def vectorsOf : Instr → List (BitVec 6)
  | .fins _ _ v _ => [v]
  | _ => []

/-- The scalar registers (class 0), predicates (class 1) and vector names (class 2) that a bundle's dispatch reads or
writes; the guard of a slot of another queue is read there. -/
def readsOf (ws : List Slot) : List (Nat × Nat) :=
  (ws.map fun w => match slotInstr w with
    | none => []
    | some i => (scalarsOf i).map (fun r => (0, r.toNat)) ++ (predsOf i).map (fun p => (1, p.toNat)) ++
        (vectorsOf i).map (fun v => (2, v.toNat)) ++
        if scalarQueue w then [(1, bits w.toNat 24 22)] else []).flatten

/-- The position, counted from its own, at which a slot's scalar or predicate result is due, where the access or the
execute queue gives it: the queue, the latency, the register (Table 12.3). -/
def lateResult (w : Slot) : List (Queue × Nat × Nat × Nat) :=
  match slotInstr w with
  | some (.lds _ d _ _ _ _) => [(.access, 1, 0, d.toNat)]
  | some (.xvs _ d _ _) | some (.xps _ d _ _) => [(.execute, 4, 0, d.toNat)]
  | some (.vfcmp _ _ p _ _ _ _) => [(.execute, 3, 1, p.toNat)]
  | some (.vicmp _ p _ _ _ _) => [(.execute, 2, 1, p.toNat)]
  | _ => []

/-- Whether a bundle holds something for a queue; a crossing that reads a wide register waits for the execute queue. -/
def forQueue (k : Queue) (ws : List Slot) : Bool :=
  ws.any fun w => queueOfSlot w == k || (lateResult w).any fun r => r.1 == k

/-- Whether a bundle writes one of some vector names, or moves the window: the rotating names stand for one another. -/
def writesVec (rs : List (Nat × Nat)) (b : Bun) : Bool :=
  rs.any fun r => r.1 == 2 && (instrsOf b.words).any fun i => (destsOf i).any fun d =>
    (d.1 == 2 && (d.2 == r.2 || (decide (40 ≤ d.2) && decide (40 ≤ r.2)))) || d == (6, 0x012)

/-- The greatest lag of a queue at which a bundle that reads registers `rs` may dispatch, behind the bundles `l`, newest
first, the first of them `n` positions back: a result that is due has arrived. -/
def lagFor (k : Queue) (rs : List (Nat × Nat)) : Nat → List Bun → Nat
  | _, [] => 16
  | n, b :: l =>
    if (b.words.any fun w => (lateResult w).any fun r => r.1 == k && decide (r.2.1 ≤ n) && rs.contains r.2.2) ||
        (k == .execute && writesVec rs b)
    then n - 1 else lagFor k rs (n + 1) l

/-- Whether the access slots of a bundle wait for the execute slots of an earlier one: for a predicate that it gives their
guards (R205), for a store whose bytes they load (R225). -/
def Bun.asks (b o : Bun) : Bool :=
  (b.words.any fun w => queueOfSlot w == .access && o.words.any fun v => (lateResult v).any fun r =>
    r.1 == .execute && r.2.2 == (1, bits w.toNat 24 22)) ||
  (forQueue .access b.words && forQueue .execute o.words && o.stores.any fun t => b.reads.any fun p =>
    t.minus p.1 p.2 != [t])

/-- How many bundles before it, of those in the queues, newest first, the execute queue has executed where the access
slots of a bundle have executed. -/
def Bun.needs (b : Bun) (l : List Bun) : Nat :=
  match l.findIdx? b.asks with
  | some i => i + 1
  | .none => 0

/-- The queues move on to where a bundle that reads registers `rs` at dispatch may dispatch: no lag equals SLACK (R224),
and what it reads has arrived (R94, R226). -/
def waitFor (q : Nat) (rs : List (Nat × Nat)) (s : State) : State :=
  let x := seqAt q s
  let m := x.slack.toNat - 1
  settleQueues q (min m (lagFor .access rs 1 x.flight.reverse)) (min m (lagFor .execute rs 1 x.flight.reverse)) s

/-- Whether a bundle's effects outside its sequencer all wait for its commit, so that it may lag: scalar, wide, domain
and front slots, loads and stores, and the control slots that change only the sequencer. Before any other bundle every
earlier one commits, and it commits at once (log entry 4). -/
def lagSlot (w : Slot) : Bool :=
  match classOf w with
  | .none | .s | .xin | .xout | .v | .d | .f => true
  | .a => decide (bits w.toNat 30 25 ≤ 0x16)
  | .c => match slotInstr w with
    | some (.nop) | some (.slack _ _) | some (.br _ _) | some (.call _ _) | some (.brp _ _ _ _) | some (.jr _ _)
    | some (.jalr _ _ _) | some (.ret _) | some (.loop _ _ _) | some (.lend) | some (.lendr) | some (.lbrk _)
    | some (.lidx _ _ _) | some (.csrr _ _ _) => true
    | some (.sync _ m) => !m.getLsbD 2
    | some (.csrw _ c _) | some (.csrs _ c _) | some (.csrc _ c _) => c != 0x040#12
    | _ => false
  | .m | .q => false

/-- The words that a slot of the bundle at `a` tests beside its own bundle: the one before its target, those of the bundle
it skips (R54, R74, R76). -/
def testWords (a : Word) (s : State) (i : Instr) : List Nat :=
  (match takenTarget a i s with
    | some (t, _) => if t.toNat % 16 = 0 ∧ t.toNat % 4096 ≠ 0 then [t.toNat - 4] else []
    | none => []) ++
  (match skips a i s with
    | some e => (List.range 4).map fun n => e.toNat + 4 * n
    | none => [])

/-- What the fetches of a dispatch leave, whatever becomes of the bundle: A bits, fetched copies, errors met (R159,
R178). -/
def fetched (q : Nat) (s : State) : State :=
  let s0 := landDue q (waitFor q [] { s with cur := q })
  let a := (seqAt q s).pc
  let four := fun (n : Nat) => (List.range 4).map fun i => a.toNat + 4 * (n + i)
  if a.toNat % 16 ≠ 0 then s
  else match fetchWords q a.toNat 4 s0 with
    | .error _ => fetchAll q (four 0) s
    | .ok (ws, _) =>
      let s1 := fetchAll q (if ws.any stops then four 0 else four 0 ++ four 4) s
      match fetchBundle q a.toNat s0 with
      | .error _ => s1
      | .ok (ws, s2) => (instrsOf (upToStop ws)).foldl (fun s i => fetchAll q (testWords a s2 i) s) s1

/-- Dispatch the bundle at the program counter of sequencer `q`: the writes due at its position arrive, its
words are fetched and checked in the order of R63, its slots are placed; or its fault. -/
def dispatch (q : Nat) (s : State) : Except (Nat × Word) State :=
  let s0 := landDue q (waitFor q [] { s with cur := q })
  let a := (seqAt q s).pc
  if a.toNat % 16 ≠ 0 then .error (0x0B, a)
  else match fetchBundle q a.toNat s0 with
    | .error (c, t) => .error (c, BitVec.ofNat 64 t)
    | .ok (ws, s1) => match (upToStop ws).findSome? (reachFault q a s1) with
      | some e => .error e
      | none => match formOf a.toNat ws with
        | .error v => .error (0x03, v)
        | .ok (ws, len) => match firstIllegal s1 ws 0 with
          | some v => .error (0x01, v)
          | none => match firstPrivileged (seqAt q s1).mode ws 0 with
            | some v => .error (0x04, v)
            | none => match conflict (instrsOf ws) (instrsOf ws) 0 with
              | some m => .error (0x02, BitVec.ofNat 64 m)
              | none => match loopFault (seqAt q s1) a.toNat len (instrsOf ws) with
                | some v => .error (0x0B, v)
                | none => match (instrsOf ws).findSome? fun i => alignFault q a (a + BitVec.ofNat 64 len) i s1 with
                  | some v => .error (0x0B, v)
                  | none =>
                    let t := modSeq q (fun x =>
                      { x with bun := { Bun.none with addr := a, len := len, words := ws } }) s1
                    .ok (if ws.all lagSlot then waitFor q (readsOf ws) t else drain q t)

/-- Whether a sequencer may dispatch: it runs, nothing holds it, no bundle of its is in execution, it does not stand at
a landing (R234), and no matrix fault waits to be delivered to it in U mode (R130). -/
def mayDispatch (q : Nat) (s : State) : Bool :=
  let x := seqAt q s
  x.run == .running && x.hold == .none && x.bun.words.isEmpty && x.pause == 0 && !x.sync && !x.tlb &&
    x.land != .now && (x.mode == .k || x.mfault.isEmpty)

/-- What becomes of the bundle at the program counter once its words have been fetched: it is in execution, or its trap is
taken. -/
def dispatched (q : Nat) (s : State) : State :=
  match dispatch q s with
  | .ok t => t
  | .error e =>
    let (c, v) := trapCause q e.1 e.2 s
    let s1 := drain q { s with cur := q }
    let pc := (seqAt q s).pc
    if matrixBusy q s then modSeq q (Seq.held (.trap c v pc)) s1 else trapEntry q c v pc s1

/-- BUNDLE_DISPATCH: a fault found here is taken at the bundle, which then has no effect (R63) beyond its fetches. -/
def dueBundleDispatch (q : Nat) (s : State) : Option State :=
  if mayDispatch q s then some (dispatched q (fetched q s)) else none

/-- BUNDLE_DISPATCH. -/
def execBundleDispatch (q : Nat) (s : State) :
    Host.Outcome State Fault Refusal :=
  happens (dueBundleDispatch q s) s

/-! ## The control effect of a bundle -/

/-- The loop stack and the program counter after a transfer (R70 to R77). -/
def applyCtl (c : Ctl) (x : Seq) : Seq :=
  let next := x.bun.addr + BitVec.ofNat 64 x.bun.len
  match c with
  | .jump t => { x with pc := t, loops := popOutside t x.callLev x.loops }
  | .call t => { x with pc := t, callLev := min 65535 (x.callLev + 1) }
  | .ret t => { x with pc := t, callLev := x.callLev - 1, loops := popDeeper (x.callLev - 1) x.loops }
  | .loopPush e => { x with pc := next, loops := e :: x.loops }
  | .loopSkip t => { x with pc := t }
  | .lbrk t => { x with pc := t, loops := x.loops.drop 1 }
  | .lend rot =>
    let r := if rot then x.rrb - 1 else x.rrb
    match x.loops with
    | [] => { x with pc := next }
    | e :: l =>
      if (e.idx + 1).toNat < e.count.toNat then
        { x with pc := e.start, rrb := r, loops := { e with idx := e.idx + 1 } :: l }
      else { x with pc := next, rrb := r, loops := l }
  | .slack n => { x with pc := next, slack := n }
  | .waitev m => { x with pc := next, evt := x.evt &&& ~~~m }
  | .sync m => { x with pc := next, sync := m.getLsbD 2 && x.mrow.busy && x.bun.mcall.isNone }
  | .csr idx op v =>
    let y := if csrAtDispatch idx then csrSet idx (csrNew op (csrVal idx x Core.init) v) x else x
    { y with pc := next }
  | .pause => { x with pc := next, pause := 64 }
  | .eret _ => trapReturn x
  | _ => { x with pc := next }

/-- Where the pending item lands after a bundle's commit: now, where the bundle is L; a loop's end is chosen again when
a loop pops (Table 12.6). `x` and `y` are the sequencer before and after the bundle's control effect. -/
def landMark (x y : Seq) : Landing :=
  match x.mode, y.land with
  | .k, l => l
  | .u, .next => .now
  | .u, .loop e =>
    if e = x.bun.addr then .now
    else if y.loops.length < x.loops.length then (match y.loop with
      | some l => .loop l.stop
      | none => .now)
    else .loop e
  | .u, l => l

end Sys2Proof.Machine
end

