-- ==== Sys2Proof/Machine/Context.lean ====
section
/-! DEFINITION. The context image: what a saved task leaves in its area, and what a restore takes from it
(R259, R260, R283 to R285, Tables 14.6 to 14.9 and 15.4). -/

namespace Sys2Proof.Machine

/-! ## The domain image (Tables 14.7 to 14.9) -/

/-- The low bits a mask of `n` values may have. -/
def lowMask (n : Nat) : Nat := 2 ^ n - 1

/-- The mask of a domain, where it is valid: bit i for LO + i. -/
def Dom.bitsOf (d : Dom) : Nat :=
  if 64 ≤ d.hi - d.lo then 0
  else match d.mask with
    | some m => m.toNat % 2 ^ ((d.hi - d.lo).toNat + 1)
    | none => lowMask ((d.hi - d.lo).toNat + 1)

/-- A domain from bounds and mask bits: tight bounds (R236); full where nothing is left (R260). -/
def Dom.tight (lo hi : Int) (m : Nat) : Option Dom :=
  if hi < lo then none
  else if 64 ≤ hi - lo then some ⟨lo, hi, none⟩
  else
    let m := m % 2 ^ ((hi - lo).toNat + 1)
    if m = 0 then none
    else
      let z := (List.range 64).takeWhile (fun i => !bit m i) |>.length
      some ⟨lo + z, lo + Nat.log2 m, some (BitVec.ofNat 64 (m >>> z))⟩

def domImage (d : Dom) : List Byte :=
  leBytes 4 (bitsOf 32 d.lo) ++ leBytes 4 (bitsOf 32 d.hi) ++ leBytes 8 d.bitsOf

/-- A domain image checked as R260 gives. -/
def domFrom (b : List Byte) : Dom :=
  let lo := signed 32 (leNat (b.take 4))
  let hi := signed 32 (leNat ((b.drop 4).take 4))
  ((Dom.tight lo hi (leNat ((b.drop 8).take 8))).getD Dom.full)

/-- Domains d0 to d31 as bytes, and back. -/
def domsImage (m : Map Dom) : List Byte :=
  ((List.range 32).map fun n => domImage (look Dom.full n m)).flatten

def domsFrom (b : List Byte) : Map Dom :=
  (List.range 32).filterMap fun n =>
    let d := domFrom ((b.drop (16 * n)).take 16)
    if d = Dom.full then none else some (n, d)

/-- A standing entry from its image: one whose slot would be illegal, or that has no S bit, names no domain (R260).
Nothing of it is kept, so that a later save writes a zero doubleword for it (log entry 85). -/
def standingFrom (b : List Byte) : BitVec 22 :=
  let r := leNat b % 2 ^ 22
  let w : Slot := BitVec.ofNat 32 (0x34 * 2 ^ 25 + r)
  if bit r 6 && (slotInstr w).isSome then BitVec.ofNat 22 r else 0

/-- The pieces of an image: offset and bytes. -/
def domainPieces (x : Seq) : List (Nat × List Byte) :=
  let d := x.dom
  [(0x0000, domsImage d.doms)] ++
    (d.standing.zipIdx.map fun p => (0x200 + 8 * p.2, leBytes 8 p.1.toNat)) ++
    [(0x400, leBytes 8 (dstat d).toNat), (0x408, leBytes 8 x.dbound.toNat)] ++
    (d.ckpts.reverse.zipIdx.map fun p =>
      (0x410 + 528 * p.2, domsImage p.1.doms ++ leBytes 8 p.1.scount ++ leBytes 8 p.1.resume.toNat))

/-! ## Liveness (R284) -/

/-- Search `n` entries from address `a` for the range that holds the PC. -/
def liveSearch (sag vdev pc : Nat) (s : State) : Nat → Nat → Option Live
  | 0, _ => none
  | n + 1, a =>
    match agentRead sag vdev a 32 s with
    | none => none
    | some b =>
      let w := fun i => leNat ((b.drop (8 * i)).take 8)
      if w 0 % 2 ^ 48 ≤ pc ∧ pc < w 1 % 2 ^ 48 then
        some ⟨w 2, w 0 / 2 ^ 48, bits (w 1) 55 48, w 3 % 2 ^ 56⟩
      else liveSearch sag vdev pc s n (a + 32)

/-- The live sets at a PC, or none where every register is written. -/
def liveAt (sag vdev : Nat) (lvbase : Word) (pc : Nat) (s : State) : Option Live :=
  if lvbase = 0 then none
  else match agentRead sag vdev lvbase.toNat 16 s with
    | none => none
    | some b => liveSearch sag vdev pc s (leNat (b.take 4)) (lvbase.toNat + 16)

/-! ## The image (Table 15.4) -/

/-- How a restore reads a record: the bytes at an offset, so many of them. -/
abbrev Reader := Nat → Nat → List Byte

/-- The record of a latch at an offset: its first 16 bytes, and the value. A part of a register stands at its place in
the register's width; which part it is the task keeps (`latchLanes`, log entry 85). -/
def latchPieces (o : Nat) (p : Pend) : List (Nat × List Byte) :=
  let h := fun kind dst n v => [(o, leBytes 16 (kind + dst * 256 + p.left * 2 ^ 24)), (o + 16, leBytes n v)]
  match p.dest with
  | .s n => h 0 n 8 p.val.toNat
  | .p n => h 1 n 32 p.val.toNat
  | .v e => h 2 e 256 p.val.toNat
  | .m n => h 3 n 8 p.val.toNat
  | .vlane e l => h 2 e 256 (p.val.toNat % 2 ^ 64 * 2 ^ (64 * l))
  | .pquarter n k => h 1 n 32 (p.val.toNat % 2 ^ 64 * 2 ^ (64 * k))

/-- The lanes of the latches that hold a part of a register (R92), by number. -/
def latchLanes (l : List Pend) : Map Nat :=
  l.zipIdx.filterMap fun p => match p.1.dest with
    | .vlane _ k | .pquarter _ k => some (p.2, k)
    | _ => none

/-- A latch from its record at an offset, with its lane where the save found one. -/
def latchFrom (rd : Reader) (o : Nat) (lane : Option Nat) : Pend :=
  let w := leNat (rd o 16)
  let dst := bits w 19 8
  let val := fun n => leNat (rd (o + 16) n)
  let d : Dest × Nat := match w % 256, lane with
    | 0, _ => (.s dst, val 8)
    | 1, none => (.p dst, val 32)
    | 1, some k => (.pquarter dst k, val 32 / 2 ^ (64 * k) % 2 ^ 64)
    | 2, none => (.v dst, val 256)
    | 2, some k => (.vlane dst k, val 256 / 2 ^ (64 * k) % 2 ^ 64)
    | _, _ => (.m dst, val 8)
  ⟨d.1, BitVec.ofNat 2048 d.2, bits w 27 24, false⟩

/-- The doubleword of a bound handle at the bits of Table 8.11: FEED, MODE and LEN as TSTAT shows them beside the
fields that Table 15.4 names, which leaves those bits open (log entry 85). -/
def Handle.word (h : Handle) : Nat :=
  2 ^ 63 + (if h.feed then 2 ^ 62 else 0) + (if h.ring then 2 ^ 61 else 0) + h.off * 2 ^ 48 +
    h.head * 2 ^ 32 + h.filled * 2 ^ 16 + h.len

/-- STATE (Table 15.4). -/
def stateWord (x : Seq) (lv : Bool) : Nat :=
  x.callLev * 2 ^ 48 + x.latches.length * 2 ^ 32 + x.loops.length * 2 ^ 24 + x.rrb.toNat * 2 ^ 16 +
    x.slack.toNat * 2 ^ 8 + (if lv then 4 else 0) + x.rmode.toNat

/-- A loop entry as memory holds it: S, E, C, I, V. -/
def LoopEnt.words (e : LoopEnt) : List Nat := [e.start.toNat, e.stop.toNat, e.count.toNat, e.idx.toNat, e.level]

/-- The six entries of the loop stack, outermost first, a doubleword each. -/
def loopWords (x : Seq) : List (Nat × List Byte) :=
  let l := (x.loops.reverse.map LoopEnt.words ++ List.replicate 6 (List.replicate 5 0)).take 6
  l.flatten.zipIdx.map fun p => (0x480 + 8 * p.2, leBytes 8 p.1)

/-- Every piece of a save of a sequencer, whose live sets are given; entries of the loop stack that are not active
are zeros (log entry 71). -/
def imagePieces (q : Nat) (pc : Word) (lv : Option Live) (s : State) : List (Nat × List Byte) :=
  let x := seqAt q s
  let c := coreAt (q / 2) s
  let live := fun (f : Live → Nat) i => match lv with
    | none => true
    | some l => bit (f l) i
  let w8 := fun (o : Nat) (v : Word) => (o, leBytes 8 v.toNat)
  [w8 0 pc, (0x240, leBytes 32 (2 ^ 256 - 1)), (8, leBytes 8 (stateWord x lv.isSome)), w8 0x10 (x.fflags.setWidth 64),
    w8 0x18 (x.vwb.setWidth 64), w8 0x20 x.ltick, w8 0x28 x.ttbase, w8 0x30 x.lvbase,
    w8 0x38 (x.evt.setWidth 64), w8 0x40 0] ++
  ((List.range 63).filter (fun i => live Live.s (i + 1))).map (fun i => w8 (0x48 + 8 * i) (x.rs (i + 1))) ++
  ((List.range 15).filter (fun i => live Live.p (i + 1))).map
    (fun i => (0x260 + 32 * i, leBytes 32 (x.rp (i + 1)).toNat)) ++
  ((List.range 8).filter (live Live.m)).map (fun i => w8 (0x440 + 8 * i) (x.rm i)) ++
  loopWords x ++
  [w8 0x570 x.mrow.word] ++ (List.range 8).map (fun i => w8 (0x578 + 8 * i) (nth 0 i x.frec)) ++ [w8 0x5B8 0] ++
  (List.range 8).map (fun h => (0x5C0 + 32 * h, match find h x.handles with
    | some hd => leBytes 8 hd.desc.toNat ++ leBytes 24 hd.word
    | none => leBytes 32 0)) ++
  (domainPieces x).map (fun p => (0x6C0 + p.1, p.2)) ++
  ((List.range 56).filter (live Live.v)).map
    (fun k => (0x2BD0 + 256 * k, leBytes 256 (look 0 ((x.vwb.toNat + k) % 4096) c.vfile).toNat)) ++
  (x.latches.zipIdx.map fun p => latchPieces (0x63D0 + 272 * p.2) p.1).flatten ++
  (x.handles.map fun h => (List.range h.2.len).map fun i => look 0 (h.2.base + i) c.vfile).flatten.zipIdx.map
    (fun p => (0xA7D0 + 256 * p.2, leBytes 256 p.1.toNat))

/-- The address of a context area (R317, R330). -/
def areaAt (sag ctx : Nat) (s : State) : Nat := kcbWord sag 40 s % 2 ^ 48 + ctx * 0x90000

/-- Write pieces of a record at a base address. -/
def writePieces (sag base : Nat) : List (Nat × List Byte) → State → State
  | [], s => s
  | (o, b) :: l, s => writePieces sag base l (agentWrite sag 0 (base + o) b s)

/-- Save the task of sequencer `q` in its context area; the task keeps the live sets applied (R282 to R284). -/
def saveContext (q : Nat) (pc : Word) (t : Task) (s : State) : State :=
  let x := seqAt q s
  let lv := liveAt t.sag x.vdev x.lvbase pc.toNat s
  modTask x.task (fun t => { t with live := lv }) (writePieces t.sag (areaAt t.sag t.ctx s) (imagePieces q pc lv s) s)

/-! ## Stream descriptors (Table 8.9) -/

/-- A handle bound to a descriptor of four words, or none where the descriptor's fields are not legal. -/
def handleFrom (va : Nat) (b : List Byte) : Option Handle :=
  let w0 := leNat (b.take 8)
  let w1 := leNat ((b.drop 8).take 8)
  if bits w0 15 12 ≠ 0 ∨ bits w0 31 25 ≠ 0 ∨ bits w0 35 34 ≠ 0 ∨ bits w0 63 48 ≠ 0 ∨ bits w1 63 32 ≠ 0 ∨
      leNat (b.drop 16) ≠ 0 ∨ bits w0 24 16 = 0 ∨ 256 < bits w0 24 16 ∨
      4096 < bits w0 11 0 + bits w0 24 16 then none
  else some
    { desc := BitVec.ofNat 64 va
      feed := bit w0 33
      ring := bit w0 32
      base := bits w0 11 0
      len := bits w0 24 16
      ch := bits w0 39 36
      tidx := bits w0 47 40
      count := bits w1 31 0
      head := 0
      filled := 0
      off := 0
      asked := 0
      serial := 0 }

/-! ## Restore (R285) -/

/-- The image of a task's context area; a piece that cannot be read is zeros. -/
def areaReader (t : Task) (s : State) : Reader := fun o n =>
  (agentRead t.sag 0 (areaAt t.sag t.ctx s + o) n s).getD (List.replicate n 0)

/-- The domain unit of an image. -/
def domainFrom (rd : Reader) : DomUnit :=
  let st := leNat (rd 0xAC0 8)
  let sc := min 64 (bits st 14 8)
  let cd := min 16 (bits st 4 0)
  ⟨domsFrom (rd 0x6C0 512),
   (List.range sc).map fun j => standingFrom (rd (0x8C0 + 8 * j) 8),
   ((List.range cd).map fun c =>
      let b := rd (0xAD0 + 528 * c) 528
      (⟨domsFrom (b.take 512), min 64 (leNat ((b.drop 0x200).take 8) % 128),
        BitVec.ofNat 64 (leNat (b.drop 0x208))⟩ : Ckpt)).reverse,
   BitVec.ofNat 32 (st / 2 ^ 32)⟩

/-- The handles of an image, from their descriptors. -/
def handlesFrom (rd : Reader) (sag vdev : Nat) (fed : Map Nat) (s : State) : Map Handle :=
  (List.range 8).filterMap fun h =>
    let b := rd (0x5C0 + 32 * h) 32
    let w := leNat ((b.drop 8).take 8)
    let va := leNat (b.take 8)
    if bit w 63 then
      match agentRead sag vdev va 32 s with
      | none => none
      | some d => (handleFrom va d).map fun hd =>
          (h, { hd with off := bits w 56 48, head := bits w 40 32, filled := bits w 24 16,
                        asked := look 0 h fed })
    else none

/-- Whether the save of a task wrote a register: those it did not write are restored as zero bits (R285). -/
def Task.wrote (t : Task) (f : Live → Nat) (i : Nat) : Bool :=
  match t.live with
  | none => true
  | some l => bit (f l) i

/-- The sequencer state that an image restores, for a task and its virtual device. -/
def seqFrom (rd : Reader) (t : Task) (tn vdev : Nat) (s : State) : Seq :=
  let w := fun o => leNat (rd o 8)
  let st := w 8
  let pc := BitVec.ofNat 64 (w 0)
  let lvbase := BitVec.ofNat 64 (w 0x30) &&& 0xFFFFFFFFFFF0#64
  let regs := fun (f : Live → Nat) (o n z lo : Nat) =>
    ((List.range n).filter (fun i => decide (lo ≤ i) && t.wrote f i)).map fun i =>
      (i, leNat (rd (o + z * i) z))
  let keep := fun (l : List (Nat × Nat)) => l.filter fun p => p.2 ≠ 0
  let mr := w 0x570
  { Seq.idle with
    run := .running
    task := tn
    seqid := BitVec.ofNat 13 t.sid
    clid := BitVec.ofNat 9 (t.sid / 16)
    sagid := BitVec.ofNat 4 t.sag
    vdev := vdev
    pc := pc
    s := (keep (regs Live.s 0x40 64 8 1)).map fun p => (p.1, BitVec.ofNat 64 p.2)
    p := (keep (regs Live.p 0x240 16 32 1)).map fun p => (p.1, BitVec.ofNat 256 p.2)
    m := (keep (regs Live.m 0x440 8 8 0)).map fun p => (p.1, BitVec.ofNat 64 p.2)
    loops := ((List.range (min 6 (bits st 26 24))).map fun i =>
      let b := fun j => w (0x480 + 8 * (5 * i + j))
      (⟨BitVec.ofNat 64 (b 0), BitVec.ofNat 64 (b 1), BitVec.ofNat 64 (b 2), BitVec.ofNat 64 (b 3), b 4⟩ :
        LoopEnt)).reverse
    callLev := bits st 63 48
    rrb := BitVec.ofNat 4 (bits st 19 16)
    vwb := BitVec.ofNat 12 (w 0x18) &&& 0xFC0#12
    rmode := BitVec.ofNat 2 st
    fflags := BitVec.ofNat 10 (w 0x10)
    slack := slackOf (BitVec.ofNat 64 (bits st 12 8))
    ltick := BitVec.ofNat 64 (w 0x20)
    lvbase := lvbase
    ttbase := BitVec.ofNat 64 (w 0x28) &&& 0xFFFFFFFFFFC0#64
    tvec := trapBase t.sag vdev s
    dbound := BitVec.ofNat 32 (w 0xAC8)
    evt := BitVec.ofNat 3 (w 0x38)
    dom := domainFrom rd
    handles := handlesFrom rd t.sag vdev t.fed s
    latches := (List.range (min 64 (bits st 39 32))).map fun i => latchFrom rd (0x63D0 + 272 * i) (find i t.lanes)
    mrow := ⟨bit mr 63, false, BitVec.ofNat 9 (bits mr 40 32), BitVec.ofNat 16 mr⟩
    frec := (List.range 8).map fun i => BitVec.ofNat 64 (w (0x578 + 8 * i))
    mfault := t.mfault
    hold := t.uhold }

/-- The vector-file entries that an image restores: the window, zero where not saved, and the rings. -/
def filesFrom (rd : Reader) (t : Task) (x : Seq) (f : Map VWord) : Map VWord :=
  let put_ := fun (f : Map VWord) (e o : Nat) => put 0 e (BitVec.ofNat 2048 (leNat (rd o 256))) f
  let f1 := (List.range 56).foldl (fun f k =>
    let e := (x.vwb.toNat + k) % 4096
    if t.wrote Live.v k then put_ f e (0x2BD0 + 256 * k) else del e f) f
  (x.handles.foldl (fun (a : Map VWord × Nat) h =>
    ((List.range h.2.len).foldl (fun f i => put_ f (h.2.base + i) (a.2 + 256 * i)) a.1,
      a.2 + 256 * h.2.len)) (f1, 0xA7D0)).1

end Sys2Proof.Machine
end

