-- ==== Sys2Proof/Machine/Control.lean ====
section
/-! DEFINITION. Majors 0x00 to 0x07: dispatch control, transfers, hardware loops, system instructions
(R70 to R81, R273 to R282), and the commit of a bundle. -/

namespace Sys2Proof.Machine

/-- The address after the bundle. -/
def Bun.next (b : Bun) : Word := b.addr + BitVec.ofNat 64 b.len

/-! ## Dispatch control (R79 to R81) -/

/-- NOP: no effect. -/
def execNop (s : State) : Host.Outcome State Fault Refusal := .next s

/-- SYNC (R80): from its commit on. -/
def execSync (g m : BitVec 3) (s : State) : Host.Outcome State Fault Refusal :=
  plain (.sync g m) g (setCtl (.sync m)) s

/-- SLACK (R81). -/
def execSlack (g : BitVec 3) (n : BitVec 6) (s : State) : Host.Outcome State Fault Refusal :=
  plain (.slack g n) g (setCtl (.slack (n.setWidth 5))) s

/-- PAUSE (R79). -/
def execPause (s : State) : Host.Outcome State Fault Refusal := .next (setCtl .pause s)

/-! ## Transfers (R70 to R72) -/

/-- A transfer to `t`: its fault, or its effect after the bundle. -/
def transfer (t : Word) (c : Ctl) (s : State) : Res :=
  match targetFault s.cur t s with
  | some (k, v) => .trap k v
  | none => .ok (setCtl c s)

/-- A transfer that leaves a link. -/
def withLink (d : BitVec 6) (v : Word) (r : Res) : Res :=
  match r with
  | .ok s => .ok (putS d v 1 s)
  | r => r

/-- A displacement target: A + 4·SignExt(disp, n). -/
def dispTarget (n d : Nat) (s : State) : Word := (me s).bun.addr + 4 * sext64 n d

/-- BR. -/
def execBr (g : BitVec 3) (i : BitVec 22) (s : State) : Host.Outcome State Fault Refusal :=
  slot (.br g i) g (fun s => transfer (dispTarget 22 i.toNat s) (.jump (dispTarget 22 i.toNat s)) s) s

/-- CALL: the link in s63. -/
def execCall (g : BitVec 3) (i : BitVec 22) (s : State) : Host.Outcome State Fault Refusal :=
  slot (.call g i) g (fun s => withLink 63 (me s).bun.next
    (transfer (dispTarget 22 i.toNat s) (.call (dispTarget 22 i.toNat s)) s)) s

/-- BRP (R71). -/
def execBrp (g : BitVec 3) (p : BitVec 4) (o : BitVec 1) (i : BitVec 17) (s : State) :
    Host.Outcome State Fault Refusal :=
  slot (.brp g p o i) g (fun s =>
    if (preg p s).getLsbD 0 = decide (o = 1) then
      transfer (dispTarget 17 i.toNat s) (.jump (dispTarget 17 i.toNat s)) s
    else .ok s) s

/-- JR. -/
def execJr (g : BitVec 3) (a : BitVec 6) (s : State) : Host.Outcome State Fault Refusal :=
  slot (.jr g a) g (fun s => transfer (sreg a s) (.jump (sreg a s)) s) s

/-- JALR: the target is s[a] as it stood before the bundle. -/
def execJalr (g : BitVec 3) (d a : BitVec 6) (s : State) : Host.Outcome State Fault Refusal :=
  slot (.jalr g d a) g (fun s => withLink d (me s).bun.next (transfer (sreg a s) (.call (sreg a s)) s)) s

/-- RET. -/
def execRet (g : BitVec 3) (s : State) : Host.Outcome State Fault Refusal :=
  slot (.ret g) g (fun s => transfer (sreg 63 s) (.ret (sreg 63 s)) s) s

/-! ## Loops (R74 to R78) -/

/-- The bundle after the one at `e`; where that one cannot be fetched, 0x08 at the bundle that names it (log entry
65). -/
def afterBundle (e : Word) (s : State) (f : Word → Res) : Res :=
  match bundleLen s.cur e.toNat s with
  | .error (c, v) => .trap c (BitVec.ofNat 64 v)
  | .ok n => f (e + BitVec.ofNat 64 n)

/-- What a LOOP to `e` comes to, its fetch fault apart (R63, R74). -/
def loopStep (e c : Word) (bad : Bool) (s : State) : Res :=
  let x := me s
  if 6 ≤ x.loops.length then .trap 0x01 (slotVal s)
  else if bad || x.endBad e x.bun.next then .trap 0x0B e
  else if c = 0 then afterBundle e s (fun t => .ok (setCtl (.loopSkip t) s))
  else .ok (setCtl (.loopPush ⟨x.bun.next, e, c, 0, x.callLev⟩) s)

/-- LOOP (R74). -/
def execLoop (g : BitVec 3) (a : BitVec 6) (i : BitVec 16) (s : State) :
    Host.Outcome State Fault Refusal :=
  slot (.loop g a i) g (fun s =>
    let e := (me s).bun.addr + BitVec.ofNat 64 (4 * i.toNat)
    match startFault s.cur e s with
    | none => loopStep e (sreg a s) false s
    | some (0x0B, _) => loopStep e (sreg a s) true s
    | some (k, v) => .trap k v) s

/-- The close of an iteration stands at E of the current loop (R75). -/
def closeLoop (rot : Bool) (s : State) : Res :=
  match (me s).loop with
  | none => .trap 0x0B 0
  | some e => if e.stop = (me s).bun.addr then .ok (setCtl (.lend rot) s) else .trap 0x0B e.stop

/-- LEND. -/
def execLend (s : State) : Host.Outcome State Fault Refusal := (closeLoop false s).take s

/-- LENDR: RRB falls by 1 on every close. -/
def execLendr (s : State) : Host.Outcome State Fault Refusal := (closeLoop true s).take s

/-- LBRK (R76). -/
def execLbrk (g : BitVec 3) (s : State) : Host.Outcome State Fault Refusal :=
  slot (.lbrk g) g (fun s =>
    match (me s).loop with
    | none => .trap 0x0B 0
    | some e => afterBundle e.stop s (fun t => .ok (setCtl (.lbrk t) s))) s

/-- LIDX (R78): counted over all entries whatever their call level. -/
def execLidx (g : BitVec 3) (d l : BitVec 6) (s : State) : Host.Outcome State Fault Refusal :=
  plain (.lidx g d l) g (fun s =>
    putS d (((me s).loops.map fun e => e.idx).getD l.toNat (BitVec.allOnes 64)) 1 s) s

/-! ## System instructions (R273 to R282) -/

/-- A system slot: legality, then privilege, whatever the guard; then the guard (R63, R65). -/
def sysSlot (i : Instr) (g : BitVec 3) (f : State → Res) (s : State) :
    Host.Outcome State Fault Refusal :=
  if !wellFormed i || illegalNow i s then .next (takeTrap 0x01 (slotVal s) s)
  else if privileged (me s).mode i then .next (takeTrap 0x04 (slotVal s) s)
  else if guardTrue g s then (f s).take s
  else .next s

/-- CSRR (R274), latency 1. -/
def execCsrr (g : BitVec 3) (c : BitVec 12) (d : BitVec 6) (s : State) :
    Host.Outcome State Fault Refusal :=
  sysSlot (.csrr g c d) g (fun s => let (v, s1) := csrRead c.toNat s
    .ok (putS d v 1 s1)) s

/-- A write of a control register: VWB and BANKROLE have checks of their own (R152, R272). -/
def csrStep (op : CsrOp) (c : BitVec 12) (r : BitVec 6) (s : State) : Res :=
  let new := csrNew op (csrVal c.toNat (me s) (myCore s)) (sreg r s)
  if c = 0x012#12 ∧ vwbOk s.cur new s = false then .trap 0x0C new
  else if c = 0x040#12 ∧ copiesRun (myK s) s = true then .park .busy
  else .ok (setCtl (.csr c.toNat op (sreg r s)) s)

/-- CSRW. -/
def execCsrw (g : BitVec 3) (c : BitVec 12) (r : BitVec 6) (s : State) :
    Host.Outcome State Fault Refusal := sysSlot (.csrw g c r) g (csrStep .w c r) s

/-- CSRS. -/
def execCsrs (g : BitVec 3) (c : BitVec 12) (r : BitVec 6) (s : State) :
    Host.Outcome State Fault Refusal := sysSlot (.csrs g c r) g (csrStep .s c r) s

/-- CSRC. -/
def execCsrc (g : BitVec 3) (c : BitVec 12) (r : BitVec 6) (s : State) :
    Host.Outcome State Fault Refusal := sysSlot (.csrc g c r) g (csrStep .c c r) s

/-- TRAP (R275): taken when the bundle has committed. -/
def execTrap (g : BitVec 3) (c : BitVec 12) (s : State) : Host.Outcome State Fault Refusal :=
  plain (.trap g c) g (setCtl (.trap c)) s

/-- BRKPT (R275): taken at its own bundle. -/
def execBrkpt (g : BitVec 3) (c : BitVec 12) (s : State) : Host.Outcome State Fault Refusal :=
  slot (.brkpt g c) g (fun _ => .trap 0x1C (c.setWidth 64)) s

/-- ERET (R276). -/
def execEret (g : BitVec 3) (s : State) : Host.Outcome State Fault Refusal :=
  sysSlot (.eret g) g (fun s => transfer (me s).taddr (.eret (me s).taddr) s) s

/-- WAITEV (R277): waits for a named event, which its commit clears. -/
def execWaitev (g : BitVec 3) (c : BitVec 12) (s : State) : Host.Outcome State Fault Refusal :=
  sysSlot (.waitev g c) g (fun s =>
    if (me s).evt &&& c.setWidth 3 = 0 then .park .retry else .ok (setCtl (.waitev (c.setWidth 3)) s)) s

/-- TLBINV (R278): its release, of kind E too, waits for the sequencer's matrix call. -/
def execTlbinv (g : BitVec 3) (c : BitVec 12) (r : BitVec 6) (s : State) :
    Host.Outcome State Fault Refusal :=
  sysSlot (.tlbinv g c r) g (fun s =>
    if (me s).mrow.busy then .park .busy else .ok (setCtl (.tlbinv c.toNat (sreg r s)) s)) s

/-- ICINV (R280). -/
def execIcinv (g : BitVec 3) (r : BitVec 6) (s : State) : Host.Outcome State Fault Refusal :=
  sysSlot (.icinv g r) g (fun s => .ok (setCtl (.icinv (r == 0) (sreg r s)) s)) s

/-- EXIT (R281): waits for the sequencer's matrix call. -/
def execExit (g : BitVec 3) (s : State) : Host.Outcome State Fault Refusal :=
  sysSlot (.exit g) g (fun s => if (me s).mrow.busy then .park .busy else .ok (setCtl .exit s)) s

/-- YIELD (R282): not from a handler that interrupted a handler. -/
def execYield (g : BitVec 3) (s : State) : Host.Outcome State Fault Refusal :=
  sysSlot (.yield g) g (fun s =>
    if (me s).mode = .k ∧ (me s).tpk then .trap 0x0C 0
    else if (me s).mrow.busy then .park .busy
    else .ok (setCtl .yield s)) s

/-! ## Effects at the commit -/

/-- The end of EXIT: a release at pa, then the task ends (R281). -/
def doExit (q : Nat) (s : State) : State :=
  let s1 := release (q / 2) 2 s
  let t := (seqAt q s1).task
  match find t s1.tasks with
  | some _ => endTask t true s1
  | none => freeSeq q s1

/-- The task of a sequencer is saved, with a release at sy, and the sequencer is free (R282, R339). -/
def saveTask (q : Nat) (s : State) : State :=
  let x := seqAt q s
  let pc := match x.mode with
    | .u => x.pc
    | .k => x.taddr
  let s1 := trapLand q s
  let y := seqAt q s1
  match find y.task s1.tasks with
  | none => freeSeq q s1
  | some t =>
    let fed := y.handles.map fun p => (p.1, p.2.asked - pendingFills (q / 2) p.2 s1)
    let s2 := saveContext q pc t (release (q / 2) 3 s1)
    modSeq q (fun x => { x with pirq := 0 }) (freeSeq q (modTask y.task (fun t =>
      { t with on := none, yielded := true, mfault := y.mfault, fed := fed, pirq := y.pirq
               uhold := y.keptBar, lanes := latchLanes y.latches }) s2))

/-- The markers of an invalidation: the last ID of every channel of a saggar with a copy not yet complete
(R160). -/
def markers (sag : Nat) (s : State) : List (Nat × Nat × BitVec 32) :=
  (s.cores.map fun k =>
    if (sagAt sag s).clusters.contains (k.1 / 8) then
      k.2.chans.filterMap fun h => if h.2.done = h.2.last then none else some (k.1, h.1, h.2.last)
    else []).flatten

/-- TLBINV after its commit: a release at pa, the markers, and the hold until acknowledgement. -/
def doTlbinv (q : Nat) (s : State) : State :=
  let sag := (seqAt q s).sagid.toNat
  let s1 := modSeq q (fun x => { x with tlb := true }) (release (q / 2) 2 s)
  modSag sag (fun g => { g with invals := g.invals ++ [⟨some q, markers sag s1⟩] }) s1

/-- ICINV after its commit: a release at cl, then the fetched copies of a page go, or all (R280); all too where the
page has no translation now. -/
def doIcinv (q : Nat) (all : Bool) (va : Word) (s : State) : State :=
  let s1 := release (q / 2) 1 s
  if all then modCore (q / 2) (fun c => { c with icache := [] }) s1
  else match place (viewOf q s1) s1 false false false false va.toNat with
    | .ok (.phys pa _, _) =>
      modCore (q / 2) (fun c => { c with icache := c.icache.filter fun p => p.1 / 1024 ≠ pa / 4096 }) s1
    | _ => modCore (q / 2) (fun c => { c with icache := [] }) s1

/-- What a committed bundle's system slot does after everything else; a trap, an exit or a yield waits for
a matrix call that the same bundle handed over. -/
def afterCommit (q : Nat) (c : Ctl) (s : State) : State :=
  let held := fun (h : Hold) (f : State → State) => if matrixBusy q s then modSeq q (Seq.held h) s else f s
  match c with
  | .trap code =>
    let pc := (seqAt q s).pc
    held (.trap 0x1D (code.setWidth 64) pc) (trapEntry q 0x1D (code.setWidth 64) pc)
  | .exit => held .exit (doExit q)
  | .yield => held .yield (saveTask q)
  | .tlbinv _ _ => doTlbinv q s
  | .icinv all va => doIcinv q all va s
  | _ => s

/-- The sequencer after the control effect of its bundle. -/
def Seq.controlled (x : Seq) : Seq :=
  let y := applyCtl x.bun.ctl x
  { y with bun := Bun.none, land := landMark x y }

/-- The commit of the bundle in execution on sequencer `q`, after every earlier one (R225). -/
def commit (q : Nat) (s : State) : State :=
  let c := (seqAt q s).bun.ctl
  afterCommit q c (modSeq q Seq.controlled (commitEffects q (drain q s)))

/-- Whether a bundle that has executed may still lag: its effects outside the sequencer can wait (`lagSlot`), and none
is of a kind that later bundles find there: a handle's change, a store in the total order of R186, a copy's start. -/
def Bun.mayLag (b : Bun) : Bool :=
  b.words.all lagSlot && b.hops.isEmpty && b.stores.all fun p => match p.place with
    | .phys _ .rc | .phys _ .uo | .sram _ _ => true
    | _ => false

/-- The lag of a queue with one bundle more; one that has nothing for the queue does not lag by itself (R223). -/
def lagWith (k : Queue) (n : Nat) (b : Bun) : Nat := if n = 0 ∧ forQueue k b.words = false then 0 else n + 1

/-- How far the queues lag once the bundle in execution is dispatched: as the schedule says, no further than they can,
not at all for a queue that its SYNC names (R80). -/
def lagsNow (q : Nat) (s : State) : Nat × Nat :=
  let x := seqAt q s
  let k := s.skews.headD (0, 0)
  let named := fun (i : Nat) => match x.bun.ctl with
    | .sync m => m.getLsbD i
    | _ => false
  (if named 0 then 0 else min k.1 (lagWith .access x.accLag x.bun),
    if named 1 then 0 else min k.2 (lagWith .execute x.exLag x.bun))

/-- The bundle in execution stays in the queues: its control effect, and the older bundles that both have executed. -/
def lagBehind (q a e : Nat) (s : State) : State :=
  settleQueues q a e (modSeq q (fun x =>
    { x.controlled with
      flight := x.flight ++ [{ x.bun with need := x.bun.needs x.flight.reverse }]
      accLag := x.accLag + 1
      exLag := x.exLag + 1 }) s)

/-- The slots of the bundle in execution have executed: it commits, or it stays in a queue that lags (R224, R225). A
sequencer that is to dispatch no further has no bundle left there. -/
def retire (q : Nat) (s : State) : State :=
  let (a, e) := lagsNow q s
  let s1 := { s with skews := s.skews.tail }
  if max a e = 0 ∨ !(seqAt q s).bun.mayLag then commit q s1
  else
    let s2 := lagBehind q a e s1
    if (seqAt q s2).land = .now then drain q s2 else s2

/-- BUNDLE_COMMIT: every slot of the bundle in execution has executed; else the oldest bundle in the queues. -/
def dueBundleCommit (q : Nat) (s : State) : Option State :=
  let x := seqAt q s
  if !x.bun.words.isEmpty then some (commit q { s with cur := q })
  else if x.flight.isEmpty then none
  else some (settleQueues q (x.flight.length - 1) (x.flight.length - 1) s)

/-- BUNDLE_COMMIT. -/
def execBundleCommit (q : Nat) (s : State) :
    Host.Outcome State Fault Refusal :=
  happens (dueBundleCommit q s) s

end Sys2Proof.Machine
end

