-- ==== Sys2Proof/Machine/Scalar.lean ====
section
/-! DEFINITION. Majors 0x08 to 0x0F: scalar arithmetic, immediates and compares (R82 to R89). -/

namespace Sys2Proof.Machine

/-- A scalar operation of two registers with a latency. -/
def alu (i : Instr) (g : BitVec 3) (d a b : BitVec 6) (lat : Nat) (f : Word → Word → Word) (s : State) :
    Host.Outcome State Fault Refusal :=
  plain i g (fun s => putS d (f (sreg a s) (sreg b s)) lat s) s

/-- The low six bits of a shift count. -/
def shamt (y : Word) : Nat := y.toNat % 64

/-! ## SALU (Table 4.2) -/

/-- ADD. -/
def execAdd (g : BitVec 3) (d a b : BitVec 6) (s : State) : Host.Outcome State Fault Refusal :=
  alu (.add g d a b) g d a b 1 (fun x y => x + y) s

/-- SUB. -/
def execSub (g : BitVec 3) (d a b : BitVec 6) (s : State) : Host.Outcome State Fault Refusal :=
  alu (.sub g d a b) g d a b 1 (fun x y => x - y) s

/-- AND. -/
def execAnd (g : BitVec 3) (d a b : BitVec 6) (s : State) : Host.Outcome State Fault Refusal :=
  alu (.and g d a b) g d a b 1 (fun x y => x &&& y) s

/-- OR. -/
def execOr (g : BitVec 3) (d a b : BitVec 6) (s : State) : Host.Outcome State Fault Refusal :=
  alu (.or g d a b) g d a b 1 (fun x y => x ||| y) s

/-- XOR. -/
def execXor (g : BitVec 3) (d a b : BitVec 6) (s : State) : Host.Outcome State Fault Refusal :=
  alu (.xor g d a b) g d a b 1 (fun x y => x ^^^ y) s

/-- ANDN. -/
def execAndn (g : BitVec 3) (d a b : BitVec 6) (s : State) : Host.Outcome State Fault Refusal :=
  alu (.andn g d a b) g d a b 1 (fun x y => x &&& ~~~y) s

/-- SHL. -/
def execShl (g : BitVec 3) (d a b : BitVec 6) (s : State) : Host.Outcome State Fault Refusal :=
  alu (.shl g d a b) g d a b 1 (fun x y => x <<< shamt y) s

/-- SHR. -/
def execShr (g : BitVec 3) (d a b : BitVec 6) (s : State) : Host.Outcome State Fault Refusal :=
  alu (.shr g d a b) g d a b 1 (fun x y => x >>> shamt y) s

/-- SRA. -/
def execSra (g : BitVec 3) (d a b : BitVec 6) (s : State) : Host.Outcome State Fault Refusal :=
  alu (.sra g d a b) g d a b 1 (fun x y => x.sshiftRight (shamt y)) s

/-- ROT. -/
def execRot (g : BitVec 3) (d a b : BitVec 6) (s : State) : Host.Outcome State Fault Refusal :=
  alu (.rot g d a b) g d a b 1 (fun x y => x.rotateLeft (shamt y)) s

/-- MIN. -/
def execMin (g : BitVec 3) (d a b : BitVec 6) (s : State) : Host.Outcome State Fault Refusal :=
  alu (.min g d a b) g d a b 1 (fun x y => if x.toInt ≤ y.toInt then x else y) s

/-- MAX. -/
def execMax (g : BitVec 3) (d a b : BitVec 6) (s : State) : Host.Outcome State Fault Refusal :=
  alu (.max g d a b) g d a b 1 (fun x y => if x.toInt ≤ y.toInt then y else x) s

/-- MINU. -/
def execMinu (g : BitVec 3) (d a b : BitVec 6) (s : State) : Host.Outcome State Fault Refusal :=
  alu (.minu g d a b) g d a b 1 (fun x y => if x.toNat ≤ y.toNat then x else y) s

/-- MAXU. -/
def execMaxu (g : BitVec 3) (d a b : BitVec 6) (s : State) : Host.Outcome State Fault Refusal :=
  alu (.maxu g d a b) g d a b 1 (fun x y => if x.toNat ≤ y.toNat then y else x) s

/-- SEL (R83): always executes; the guard selects. -/
def execSel (g : BitVec 3) (d a b : BitVec 6) (s : State) : Host.Outcome State Fault Refusal :=
  .next (putS d (if guardTrue g s then sreg a s else sreg b s) 1 s)

/-! ## SMUL (Table 4.3) -/

/-- Signed quotient toward zero with the edge cases of R85. -/
def sdiv (x y : Word) : Word :=
  if y = 0 then BitVec.allOnes 64 else BitVec.ofInt 64 (x.toInt.tdiv y.toInt)

/-- Signed remainder with the sign of x (R85). -/
def srem (x y : Word) : Word := if y = 0 then x else BitVec.ofInt 64 (x.toInt.tmod y.toInt)

def udiv (x y : Word) : Word :=
  if y = 0 then BitVec.allOnes 64 else BitVec.ofNat 64 (x.toNat / y.toNat)

def urem (x y : Word) : Word := if y = 0 then x else BitVec.ofNat 64 (x.toNat % y.toNat)

/-- The number of zero bits above bit `n - 1` of a value, among `n`. -/
def leadZeros (n x : Nat) : Nat := if x = 0 then n else n - 1 - Nat.log2 x

/-- The number of zero bits below the lowest set bit, among `n`. -/
def trailZeros (n x : Nat) : Nat := ((List.range n).takeWhile fun i => !bit x i).length

/-- The number of set bits among `n`. -/
def countOnes (n x : Nat) : Nat := ((List.range n).filter fun i => bit x i).length

/-- Bit i moved to bit 63 − i. -/
def reverseBits (x : Word) : Word :=
  BitVec.ofNat 64 ((List.range 64).foldl (fun v i => 2 * v + (if bit x.toNat i then 1 else 0)) 0)

/-- The hash of R86. -/
def rngHash (k c : Word) : Word :=
  let x := c + k * 0xD1B54A32D192ED03#64
  let x := (x ^^^ (x >>> 32)) * 0xAEF17502108EF2D9#64
  let x := (x ^^^ (x >>> 29)) * 0x9E6C63D0676A9A99#64
  x ^^^ (x >>> 32)

/-- MUL, latency 3. -/
def execMul (g : BitVec 3) (d a b : BitVec 6) (s : State) : Host.Outcome State Fault Refusal :=
  alu (.mul g d a b) g d a b 3 (fun x y => x * y) s

/-- MULH, latency 3. -/
def execMulh (g : BitVec 3) (d a b : BitVec 6) (s : State) : Host.Outcome State Fault Refusal :=
  alu (.mulh g d a b) g d a b 3 (fun x y => BitVec.ofInt 64 (x.toInt * y.toInt / 2 ^ 64)) s

/-- MULHU, latency 3. -/
def execMulhu (g : BitVec 3) (d a b : BitVec 6) (s : State) : Host.Outcome State Fault Refusal :=
  alu (.mulhu g d a b) g d a b 3 (fun x y => BitVec.ofNat 64 (x.toNat * y.toNat / 2 ^ 64)) s

/-- DIV, interlocked. -/
def execDiv (g : BitVec 3) (d a b : BitVec 6) (s : State) : Host.Outcome State Fault Refusal :=
  plain (.div g d a b) g (fun s => lockS d (sdiv (sreg a s) (sreg b s)) s) s

/-- DIVU, interlocked. -/
def execDivu (g : BitVec 3) (d a b : BitVec 6) (s : State) : Host.Outcome State Fault Refusal :=
  plain (.divu g d a b) g (fun s => lockS d (udiv (sreg a s) (sreg b s)) s) s

/-- REM, interlocked. -/
def execRem (g : BitVec 3) (d a b : BitVec 6) (s : State) : Host.Outcome State Fault Refusal :=
  plain (.rem g d a b) g (fun s => lockS d (srem (sreg a s) (sreg b s)) s) s

/-- REMU, interlocked. -/
def execRemu (g : BitVec 3) (d a b : BitVec 6) (s : State) : Host.Outcome State Fault Refusal :=
  plain (.remu g d a b) g (fun s => lockS d (urem (sreg a s) (sreg b s)) s) s

/-- CLZ. -/
def execClz (g : BitVec 3) (d a : BitVec 6) (s : State) : Host.Outcome State Fault Refusal :=
  plain (.clz g d a) g (fun s => putS d (BitVec.ofNat 64 (leadZeros 64 (sreg a s).toNat)) 1 s) s

/-- CTZ. -/
def execCtz (g : BitVec 3) (d a : BitVec 6) (s : State) : Host.Outcome State Fault Refusal :=
  plain (.ctz g d a) g (fun s => putS d (BitVec.ofNat 64 (trailZeros 64 (sreg a s).toNat)) 1 s) s

/-- POPC. -/
def execPopc (g : BitVec 3) (d a : BitVec 6) (s : State) : Host.Outcome State Fault Refusal :=
  plain (.popc g d a) g (fun s => putS d (BitVec.ofNat 64 (countOnes 64 (sreg a s).toNat)) 1 s) s

/-- BREV. -/
def execBrev (g : BitVec 3) (d a : BitVec 6) (s : State) : Host.Outcome State Fault Refusal :=
  plain (.brev g d a) g (fun s => putS d (reverseBits (sreg a s)) 1 s) s

/-- SH1ADD. -/
def execSh1add (g : BitVec 3) (d a b : BitVec 6) (s : State) : Host.Outcome State Fault Refusal :=
  alu (.sh1add g d a b) g d a b 1 (fun x y => (x <<< 1) + y) s

/-- SH2ADD. -/
def execSh2add (g : BitVec 3) (d a b : BitVec 6) (s : State) : Host.Outcome State Fault Refusal :=
  alu (.sh2add g d a b) g d a b 1 (fun x y => (x <<< 2) + y) s

/-- SH3ADD. -/
def execSh3add (g : BitVec 3) (d a b : BitVec 6) (s : State) : Host.Outcome State Fault Refusal :=
  alu (.sh3add g d a b) g d a b 1 (fun x y => (x <<< 3) + y) s

/-- RNGH, latency 4 (R86). -/
def execRngh (g : BitVec 3) (d a b : BitVec 6) (s : State) : Host.Outcome State Fault Refusal :=
  alu (.rngh g d a b) g d a b 4 rngHash s

/-! ## Immediates (R87, R88) -/

/-- ADDI. -/
def execAddi (g : BitVec 3) (d a : BitVec 6) (i : BitVec 10) (s : State) :
    Host.Outcome State Fault Refusal :=
  plain (.addi g d a i) g (fun s => putS d (sreg a s + i.signExtend 64) 1 s) s

/-- ANDI: the immediate zero-extended. -/
def execAndi (g : BitVec 3) (d a : BitVec 6) (i : BitVec 8) (s : State) :
    Host.Outcome State Fault Refusal :=
  plain (.andi g d a i) g (fun s => putS d (sreg a s &&& i.setWidth 64) 1 s) s

/-- ORI: the immediate zero-extended. -/
def execOri (g : BitVec 3) (d a : BitVec 6) (i : BitVec 8) (s : State) :
    Host.Outcome State Fault Refusal :=
  plain (.ori g d a i) g (fun s => putS d (sreg a s ||| i.setWidth 64) 1 s) s

/-- XORI: the immediate zero-extended. -/
def execXori (g : BitVec 3) (d a : BitVec 6) (i : BitVec 8) (s : State) :
    Host.Outcome State Fault Refusal :=
  plain (.xori g d a i) g (fun s => putS d (sreg a s ^^^ i.setWidth 64) 1 s) s

/-- Every bit of a predicate. -/
def allBits (b : Bool) : PWord := if b then BitVec.allOnes 256 else 0

/-- TSTI. -/
def execTsti (g : BitVec 3) (p : BitVec 4) (a : BitVec 6) (i : BitVec 8) (s : State) :
    Host.Outcome State Fault Refusal :=
  plain (.tsti g p a i) g (fun s => putP p (allBits (decide (sreg a s &&& i.setWidth 64 ≠ 0))) 1 s) s

/-- SHLI. -/
def execShli (g : BitVec 3) (d a k : BitVec 6) (s : State) : Host.Outcome State Fault Refusal :=
  plain (.shli g d a k) g (fun s => putS d (sreg a s <<< k.toNat) 1 s) s

/-- SHRI. -/
def execShri (g : BitVec 3) (d a k : BitVec 6) (s : State) : Host.Outcome State Fault Refusal :=
  plain (.shri g d a k) g (fun s => putS d (sreg a s >>> k.toNat) 1 s) s

/-- SRAI. -/
def execSrai (g : BitVec 3) (d a k : BitVec 6) (s : State) : Host.Outcome State Fault Refusal :=
  plain (.srai g d a k) g (fun s => putS d ((sreg a s).sshiftRight k.toNat) 1 s) s

/-- ROTI. -/
def execRoti (g : BitVec 3) (d a k : BitVec 6) (s : State) : Host.Outcome State Fault Refusal :=
  plain (.roti g d a k) g (fun s => putS d ((sreg a s).rotateLeft k.toNat) 1 s) s

/-- MOVW. -/
def execMovw (g : BitVec 3) (d : BitVec 6) (i : BitVec 16) (s : State) :
    Host.Outcome State Fault Refusal :=
  plain (.movw g d i) g (putS d (i.signExtend 64) 1) s

/-- MOVH: reads its own destination. -/
def execMovh (g : BitVec 3) (d : BitVec 6) (i : BitVec 16) (s : State) :
    Host.Outcome State Fault Refusal :=
  plain (.movh g d i) g (fun s => putS d ((i ++ (sreg d s).setWidth 16).signExtend 64) 1 s) s

/-! ## Compares (R89) -/

/-- The outcome of a condition code: EQ, NE, LT, LE, LTU, LEU. -/
def scalarCond (c : Nat) (x y : Word) : Bool :=
  match c with
  | 0 => x == y
  | 1 => x != y
  | 2 => decide (x.toInt < y.toInt)
  | 3 => decide (x.toInt ≤ y.toInt)
  | 4 => decide (x.toNat < y.toNat)
  | _ => decide (x.toNat ≤ y.toNat)

/-- SCMP. -/
def execScmp (g : BitVec 3) (p : BitVec 4) (a b : BitVec 6) (c : BitVec 4) (s : State) :
    Host.Outcome State Fault Refusal :=
  plain (.scmp g p a b c) g
    (fun s => putP p (allBits (scalarCond c.toNat (sreg a s) (sreg b s))) 1 s) s

/-- SCMPI: the immediate sign-extended, the condition's high bit apart (R58). -/
def execScmpi (g : BitVec 3) (c : BitVec 2) (p : BitVec 4) (a : BitVec 6) (h : BitVec 1) (i : BitVec 5)
    (s : State) : Host.Outcome State Fault Refusal :=
  plain (.scmpi g c p a h i) g (fun s =>
    putP p (allBits (scalarCond (h.toNat * 4 + c.toNat) (sreg a s) (i.signExtend 64))) 1 s) s

end Sys2Proof.Machine
end

