-- ==== Sys2Proof/Machine/Operands.lean ====
section
/-! DEFINITION. Vector operands: a window name or a stream handle (R52, R95, R175, R176); lanes and their
predicates (R9, R90). -/

namespace Sys2Proof.Machine

/-- The handle a vector field names, if it names one (R52). -/
def handleOf (v : BitVec 6) : Option Nat := if 56 ≤ v.toNat then some (v.toNat - 56) else none

/-- The code of a handle, as a trap value. -/
def handleCode (h : Nat) : Word := BitVec.ofNat 64 (56 + h)

/-- Whether the bundle in execution already consumes, or produces, an entry of a handle. -/
def hopDone (op : Hop) (s : State) : Bool := (me s).bun.hops.contains op

/-- Read a vector operand (R176): the entry of a window name; a handle's head entry, which stream mode
consumes once per bundle; a ring's entry at its offset. A slot looks at its operands in the order a, b, d, and the
first that faults or must wait decides (log entry 27). -/
def withVec (v : BitVec 6) (s : State) (f : VWord → State → Res) : Res :=
  match handleOf v with
  | none => f (vfileAt ((me s).ventry v.toNat) s) s
  | some h => match find h (me s).handles with
    | none => .trap 0x0C (handleCode h)
    | some d =>
      if d.ring then
        if d.filled ≤ d.off then .park .retry
        else f (vfileAt (d.base + (d.head + d.off) % d.len) s) s
      else if d.filled = 0 then .park .retry
      else f (vfileAt (d.base + d.head) s) (if hopDone (.consume h) s then s else addHop (.consume h) s)

/-- The file entry a vector destination writes (R176), looked at after the sources (log entry 27). -/
def withDest (v : BitVec 6) (s : State) (f : Nat → State → Res) : Res :=
  match handleOf v with
  | none => f ((me s).ventry v.toNat) s
  | some h => match find h (me s).handles with
    | none => .trap 0x0C (handleCode h)
    | some d =>
      if d.feed then .trap 0x0C (handleCode h)
      else if d.len ≤ d.filled then .park .busy
      else f (d.base + (d.head + d.filled) % d.len) (addHop (.produce h) s)

/-- An exposed vector result. -/
def putV (e : Nat) (v : VWord) (lat : Nat) (s : State) : State := issue (.v e) v lat false s

/-- An interlocked vector result. -/
def lockV (e : Nat) (v : VWord) (s : State) : State := issue (.v e) v 1 true s

/-- Lanes of width `w` bytes as one value, lane 0 lowest. -/
def packLanes (w : Nat) : List Nat → Nat
  | [] => 0
  | x :: l => x % 2 ^ (8 * w) + 2 ^ (8 * w) * packLanes w l

/-- A vector from its lanes. -/
def ofLanes (w : Nat) (l : List Nat) : VWord := BitVec.ofNat 2048 (packLanes w l)

/-- The lanes of a vector, `n` of them. -/
def lanes (w n : Nat) (v : VWord) : List Nat := (List.range n).map (laneOf v w)

/-- The predicate bit of lane `i`: bit i·w (R91). -/
def laneBit (p : PWord) (w i : Nat) : Bool := p.getLsbD (i * w)

/-- A predicate whose bits of each lane's bytes hold the lane's outcome. -/
def ofLaneBits (w : Nat) (l : List Bool) : PWord :=
  BitVec.ofNat 256 (l.foldr (fun b v => v * 2 ^ w + (if b then 2 ^ w - 1 else 0)) 0)

/-- The width in bytes of a width code. -/
def widthOf (w : BitVec 2) : Nat := 2 ^ w.toNat

end Sys2Proof.Machine
end

