-- ==== Sys2Proof/Machine/Predicate.lean ====
section
/-! DEFINITION. Major 0x10: predicate logic and counts (R90, R91). -/

namespace Sys2Proof.Machine

/-- A predicate operation of two predicates, latency 1. -/
def plogic (i : Instr) (g : BitVec 3) (d a b : BitVec 4) (f : PWord → PWord → PWord) (s : State) :
    Host.Outcome State Fault Refusal :=
  plain i g (fun s => putP d (f (preg a s) (preg b s)) 1 s) s

/-- PAND. -/
def execPand (g : BitVec 3) (d a b : BitVec 4) (s : State) : Host.Outcome State Fault Refusal :=
  plogic (.pand g d a b) g d a b (· &&& ·) s

/-- POR. -/
def execPor (g : BitVec 3) (d a b : BitVec 4) (s : State) : Host.Outcome State Fault Refusal :=
  plogic (.por g d a b) g d a b (· ||| ·) s

/-- PXOR. -/
def execPxor (g : BitVec 3) (d a b : BitVec 4) (s : State) : Host.Outcome State Fault Refusal :=
  plogic (.pxor g d a b) g d a b (· ^^^ ·) s

/-- PANDN. -/
def execPandn (g : BitVec 3) (d a b : BitVec 4) (s : State) : Host.Outcome State Fault Refusal :=
  plogic (.pandn g d a b) g d a b (fun x y => x &&& ~~~y) s

/-- PNOT. -/
def execPnot (g : BitVec 3) (d a : BitVec 4) (s : State) : Host.Outcome State Fault Refusal :=
  plain (.pnot g d a) g (fun s => putP d (~~~(preg a s)) 1 s) s

/-- The predicate of the first `n` lanes of `w` bytes: bits 0 to min(n, 256/w)·w − 1. -/
def firstLanes (w n : Nat) : PWord := BitVec.ofNat 256 (2 ^ (min n (256 / w) * w) - 1)

/-- PSETW. -/
def execPsetw (g : BitVec 3) (d : BitVec 4) (w : BitVec 2) (b : BitVec 6) (s : State) :
    Host.Outcome State Fault Refusal :=
  plain (.psetw g d w b) g (fun s => putP d (firstLanes (widthOf w) (sreg b s).toNat) 1 s) s

/-- The lanes of `w` bytes whose predicate bit is set, in ascending order. -/
def activeLanes (p : PWord) (w : Nat) : List Nat := (List.range (256 / w)).filter fun i => laneBit p w i

/-- PCNT. -/
def execPcnt (g : BitVec 3) (d : BitVec 6) (p : BitVec 4) (w : BitVec 2) (s : State) :
    Host.Outcome State Fault Refusal :=
  plain (.pcnt g d p w) g
    (fun s => putS d (BitVec.ofNat 64 (activeLanes (preg p s) (widthOf w)).length) 1 s) s

/-- PFIRST: the lane count when none is set. -/
def execPfirst (g : BitVec 3) (d : BitVec 6) (p : BitVec 4) (w : BitVec 2) (s : State) :
    Host.Outcome State Fault Refusal :=
  plain (.pfirst g d p w) g (fun s =>
    putS d (BitVec.ofNat 64 ((activeLanes (preg p s) (widthOf w)).headD (256 / widthOf w))) 1 s) s

end Sys2Proof.Machine
end

