-- ==== Sys2Proof/Machine/Crossing.lean ====
section
/-! DEFINITION. Major 0x11: crossings between the scalar and the wide registers (R92 to R95), latency 4. -/

namespace Sys2Proof.Machine

/-- XSV: every lane takes the scalar's low bits. -/
def execXsv (g : BitVec 3) (d a : BitVec 6) (w : BitVec 2) (s : State) :
    Host.Outcome State Fault Refusal :=
  slot (.xsv g d a w) g (fun s => withDest d s fun e s =>
    .ok (putV e (ofLanes (widthOf w) (List.replicate (256 / widthOf w) (sreg a s).toNat)) 4 s)) s

/-- The 64-bit lane a scalar names. -/
def laneArg (b : BitVec 6) (s : State) : Nat := (sreg b s).toNat % 32

/-- XSVL: one 64-bit lane; the others are not written. -/
def execXsvl (g : BitVec 3) (d a b : BitVec 6) (s : State) : Host.Outcome State Fault Refusal :=
  slot (.xsvl g d a b) g (fun s => withDest d s fun e s =>
    .ok (issue (.vlane e (laneArg b s)) ((sreg a s).setWidth 2048) 4 false s)) s

/-- XSP: one 64-bit quarter of a predicate; p0 discards it. -/
def execXsp (g : BitVec 3) (p : BitVec 4) (a b : BitVec 6) (s : State) :
    Host.Outcome State Fault Refusal :=
  plain (.xsp g p a b) g (fun s =>
    if p = 0 then s
    else issue (.pquarter p.toNat ((sreg b s).toNat % 4)) ((sreg a s).setWidth 2048) 4 false s) s

/-- XMP. -/
def execXmp (g : BitVec 3) (m : BitVec 3) (a : BitVec 6) (s : State) :
    Host.Outcome State Fault Refusal :=
  plain (.xmp g m a) g (fun s => issue (.m m.toNat) ((sreg a s).setWidth 2048) 4 false s) s

/-- XVS: one 64-bit lane of a vector. -/
def execXvs (g : BitVec 3) (d a b : BitVec 6) (s : State) : Host.Outcome State Fault Refusal :=
  slot (.xvs g d a b) g (fun s => withVec a s fun v s =>
    .ok (putS d (BitVec.ofNat 64 (laneOf v 8 (laneArg b s))) 4 s)) s

/-- XPS: one 64-bit quarter of a predicate. -/
def execXps (g : BitVec 3) (d : BitVec 6) (p : BitVec 4) (b : BitVec 6) (s : State) :
    Host.Outcome State Fault Refusal :=
  plain (.xps g d p b) g (fun s =>
    putS d ((preg p s >>> (64 * ((sreg b s).toNat % 4))).setWidth 64) 4 s) s

/-- XPM: a matrix parameter, read at dispatch. -/
def execXpm (g : BitVec 3) (d : BitVec 6) (m : BitVec 3) (s : State) :
    Host.Outcome State Fault Refusal :=
  plain (.xpm g d m) g (fun s => putS d ((me s).rm m.toNat) 4 s) s

end Sys2Proof.Machine
end

