-- ==== Sys2Proof/Machine/Access.lean ====
section
/-! DEFINITION. Majors 0x12 to 0x16: scalar and vector loads and stores (R162 to R164). A load reads before
the stores of its own bundle, which wait for the commit (R29, R69). -/

namespace Sys2Proof.Machine

/-- A scalar access's address: s[base] + SignExt(imm7, 7)·n. -/
def amAddr (b : BitVec 6) (i : BitVec 7) (n : Nat) (s : State) : Nat :=
  (sreg b s + sext64 7 i.toNat * BitVec.ofNat 64 n).toNat

/-- LDS (R162): zero- or sign-extended, interlocked. -/
def execLds (g : BitVec 3) (d b : BitVec 6) (z : BitVec 2) (x : BitVec 1) (i : BitVec 7) (s : State) :
    Host.Outcome State Fault Refusal :=
  slot (.lds g d b z x i) g (fun s =>
    orFault (load (amAddr b i (widthOf z) s) (widthOf z) s) fun (bs, s1) =>
      .ok (lockS d (if x = 1 then sext64 (8 * widthOf z) (leNat bs) else BitVec.ofNat 64 (leNat bs)) s1)) s

/-- STS (R162): at the commit; to an aperture's offset 0 with 4 or 8 bytes it starts a copy (R154, R165). -/
def execSts (g : BitVec 3) (d b : BitVec 6) (z : BitVec 2) (i : BitVec 7) (s : State) :
    Host.Outcome State Fault Refusal :=
  slot (.sts g d b z i) g (fun s =>
    orTrap 0x09 (store (amAddr b i (widthOf z) s) (leBytes (widthOf z) (sreg d s).toNat)
      (decide (2 ≤ z.toNat)) s) .ok) s

/-- A vector access's address: s[base] + SignExt(imm10, 10)·256. -/
def avAddr (b : BitVec 6) (i : BitVec 10) (s : State) : Nat :=
  (sreg b s + sext64 10 i.toNat * 256).toNat

/-- VLD (R163). -/
def execVld (g : BitVec 3) (d b : BitVec 6) (i : BitVec 10) (s : State) :
    Host.Outcome State Fault Refusal :=
  slot (.vld g d b i) g (fun s =>
    let a := avAddr b i s
    if a % 256 ≠ 0 then .trap 0x0B (BitVec.ofNat 64 a)
    else withDest d s fun e s => orFault (load a 256 s) fun (bs, s1) =>
      .ok (lockV e (BitVec.ofNat 2048 (leNat bs)) s1)) s

/-- VST (R163). -/
def execVst (g : BitVec 3) (d b : BitVec 6) (i : BitVec 10) (s : State) :
    Host.Outcome State Fault Refusal :=
  slot (.vst g d b i) g (fun s =>
    let a := avAddr b i s
    if a % 256 ≠ 0 then .trap 0x0B (BitVec.ofNat 64 a)
    else withVec d s fun v s => orTrap 0x09 (store a (leBytes 256 v.toNat) false s) .ok) s

/-! ## VMEM (Table 8.4) -/

/-- Load elements of `w` bytes in order; the lowest lane that is misaligned or fails gives the trap. -/
def loadLanes (w : Nat) : List Nat → State → Except (Nat × Nat) (List Nat × State)
  | [], s => .ok ([], s)
  | a :: l, s =>
    if a % w ≠ 0 then .error (0x0B, a)
    else match load a w s with
      | .error t => .error t
      | .ok (b, s1) => match loadLanes w l s1 with
        | .error t => .error t
        | .ok (bs, s2) => .ok (leNat b :: bs, s2)

/-- What the loads of the lanes before the first that traps have left. -/
def lanesRead (w : Nat) : List Nat → State → State
  | [], s => s
  | a :: l, s =>
    if a % w ≠ 0 then s
    else match load a w s with
      | .error _ => s
      | .ok (_, s1) => lanesRead w l s1

/-- Store elements in order, held for the commit. -/
def storeLanes (w : Nat) : List (Nat × Nat) → State → Except (Nat × Nat) State
  | [], s => .ok s
  | (a, v) :: l, s =>
    if a % w ≠ 0 then .error (0x0B, a)
    else match store a (leBytes w v) false s with
      | .error t => .error (0x09, t)
      | .ok s1 => storeLanes w l s1

/-- The lane width and the addresses of a strided access; none where bits [61:32] are not zero. -/
def strided (a b : BitVec 6) (s : State) : Option (Nat × List Nat) :=
  let y := (sreg b s).toNat
  if bits y 61 32 ≠ 0 then none
  else
    let w := 2 ^ bits y 63 62
    let t := sext64 32 (y % 2 ^ 32)
    some (w, (List.range (256 / w)).map fun i => (sreg a s + BitVec.ofNat 64 i * t).toNat)

/-- VLDS. -/
def execVlds (g : BitVec 3) (d a b : BitVec 6) (s : State) : Host.Outcome State Fault Refusal :=
  slot (.vlds g d a b) g (fun s =>
    match strided a b s with
    | none => .trap 0x0C (sreg b s)
    | some (w, l) => withDest d s fun e s => orFault (loadLanes w l s) fun (vs, s1) =>
      .ok (lockV e (ofLanes w vs) s1)) s

/-- VSTS. -/
def execVsts (g : BitVec 3) (d a b : BitVec 6) (s : State) : Host.Outcome State Fault Refusal :=
  slot (.vsts g d a b) g (fun s =>
    match strided a b s with
    | none => .trap 0x0C (sreg b s)
    | some (w, l) => withVec d s fun v s =>
      orFault (storeLanes w (l.zip (lanes w (256 / w) v)) s) .ok) s

/-- The addresses of a gather or scatter: the base plus each zero-extended 32-bit lane. -/
def indexed (a : BitVec 6) (v : VWord) (s : State) : List Nat :=
  (lanes 4 64 v).map fun o => (sreg a s + BitVec.ofNat 64 o).toNat

/-- VGATH. -/
def execVgath (g : BitVec 3) (d a b : BitVec 6) (s : State) : Host.Outcome State Fault Refusal :=
  slot (.vgath g d a b) g (fun s => withVec b s fun v s => withDest d s fun e s =>
    orFault (loadLanes 4 (indexed a v s) s) fun (vs, s1) => .ok (lockV e (ofLanes 4 vs) s1)) s

/-- VSCAT. -/
def execVscat (g : BitVec 3) (d a b : BitVec 6) (s : State) : Host.Outcome State Fault Refusal :=
  slot (.vscat g d a b) g (fun s => withVec b s fun v s => withVec d s fun x s =>
    orFault (storeLanes 4 ((indexed a v s).zip (lanes 4 64 x)) s) .ok) s

/-- PREF (R164): a hint that never faults and changes no architectural state. -/
def execPref (g : BitVec 3) (a b : BitVec 6) (s : State) : Host.Outcome State Fault Refusal :=
  plain (.pref g a b) g id s

end Sys2Proof.Machine
end

