-- ==== Sys2Proof/Machine/Stream.lean ====
section
/-! DEFINITION. Majors 0x17 to 0x1B: stream handles (R174 to R177), the transfer instructions (R172, R173)
and the atomics (R188 to R190). -/

namespace Sys2Proof.Machine

/-! ## Streams (Table 8.10) -/

/-- The bound handle a slot needs; an unbound one raises 0x0C. -/
def bound (h : BitVec 3) (s : State) (f : Handle → Res) : Res :=
  match find h.toNat (me s).handles with
  | none => .trap 0x0C (handleCode h.toNat)
  | some d => f d

/-- Whether a ring overlaps what the bundle in execution on sequencer `q` is to make: the ring of another HBIND, the
window of a write to VWB. -/
def ringComing (q h : Nat) (d : Handle) (s : State) : Bool :=
  let x := seqAt q s
  x.bun.hops.any (fun o => match o with
    | .bind k e => decide (k ≠ h) && overlaps d.base d.len e.base e.len
    | _ => false) ||
  (match x.bun.ctl with
   | .csr 0x012 op v => overlaps d.base d.len (csrNew op (x.vwb.setWidth 64) v).toNat 56
   | _ => false)

/-- Whether a ring may be bound as handle `h` of sequencer `q` (R175): no window of the core, no other bound ring, now or
after its bundle. -/
def ringFree (q h : Nat) (d : Handle) (s : State) : Bool :=
  !windowClash q d.base d.len s && !windowClash (sibling q) d.base d.len s &&
    !ringClash q (some h) d.base d.len s && !ringClash (sibling q) none d.base d.len s && !ringComing q h d s

/-- HBIND. -/
def execHbind (g h : BitVec 3) (a : BitVec 6) (s : State) : Host.Outcome State Fault Refusal :=
  slot (.hbind g h a) g (fun s =>
    if (sreg a s).toNat % 32 ≠ 0 then .trap 0x0B (sreg a s)
    else orFault (load (sreg a s).toNat 32 s) fun (b, s1) =>
      match handleFrom (sreg a s).toNat b with
      | none => .trap 0x0C (sreg a s)
      | some d => if ringFree s.cur h.toNat d s1 then .ok (addHop (.bind h.toNat d) s1) else .trap 0x0C (sreg a s))
    s

/-- HADV. -/
def execHadv (g h : BitVec 3) (a : BitVec 6) (s : State) : Host.Outcome State Fault Refusal :=
  slot (.hadv g h a) g (fun s => bound h s fun d =>
    let x := (sreg a s).toNat
    let n := bits x 24 16
    let off := bits x 8 0
    if x ≠ n * 65536 + off ∨ d.len < n ∨ d.len ≤ off ∨ (off ≠ 0 ∧ d.ring = false) then
      .trap 0x0C (sreg a s)
    else if d.filled < n then .park .retry
    else .ok (addHop (.adv h.toNat n off) s)) s

/-- HWAIT. -/
def execHwait (g h : BitVec 3) (a : BitVec 6) (s : State) : Host.Outcome State Fault Refusal :=
  slot (.hwait g h a) g (fun s => bound h s fun d =>
    if d.len < (sreg a s).toNat then .trap 0x0C (sreg a s)
    else if d.filled < (sreg a s).toNat then .park .retry
    else .ok s) s

/-- HPROD. -/
def execHprod (g h : BitVec 3) (a : BitVec 6) (s : State) : Host.Outcome State Fault Refusal :=
  slot (.hprod g h a) g (fun s => bound h s fun d =>
    if d.len < (sreg a s).toNat then .trap 0x0C (sreg a s)
    else if d.len - d.filled < (sreg a s).toNat then .park .retry
    else .ok s) s

/-- HSTAT (Table 8.11). -/
def execHstat (g : BitVec 3) (d : BitVec 6) (h : BitVec 3) (s : State) :
    Host.Outcome State Fault Refusal :=
  plain (.hstat g d h) g (fun s =>
    lockS d (match find h.toNat (me s).handles with
      | some x => BitVec.ofNat 64 x.word
      | none => 0) s) s

/-- HUNBIND: fills still in flight complete and are discarded. -/
def execHunbind (g h : BitVec 3) (s : State) : Host.Outcome State Fault Refusal :=
  plain (.hunbind g h) g (addHop (.unbind h.toNat)) s

/-! ## Transfers (Table 8.7) -/

/-- The channel a scalar names; above 15 it raises 0x0C. -/
def channel (a : BitVec 6) (s : State) (f : Nat → Chan → Res) : Res :=
  if 15 < (sreg a s).toNat then .trap 0x0C (sreg a s)
  else f (sreg a s).toNat (look Chan.init (sreg a s).toNat (myCore s).chans)

/-- Whether ID `x` is at or before ID `y`, mod 2^32. -/
def idReached (y x : BitVec 32) : Bool := decide ((y - x).toNat < 2 ^ 31)

/-- TWAIT: then an acquire at the scope of each copy completed up to the ID. -/
def execTwait (g : BitVec 3) (a b : BitVec 6) (s : State) : Host.Outcome State Fault Refusal :=
  slot (.twait g a b) g (fun s => channel a s fun _ c =>
    let id : BitVec 32 := (sreg b s).setWidth 32
    if !idReached c.done id then .park .retry
    else
      .ok ((c.scopes.filter fun p => idReached id p.1).foldl (fun s p => acquire (myK s) p.2 s) s)) s

/-- TSTAT. -/
def execTstat (g : BitVec 3) (d a : BitVec 6) (s : State) : Host.Outcome State Fault Refusal :=
  slot (.tstat g d a) g (fun s => channel a s fun _ c => .ok (lockS d (c.done.setWidth 64) s)) s

/-- SCOPE of a template (Table 8.5). -/
def tmplScope (t : BitVec 512) : Nat := bits (t.toNat / 2 ^ 448) 10 9

/-- The elements of a running copy delivered as a prefix: none of an add-on-write before its pass (R169, R172). -/
def CRun.given (r : CRun) : Nat := if bit (r.tmpl.toNat / 2 ^ 448) 13 && !r.passed then 0 else r.pos

/-- TWPTR. -/
def execTwptr (g : BitVec 3) (d a : BitVec 6) (s : State) : Host.Outcome State Fault Refusal :=
  slot (.twptr g d a) g (fun s => channel a s fun _ c =>
    let word := fun (j : BitVec 32) (q : Nat) => BitVec.ofNat 64 (j.toNat * 2 ^ 32 + q % 2 ^ 32)
    if c.done = c.last then .ok (lockS d (word c.done 0xFFFFFFFF) s)
    else match c.run with
      | none => .ok (lockS d (word (c.done + 1) 0) s)
      | some r => .ok (acquire (myK s) (tmplScope r.tmpl) (lockS d (word (c.done + 1) r.given) s))) s

/-- The stage-1 leaf of a page of a buffer object: its place and size, where it has V, W and SP. -/
def pairLeaf (va : Nat) (s : State) : Option (Nat × Nat) :=
  let v := viewOf s.cur s
  let at_ := fun ia => match stage2 v.tabs v.s2 true false false ia with
    | .error b => .error b
    | .ok (e, _, sz) => .ok (through e sz ia)
  if 2 ^ 48 ≤ va ∨ inWindows va ∨ (0x800000000000 ≤ va ∧ v.mode = .u) then none
  else match walk v.tabs at_ false va 4 v.s1 with
    | .error _ => none
    | .ok (e, ea, sz) => if bit e 2 && bit e 6 then some (ea, sz) else none

/-- The entries that a page's flip changes: all 16 of a 64 KiB page (R157). -/
def flipsOf (ea sz : Nat) : List (Nat × Nat) :=
  if sz = 16 then (List.range 16).map fun i => (ea - ea % 128 + 8 * i, sz) else [(ea, sz)]

/-- The flips of `n` pages from `va`, of size 2^sz where it is known; or the failing page. -/
def pairFlips (s : State) : Nat → Nat → Option Nat → Except Nat (List (Nat × Nat))
  | 0, _, _ => .ok []
  | n + 1, va, sz =>
    match pairLeaf va s with
    | none => .error va
    | some (ea, z) =>
      if sz ≠ none ∧ sz ≠ some z then .error va
      else match pairFlips s n (va + 2 ^ z) (some z) with
        | .error t => .error t
        | .ok l => .ok (flipsOf ea z ++ l)

/-- Whether a release has to wait for the operand reads of a matrix call (R184, kind E). -/
def mustWait (rel : Bool) (s : State) : Bool := rel && (me s).mrow.busy

/-- PUBLISH (R173). -/
def execPublish (g : BitVec 3) (a : BitVec 6) (s : State) : Host.Outcome State Fault Refusal :=
  slot (.publish g a) g (fun s =>
    let x := (sreg a s).toNat
    orTrap 0x09 (pairFlips s (bits x 63 48 + 1) (x % 2 ^ 48) none) fun l =>
      if mustWait true s then .park .busy
      else .ok (modBun (fun b => { b with publish := b.publish ++ l }) s)) s

/-! ## Atomics -/

/-- Whether an order releases, or acquires (Table 3.3). -/
def isRel (o : BitVec 2) : Bool := o.getLsbD 1
def isAcq (o : BitVec 2) : Bool := o.getLsbD 0

/-- Read `n` bytes at their home: the core's own line is written back and dropped first (R181, R188). -/
def homeRead (k : Nat) (p : Place) (n : Nat) (s : State) : Nat × State :=
  match p with
  | .sram c off =>
    let s1 := heal (some k) p n s
    (leNat (readCells (coreAt c s1).sram off n), s1)
  | .aper _ => (0, s)
  | .phys pa _ =>
    let s1 := toHome k pa n s
    (leNat (readCells s1.mem pa n), s1)

/-- Write `n` bytes at their home. -/
def homeWrite (p : Place) (n v : Nat) (s : State) : State :=
  match p with
  | .sram c off => modCore c (fun c => { c with sram := writeCells off (leBytes n v) c.sram }) s
  | .aper _ => s
  | .phys pa _ => setMem pa (leBytes n v) s

/-- The acting slot has written `n` bytes at their home, after the bundle's other accesses: a store of an earlier slot
leaves nothing in them (R29), and what they held is kept for the slots whose effects come at the commit (R188). -/
def takeOver (p : Place) (n : Nat) (old : List Byte) (s : State) : State :=
  modBun (fun b => { b with
    stores := (b.stores.map fun t => if t.pos < b.pos then t.minus p n else [t]).flatten
    undo := ⟨p, old, b.pos⟩ :: b.undo }) s

/-- The write of an atomic. -/
def atomicWrite (p : Place) (n old v : Nat) (s : State) : State :=
  takeOver p n (leBytes n old) (homeWrite p n v s)

/-- The steps of an atomic whose address is translated (R189): release, the home step, the old value,
acquire. `new` gives the value written, if any. -/
def atomicAt (o c : BitVec 2) (n : Nat) (d : Option (BitVec 6)) (new : Nat → Option Nat) (p : Place)
    (ms : List Nat) (s : State) : State :=
  let s1 := if isRel o then release (myK s) c.toNat s else s
  let (old, s2) := homeRead (myK s) p n (marked false ms s1)
  let s3 := match new old with
    | none => s2
    | some v => atomicWrite p n old v (marked true ms s2)
  let s4 := match d with
    | some d => lockS d (BitVec.ofNat 64 old) s3
    | none => s3
  if isAcq o then acquire (myK s) c.toNat s4 else s4

/-- An atomic (R189, R190): aligned, translated with R and W, on an IO page only as a single load or
store. -/
def atomic (o c : BitVec 2) (z : BitVec 1) (a : BitVec 6) (d : Option (BitVec 6)) (single : Bool)
    (new : Nat → Nat → Option Nat) (s : State) : Host.Outcome State Fault Refusal :=
  let n := 4 * (z.toNat + 1)
  let r : Res :=
    if (sreg a s).toNat % n ≠ 0 then .trap 0x0B (sreg a s)
    else orTrap 0x09 (place (viewOf s.cur s) s true true false false (sreg a s).toNat) fun (p, ms) =>
      if (match p with
          | .phys _ .io => !single
          | _ => false) then .trap 0x09 (sreg a s)
      else if homeStops s.cur p n s then .trap 0x18 (sreg a s)
      else if mustWait (isRel o) s then .park .busy
      else .ok (atomicAt o c n d (new n) p ms (walked (sreg a s).toNat n s))
  r.take s

/-- An atomic that writes a function of the old value and s[b], both of `n` bytes. -/
def atomicOp (o c : BitVec 2) (z : BitVec 1) (d a b : BitVec 6) (f : Nat → Nat → Nat → Nat) (s : State) :
    Host.Outcome State Fault Refusal :=
  atomic o c z a (some d) false
    (fun n old => some (f n old ((sreg b s).toNat % 2 ^ (8 * n)) % 2 ^ (8 * n))) s

/-- The smaller, or larger, of two values by a signed or unsigned comparison. -/
def pick (lt : Bool) (x y : Nat) : Nat := if lt then x else y

/-- ATADD. -/
def execAtadd (o c : BitVec 2) (z : BitVec 1) (d a b : BitVec 6) (s : State) :
    Host.Outcome State Fault Refusal :=
  atomicOp o c z d a b (fun _ old x => old + x) s

/-- ATAND. -/
def execAtand (o c : BitVec 2) (z : BitVec 1) (d a b : BitVec 6) (s : State) :
    Host.Outcome State Fault Refusal :=
  atomicOp o c z d a b (fun _ old x => Nat.land old x) s

/-- ATOR. -/
def execAtor (o c : BitVec 2) (z : BitVec 1) (d a b : BitVec 6) (s : State) :
    Host.Outcome State Fault Refusal :=
  atomicOp o c z d a b (fun _ old x => Nat.lor old x) s

/-- ATXOR. -/
def execAtxor (o c : BitVec 2) (z : BitVec 1) (d a b : BitVec 6) (s : State) :
    Host.Outcome State Fault Refusal :=
  atomicOp o c z d a b (fun _ old x => Nat.xor old x) s

/-- ATMIN. -/
def execAtmin (o c : BitVec 2) (z : BitVec 1) (d a b : BitVec 6) (s : State) :
    Host.Outcome State Fault Refusal :=
  atomicOp o c z d a b (fun n old x => pick (decide (signed (8 * n) old ≤ signed (8 * n) x)) old x) s

/-- ATMAX. -/
def execAtmax (o c : BitVec 2) (z : BitVec 1) (d a b : BitVec 6) (s : State) :
    Host.Outcome State Fault Refusal :=
  atomicOp o c z d a b (fun n old x => pick (decide (signed (8 * n) x ≤ signed (8 * n) old)) old x) s

/-- ATMINU. -/
def execAtminu (o c : BitVec 2) (z : BitVec 1) (d a b : BitVec 6) (s : State) :
    Host.Outcome State Fault Refusal :=
  atomicOp o c z d a b (fun _ old x => pick (decide (old ≤ x)) old x) s

/-- ATMAXU. -/
def execAtmaxu (o c : BitVec 2) (z : BitVec 1) (d a b : BitVec 6) (s : State) :
    Host.Outcome State Fault Refusal :=
  atomicOp o c z d a b (fun _ old x => pick (decide (x ≤ old)) old x) s

/-- ATSWP. -/
def execAtswp (o c : BitVec 2) (z : BitVec 1) (d a b : BitVec 6) (s : State) :
    Host.Outcome State Fault Refusal :=
  atomicOp o c z d a b (fun _ _ x => x) s

/-- ATCAS: writes s[b] where the old value equals s[d]. -/
def execAtcas (o c : BitVec 2) (z : BitVec 1) (d a b : BitVec 6) (s : State) :
    Host.Outcome State Fault Refusal :=
  atomic o c z a (some d) false (fun n old =>
    if old = (sreg d s).toNat % 2 ^ (8 * n) then some ((sreg b s).toNat % 2 ^ (8 * n)) else none) s

/-- ATLD: no write. -/
def execAtld (o c : BitVec 2) (z : BitVec 1) (d a : BitVec 6) (s : State) :
    Host.Outcome State Fault Refusal :=
  atomic o c z a (some d) true (fun _ _ => none) s

/-- ATST: no result. -/
def execAtst (o c : BitVec 2) (z : BitVec 1) (a b : BitVec 6) (s : State) :
    Host.Outcome State Fault Refusal :=
  atomic o c z a none true (fun n _ => some ((sreg b s).toNat % 2 ^ (8 * n))) s

end Sys2Proof.Machine
end

