-- ==== Sys2Proof/Machine/Sync.lean ====
section
/-! DEFINITION. Major 0x38: fences, barriers and futures (R96 to R98, R192 to R195). -/

namespace Sys2Proof.Machine

/-! ## FENCE (R192) -/

/-- Whether a copy that sequencer `q` started is not yet complete. -/
def copiesOf (q : Nat) (s : State) : Bool :=
  (coreAt (q / 2) s).chans.any fun h => h.2.queue.any (fun c => c.q == q) || (match h.2.run with
    | some r => r.copy.q == q
    | none => false)

/-- FENCE: kinds L, S, E, T at bits 3 to 0. An order that releases or waits needs the covered copies
complete (T) and the operand reads of a matrix call done (E). -/
def execFence (g : BitVec 3) (o c : BitVec 2) (k : BitVec 4) (s : State) :
    Host.Outcome State Fault Refusal :=
  slot (.fence g o c k) g (fun s =>
    let waits := isRel o || o == 0
    if waits && ((k.getLsbD 0 && copiesOf s.cur s) || (k.getLsbD 1 && (me s).mrow.busy)) then .park .busy
    else
      let s1 := if isRel o then release (myK s) c.toNat s else s
      .ok (if isAcq o then acquire (myK s1) c.toNat s1 else s1)) s

/-! ## BAR (R96, R97) -/

/-- Whether two tasks take part in one barrier of a scope (R96, R286). -/
def together (scope : Nat) (a b : Task) : Bool :=
  a.launch == b.launch && a.inst == b.inst && (match a.stage, b.stage with
    | none, none => match scope with
      | 0 => a.grp == b.grp && a.sid / 2 == b.sid / 2
      | 1 => a.grp == b.grp
      | _ => true
    | _, _ => false)

/-- A task's arrivals at a scope. Scopes pa and sy are one barrier with the same participants, and count
apart. -/
def Task.arrived (t : Task) (scope : Nat) : Nat := look 0 scope t.bars

/-- Whether every participant has arrived at barrier number `n` of the scope that task `tn` stands at. -/
def barDone (tn scope n : Nat) (s : State) : Bool :=
  match find tn s.tasks with
  | none => true
  | some t => s.tasks.all fun p => p.1 == tn || !together scope t p.2 || decide (n ≤ p.2.arrived scope)

/-- A sequencer whose barrier is complete continues, after its acquire (R97), with what its return had to hold
for. -/
def settleBar (q : Nat) (s : State) : State :=
  let x := seqAt q s
  match x.hold with
  | .bar o scope n =>
    if barDone x.task scope n s then
      let s1 := modSeq q (fun x => match x.mode with
        | .u => { x with hold := x.uhold, uhold := .none }
        | .k => { x with hold := .none }) s
      if bit o 0 then acquire (q / 2) scope s1 else s1
    else s
  | _ => s

/-- The same for every sequencer. -/
def settleBars (s : State) : State := (s.seqs.map fun p => p.1).foldl (fun s q => settleBar q s) s

/-- BAR: release, arrival, and the hold until the last participant arrives. -/
def execBar (g : BitVec 3) (o c : BitVec 2) (s : State) : Host.Outcome State Fault Refusal :=
  slot (.bar g o c) g (fun s =>
    if mustWait (isRel o) s then .park .retry
    else
      let s1 := if isRel o then release (myK s) c.toNat s else s
      let t := (me s1).task
      let n := (match find t s1.tasks with
        | some k => k.arrived c.toNat
        | none => 0) + 1
      let s2 := modTask t (fun k => { k with bars := put 0 c.toNat n k.bars }) s1
      .ok (settleBars (modMe (fun x => { x with hold := .bar o.toNat c.toNat n }) s2))) s

/-! ## Futures (R193 to R195) -/

/-- The home of a future's cell: aligned, translated with R and W, not on an IO page, in saggar memory. -/
def future (a : BitVec 6) (s : State) (f : Nat → List Nat → State → Res) : Res :=
  if (sreg a s).toNat % 16 ≠ 0 then .trap 0x0B (sreg a s)
  else orTrap 0x09 (place (viewOf s.cur s) s true true false false (sreg a s).toNat) fun (p, ms) =>
    match p with
    | .phys _ .io => .trap 0x09 (sreg a s)
    | .phys pa k => if homeStops s.cur (.phys pa k) 16 s then .trap 0x18 (sreg a s) else f pa ms (walked (sreg a s).toNat 16 s)
    | _ => .trap 0x09 (sreg a s)

/-- The word with WAITERS and STATE. -/
def cellState (pa : Nat) (s : State) : Nat := word8 s.mem (pa + 8)

/-- A cell that no future is in: STATE 3, or a reserved bit. -/
def cellBad (w : Nat) : Bool := decide (bits w 1 0 = 3) || decide (bits w 31 2 ≠ 0)

/-- The sequencer joins the waiters of a cell (R194): STATE 2 and a non-zero WAITERS. -/
def joinFuture (pa : Nat) (s : State) : State :=
  let (n, s1) := freeNext s
  let w := (Config.waitersTag n ||| 1#32).toNat * 2 ^ 32 + 2
  modMe (fun x => { x with wait := .future pa none }) (setMem (pa + 8) (leBytes 8 w) s1)

/-- Fill a cell: every waiter is woken with the value (R194). -/
def fillFuture (pa : Nat) (v : Word) (s : State) : State :=
  let s1 := setMem pa (leBytes 8 v.toNat ++ leBytes 8 1) s
  { s1 with seqs := s1.seqs.map fun p =>
      (p.1, if p.2.wait = .future pa none then { p.2 with wait := .future pa (some v) } else p.2) }

/-- The value of a future is delivered, then an acquire at pa (R194). -/
def gotFuture (d : BitVec 6) (v : Word) (s : State) : Res :=
  .ok (acquire (myK s) 2 (lockS d v (modMe (fun x => { x with wait := .none }) s)))

/-- FWAIT: the fill that woke the sequencer gives its value, whatever the mapping is by then; else the value of a
full cell; else the sequencer parks. -/
def execFwait (g : BitVec 3) (d a : BitVec 6) (s : State) : Host.Outcome State Fault Refusal :=
  slot (.fwait g d a) g (fun s =>
    match (me s).wait with
    | .future _ (some v) => gotFuture d v s
    | _ => future a s fun pa ms s =>
      let s1 := toHome (myK s) pa 16 s
      let w := cellState pa s1
      if cellBad w then .trap 0x0C (sreg a s)
      else if bits w 1 0 = 1 then gotFuture d (BitVec.ofNat 64 (word8 s1.mem pa)) (noted false ms [] s1)
      else .ok (setPark (.future pa) (joinFuture pa (noted true ms [] s1)))) s

/-- FFILL: a release at pa, then the fill; a full cell raises 0x0C. -/
def execFfill (g : BitVec 3) (a b : BitVec 6) (s : State) : Host.Outcome State Fault Refusal :=
  slot (.ffill g a b) g (fun s => future a s fun pa ms s =>
    if mustWait true s then .park .busy
    else
      let s1 := toHome (myK s) pa 16 (release (myK s) 2 s)
      let w := cellState pa s1
      if cellBad w || decide (bits w 1 0 = 1) then .trap 0x0C (sreg a s)
      else .ok (takeOver (.phys pa .so) 16 (readCells s1.mem pa 16) (fillFuture pa (sreg b s) (marked true ms s1)))) s

/-- FPOLL. -/
def execFpoll (g : BitVec 3) (d a : BitVec 6) (s : State) : Host.Outcome State Fault Refusal :=
  slot (.fpoll g d a) g (fun s => future a s fun pa ms s =>
    let s1 := noted false ms [] (toHome (myK s) pa 16 s)
    let w := cellState pa s1
    if cellBad w then .trap 0x0C (sreg a s)
    else if bits w 1 0 = 1 then .ok (acquire (myK s) 2 (lockS d 1 s1))
    else .ok (lockS d 0 s1)) s

end Sys2Proof.Machine
end

