-- ==== Sys2Proof/Machine/VectorFloat.lean ====
section
/-! DEFINITION. Majors 0x1C to 0x25 and VSCAN: the floating-point vector instructions (R204 to R212, R108,
R111, R112, R120 to R122). -/

namespace Sys2Proof.Machine

/-- The format of a VV code (R207). -/
def vfmt (f : BitVec 2) : Fmt :=
  match f.toNat with
  | 0 => fp32
  | 1 => bf16
  | _ => fp16

/-- The bytes of an element. -/
def Fmt.bytes (F : Fmt) : Nat := (1 + F.eb + F.mb) / 8

/-- The lanes of a vector as exact values; `fi` reads subnormals as zero. -/
def Fmt.lanesOf (F : Fmt) (fi : Bool) (v : VWord) : List Num :=
  (lanes F.bytes (256 / F.bytes) v).map (F.dec fi)

/-- The flags of all lanes. -/
def flagsOf {α : Type} (l : List (α × Flags)) : Flags := l.foldl (fun f x => f ||| x.2) 0

/-- Deliver lanes and their flags to a vector destination. -/
def putLanes (e w lat : Nat) (l : List (Nat × Flags)) (s : State) : State :=
  putV e (ofLanes w (l.map (·.1))) lat (raise (flagsOf l) s)

/-- The rounding mode in force (R105). -/
def rmodeOf (s : State) : Nat := (me s).rmode.toNat

/-- A lane-wise operation of two sources (R207, R208): `op` gives the pattern and flags of a lane. -/
def vbin (i : Instr) (g : BitVec 3) (d a b : BitVec 6) (f : BitVec 2) (fi : BitVec 1) (lat : Nat)
    (op : Fmt → Nat → Num → Num → Nat × Flags) (s : State) : Host.Outcome State Fault Refusal :=
  let F := vfmt f
  slot i g (fun s => withVec a s fun x s => withVec b s fun y s => withDest d s fun e s =>
    .ok (putLanes e F.bytes lat
      (List.zipWith (op F (rmodeOf s)) (F.lanesOf (fi == 1) x) (F.lanesOf (fi == 1) y)) s)) s

/-- Round an exact value with the flags that formed it. -/
def rounded (F : Fmt) (mode : Nat) (fo : BitVec 1) (x : Num × Flags) : Nat × Flags :=
  let r := F.round mode (fo == 1) false x.1
  (r.1, r.2 ||| x.2)

/-- VADD. -/
def execVadd (g : BitVec 3) (d a b : BitVec 6) (f : BitVec 2) (i o : BitVec 1) (s : State) :
    Host.Outcome State Fault Refusal :=
  vbin (.vadd g d a b f i o) g d a b f i 3 (fun F m x y => rounded F m o (x.add m y)) s

/-- VSUB. -/
def execVsub (g : BitVec 3) (d a b : BitVec 6) (f : BitVec 2) (i o : BitVec 1) (s : State) :
    Host.Outcome State Fault Refusal :=
  vbin (.vsub g d a b f i o) g d a b f i 3 (fun F m x y => rounded F m o (x.add m y.neg)) s

/-- VMUL. -/
def execVmul (g : BitVec 3) (d a b : BitVec 6) (f : BitVec 2) (i o : BitVec 1) (s : State) :
    Host.Outcome State Fault Refusal :=
  vbin (.vmul g d a b f i o) g d a b f i 5 (fun F m x y => rounded F m o (x.mul y)) s

/-- The exact z + p, with the flags of the product p (R207). -/
def addProduct (m : Nat) (z : Num) (p : Num × Flags) : Num × Flags :=
  let r := z.add m p.1
  (r.1, r.2 ||| p.2)

/-- A lane-wise operation that also reads its destination. -/
def vtri (i : Instr) (g : BitVec 3) (d a b : BitVec 6) (f : BitVec 2) (fi o : BitVec 1)
    (sign : Num × Flags → Num × Flags) (s : State) : Host.Outcome State Fault Refusal :=
  let F := vfmt f
  slot i g (fun s => withVec a s fun x s => withVec b s fun y s => withVec d s fun z s =>
    withDest d s fun e s =>
      let L := F.lanesOf (fi == 1)
      let m := rmodeOf s
      .ok (putLanes e F.bytes 5 (List.zipWith (fun z p => rounded F m o (addProduct m z p)) (L z)
        (List.zipWith (fun x y => sign (x.mul y)) (L x) (L y))) s)) s

/-- VFMA. -/
def execVfma (g : BitVec 3) (d a b : BitVec 6) (f : BitVec 2) (i o : BitVec 1) (s : State) :
    Host.Outcome State Fault Refusal := vtri (.vfma g d a b f i o) g d a b f i o id s

/-- VFNMA. -/
def execVfnma (g : BitVec 3) (d a b : BitVec 6) (f : BitVec 2) (i o : BitVec 1) (s : State) :
    Host.Outcome State Fault Refusal :=
  vtri (.vfnma g d a b f i o) g d a b f i o (fun p => (p.1.neg, p.2)) s

/-- The smaller of two numbers (R111): −0 below +0, a single NaN gives way. -/
def Num.minF (x y : Num) : Num :=
  if x.isNan then y
  else if y.isNan then x
  else if x.lt y then x
  else if y.lt x then y
  else if x.sign then x else y

/-- The larger of two numbers (R111). -/
def Num.maxF (x y : Num) : Num :=
  if x.isNan then y
  else if y.isNan then x
  else if x.lt y then y
  else if y.lt x then x
  else if x.sign then y else x

/-- The pattern of a value already in the format, subnormals flushed under fo, with no flag (R208). -/
def quietly (F : Fmt) (o : BitVec 1) (x : Num) : Nat × Flags := ((F.round 0 (o == 1) false x).1, 0)

/-- VMINF. -/
def execVminf (g : BitVec 3) (d a b : BitVec 6) (f : BitVec 2) (i o : BitVec 1) (s : State) :
    Host.Outcome State Fault Refusal :=
  vbin (.vminf g d a b f i o) g d a b f i 3 (fun F _ x y => quietly F o (x.minF y)) s

/-- VMAXF. -/
def execVmaxf (g : BitVec 3) (d a b : BitVec 6) (f : BitVec 2) (i o : BitVec 1) (s : State) :
    Host.Outcome State Fault Refusal :=
  vbin (.vmaxf g d a b f i o) g d a b f i 3 (fun F _ x y => quietly F o (x.maxF y)) s

/-- The outcome of a floating compare and its flags (R209). -/
def fcmpOf (c : BitVec 2) (x y : Num) : Bool × Flags :=
  let un := x.isNan || y.isNan
  match c.toNat with
  | 0 => (x.eqv y, 0)
  | 1 => (x.lt y, if un then fNV else 0)
  | 2 => (x.lt y || x.eqv y, if un then fNV else 0)
  | _ => (un, 0)

/-- VFCMP: the lanes' outcomes in the predicate bits of their bytes. -/
def execVfcmp (g : BitVec 3) (c : BitVec 2) (p : BitVec 4) (a b : BitVec 6) (f : BitVec 2)
    (i : BitVec 1) (s : State) : Host.Outcome State Fault Refusal :=
  let F := vfmt f
  slot (.vfcmp g c p a b f i) g (fun s => withVec a s fun x s => withVec b s fun y s =>
    let l := List.zipWith (fcmpOf c) (F.lanesOf (i == 1) x) (F.lanesOf (i == 1) y)
    .ok (putP p (ofLaneBits F.bytes (l.map (·.1))) 3 (raise (flagsOf l) s))) s

/-! ## Functions (R210, R112) -/

/-- A lane-wise function, latency 8. -/
def vfun (i : Instr) (g : BitVec 3) (d a : BitVec 6) (f : BitVec 2) (fi : BitVec 1)
    (op : Fmt → Nat → Num → Nat × Flags) (s : State) : Host.Outcome State Fault Refusal :=
  let F := vfmt f
  slot i g (fun s => withVec a s fun x s => withDest d s fun e s =>
    .ok (putLanes e F.bytes 8 ((F.lanesOf (fi == 1) x).map (op F (rmodeOf s))) s)) s

/-- x − floor(x), rounded and kept below 1 (R112). -/
def fracOf (F : Fmt) (m : Nat) (o : BitVec 1) (x : Num) : Nat × Flags :=
  let one := F.bias * 2 ^ F.mb
  match x with
  | .nan => rounded F m o (.nan, 0)
  | .inf _ => rounded F m o (.nan, fNV)
  | .fin _ _ _ =>
    let y := (x.add 0 x.floor.neg).1
    let r := F.round m (o == 1) false y
    if r.1 = one then (one - 1, r.2 ||| fNX) else r

/-- VRCP. -/
def execVrcp (g : BitVec 3) (d a : BitVec 6) (f : BitVec 2) (i o : BitVec 1) (s : State) :
    Host.Outcome State Fault Refusal :=
  vfun (.vrcp g d a f i o) g d a f i (fun F m x => rounded F m o x.rcp) s

/-- VRSQ. -/
def execVrsq (g : BitVec 3) (d a : BitVec 6) (f : BitVec 2) (i o : BitVec 1) (s : State) :
    Host.Outcome State Fault Refusal :=
  vfun (.vrsq g d a f i o) g d a f i (fun F m x => rounded F m o x.rsq) s

/-- VSQRT. -/
def execVsqrt (g : BitVec 3) (d a : BitVec 6) (f : BitVec 2) (i o : BitVec 1) (s : State) :
    Host.Outcome State Fault Refusal :=
  vfun (.vsqrt g d a f i o) g d a f i (fun F m x => rounded F m o x.sqrt) s

/-- VEXP2. -/
def execVexp2 (g : BitVec 3) (d a : BitVec 6) (f : BitVec 2) (i o : BitVec 1) (s : State) :
    Host.Outcome State Fault Refusal :=
  vfun (.vexp2 g d a f i o) g d a f i (fun F m x => rounded F m o x.exp2) s

/-- VLOG2. -/
def execVlog2 (g : BitVec 3) (d a : BitVec 6) (f : BitVec 2) (i o : BitVec 1) (s : State) :
    Host.Outcome State Fault Refusal :=
  vfun (.vlog2 g d a f i o) g d a f i (fun F m x => rounded F m o x.log2) s

/-- The magnitude. -/
def Num.abs : Num → Num
  | .nan => .nan
  | .inf _ => .inf false
  | .fin _ m e => .fin false m e

/-- VABSF. -/
def execVabsf (g : BitVec 3) (d a : BitVec 6) (f : BitVec 2) (i o : BitVec 1) (s : State) :
    Host.Outcome State Fault Refusal :=
  vfun (.vabsf g d a f i o) g d a f i (fun F _ x => quietly F 0 x.abs) s

/-- VNEGF. -/
def execVnegf (g : BitVec 3) (d a : BitVec 6) (f : BitVec 2) (i o : BitVec 1) (s : State) :
    Host.Outcome State Fault Refusal :=
  vfun (.vnegf g d a f i o) g d a f i (fun F _ x => quietly F 0 x.neg) s

/-- VFLOOR. -/
def execVfloor (g : BitVec 3) (d a : BitVec 6) (f : BitVec 2) (i o : BitVec 1) (s : State) :
    Host.Outcome State Fault Refusal :=
  vfun (.vfloor g d a f i o) g d a f i (fun F _ x => quietly F 0 x.floor) s

/-- VFRAC. -/
def execVfrac (g : BitVec 3) (d a : BitVec 6) (f : BitVec 2) (i o : BitVec 1) (s : State) :
    Host.Outcome State Fault Refusal :=
  vfun (.vfrac g d a f i o) g d a f i (fun F m x => fracOf F m o x) s

/-! ## Reductions (R120 to R122, R211, R212) -/

/-- A node of the tree: the running value and, for ADDC, its error term. -/
abbrev Node := Num × Num

/-- One rounding in the instruction's format, as a value. -/
def roundNum (F : Fmt) (m : Nat) (o : BitVec 1) (x : Num × Flags) : Num × Flags :=
  let r := rounded F m o x
  (F.dec false r.1, r.2)

/-- Combine two nodes (R120, R121). -/
def joinNodes (r : BitVec 2) (F : Fmt) (m : Nat) (o : BitVec 1) (x y : Node) : Node × Flags :=
  let zero := Num.fin false 0 0
  match r.toNat with
  | 0 => let (s, f) := roundNum F m o (x.1.add m y.1)
    ((s, zero), f)
  | 1 => ((F.dec false (quietly F o (x.1.maxF y.1)).1, zero), 0)
  | 2 => ((F.dec false (quietly F o (x.1.minF y.1)).1, zero), 0)
  | _ =>
    let t := x.1.add m y.1
    let (s, f) := roundNum F m o t
    if s.isFin then
      let e := (x.2.add m y.2).1.add m (t.1.add m s.neg).1
      let (e, h) := roundNum F m o e
      ((s, e), f ||| h)
    else ((s, zero), f)

/-- The identity of an operation (R120). -/
def identity (r : BitVec 2) : Num :=
  match r.toNat with
  | 1 => .inf true
  | 2 => .inf false
  | _ => .fin true 0 0

/-- One level of the tree. -/
def level (f : Node → Node → Node × Flags) : List Node → List Node × Flags
  | x :: y :: l =>
    let (n, g) := f x y
    let (ns, h) := level f l
    (n :: ns, g ||| h)
  | l => (l, 0)

/-- The root over 2^k leaves. -/
def treeOf (f : Node → Node → Node × Flags) : Nat → List Node → Node × Flags
  | 0, l => (l.headD (.nan, .nan), 0)
  | k + 1, l =>
    let (ns, g) := level f l
    let (n, h) := treeOf f k ns
    (n, g ||| h)

/-- The leaves: active lanes hold their values, the others the identity. -/
def leavesOf (r : BitVec 2) (w : Nat) (p : PWord) (l : List Num) : List Node :=
  l.zipIdx.map fun x =>
    (if x.2 = 0 ∨ laneBit p w x.2 then x.1 else identity r, Num.fin false 0 0)

/-- What a node delivers: its value, or Round(s + e) for ADDC (R121). -/
def deliver (r : BitVec 2) (F : Fmt) (m : Nat) (o : BitVec 1) (n : Node) : Nat × Flags :=
  if r = 3#2 then
    if n.1.isFin then rounded F m o (n.1.add m n.2) else rounded F m 0#1 (n.1, 0)
  else quietly F 0 n.1

/-- VRED: the root in every lane. -/
def execVred (g : BitVec 3) (d a : BitVec 6) (r f : BitVec 2) (i o : BitVec 1) (s : State) :
    Host.Outcome State Fault Refusal :=
  let F := vfmt f
  slot (.vred g d a r f i o) g (fun s => withVec a s fun x s => withDest d s fun e s =>
    let m := rmodeOf s
    let n := 256 / F.bytes
    let l := leavesOf r F.bytes ((me s).rp g.toNat) (F.lanesOf (i == 1) x)
    let (root, fl) := treeOf (joinNodes r F m o) (Nat.log2 n) l
    let (v, fd) := deliver r F m o root
    .ok (putV e (ofLanes F.bytes (List.replicate n v)) 6 (raise (fl ||| fd) s))) s

/-- The combination of the first `n` leaves (R122): the aligned nodes of the bits of `n` from bit `k`
down, combined left to right onto `acc`. -/
def scanFrom (f : Node → Node → Node × Flags) (n : Nat) : Nat → Option Node → List Node → Node × Flags
  | 0, acc, _ => (acc.getD (.nan, .nan), 0)
  | k + 1, acc, l =>
    if bit n k then
      let (x, g) := treeOf f k (l.take (2 ^ k))
      let (y, h) := match acc with
        | none => (x, 0)
        | some z => f z x
      let (r, t) := scanFrom f n k (some y) (l.drop (2 ^ k))
      (r, g ||| h ||| t)
    else scanFrom f n k acc l

/-- VSCAN. -/
def execVscan (g : BitVec 3) (d a : BitVec 6) (r f : BitVec 2) (s : State) :
    Host.Outcome State Fault Refusal :=
  let F := vfmt f
  slot (.vscan g d a r f) g (fun s => withVec a s fun x s => withDest d s fun e s =>
    let m := rmodeOf s
    let n := 256 / F.bytes
    let l := leavesOf r F.bytes ((me s).rp g.toNat) (F.lanesOf false x)
    let lane := fun j =>
      let (t, fl) := scanFrom (joinNodes r F m 0) (j + 1) 8 none l
      let (v, fd) := deliver r F m 0 t
      (v, fl ||| fd)
    .ok (putLanes e F.bytes 4 ((List.range n).map lane) s)) s

end Sys2Proof.Machine
end

