-- ==== Sys2Proof/Machine/VectorInt.lean ====
section
/-! DEFINITION. Majors 0x26 to 0x2D: integer vectors, permutes, conversion, microscaling and ternary
(R213 to R222). -/

namespace Sys2Proof.Machine

/-- A lane-wise integer operation: `op` takes the lane's bits and two unsigned lanes (R213). -/
def vint (i : Instr) (g : BitVec 3) (d a b : BitVec 6) (w : BitVec 2) (op : Nat → Nat → Nat → Nat)
    (s : State) : Host.Outcome State Fault Refusal :=
  let n := widthOf w
  slot i g (fun s => withVec a s fun x s => withVec b s fun y s => withDest d s fun e s =>
    .ok (putV e (ofLanes n (List.zipWith (op (8 * n)) (lanes n (256 / n) x) (lanes n (256 / n) y))) 2 s)) s

/-- VIADD. -/
def execViadd (g : BitVec 3) (d a b : BitVec 6) (w : BitVec 2) (s : State) :
    Host.Outcome State Fault Refusal :=
  vint (.viadd g d a b w) g d a b w (fun _ x y => x + y) s

/-- VISUB. -/
def execVisub (g : BitVec 3) (d a b : BitVec 6) (w : BitVec 2) (s : State) :
    Host.Outcome State Fault Refusal :=
  vint (.visub g d a b w) g d a b w (fun n x y => x + 2 ^ n - y) s

/-- VIMUL. -/
def execVimul (g : BitVec 3) (d a b : BitVec 6) (w : BitVec 2) (s : State) :
    Host.Outcome State Fault Refusal :=
  vint (.vimul g d a b w) g d a b w (fun _ x y => x * y) s

/-- VIMULH. -/
def execVimulh (g : BitVec 3) (d a b : BitVec 6) (w : BitVec 2) (s : State) :
    Host.Outcome State Fault Refusal :=
  vint (.vimulh g d a b w) g d a b w (fun n x y => bitsOf n (signed n x * signed n y / 2 ^ n)) s

/-- VAND. -/
def execVand (g : BitVec 3) (d a b : BitVec 6) (w : BitVec 2) (s : State) :
    Host.Outcome State Fault Refusal :=
  vint (.vand g d a b w) g d a b w (fun _ x y => Nat.land x y) s

/-- VOR. -/
def execVor (g : BitVec 3) (d a b : BitVec 6) (w : BitVec 2) (s : State) :
    Host.Outcome State Fault Refusal :=
  vint (.vor g d a b w) g d a b w (fun _ x y => Nat.lor x y) s

/-- VXOR. -/
def execVxor (g : BitVec 3) (d a b : BitVec 6) (w : BitVec 2) (s : State) :
    Host.Outcome State Fault Refusal :=
  vint (.vxor g d a b w) g d a b w (fun _ x y => Nat.xor x y) s

/-- VANDN. -/
def execVandn (g : BitVec 3) (d a b : BitVec 6) (w : BitVec 2) (s : State) :
    Host.Outcome State Fault Refusal :=
  vint (.vandn g d a b w) g d a b w (fun n x y => Nat.land x (2 ^ n - 1 - y)) s

/-- VSHL. -/
def execVshl (g : BitVec 3) (d a b : BitVec 6) (w : BitVec 2) (s : State) :
    Host.Outcome State Fault Refusal :=
  vint (.vshl g d a b w) g d a b w (fun n x y => x * 2 ^ (y % n)) s

/-- VSHR. -/
def execVshr (g : BitVec 3) (d a b : BitVec 6) (w : BitVec 2) (s : State) :
    Host.Outcome State Fault Refusal :=
  vint (.vshr g d a b w) g d a b w (fun n x y => x / 2 ^ (y % n)) s

/-- VSRA. -/
def execVsra (g : BitVec 3) (d a b : BitVec 6) (w : BitVec 2) (s : State) :
    Host.Outcome State Fault Refusal :=
  vint (.vsra g d a b w) g d a b w (fun n x y => bitsOf n (signed n x / 2 ^ (y % n))) s

/-- VROT. -/
def execVrot (g : BitVec 3) (d a b : BitVec 6) (w : BitVec 2) (s : State) :
    Host.Outcome State Fault Refusal :=
  vint (.vrot g d a b w) g d a b w (fun n x y => x * 2 ^ (y % n) + x / 2 ^ (n - y % n)) s

/-- VIMIN. -/
def execVimin (g : BitVec 3) (d a b : BitVec 6) (w : BitVec 2) (s : State) :
    Host.Outcome State Fault Refusal :=
  vint (.vimin g d a b w) g d a b w (fun n x y => if signed n x ≤ signed n y then x else y) s

/-- VIMAX. -/
def execVimax (g : BitVec 3) (d a b : BitVec 6) (w : BitVec 2) (s : State) :
    Host.Outcome State Fault Refusal :=
  vint (.vimax g d a b w) g d a b w (fun n x y => if signed n x ≤ signed n y then y else x) s

/-- VIMINU. -/
def execViminu (g : BitVec 3) (d a b : BitVec 6) (w : BitVec 2) (s : State) :
    Host.Outcome State Fault Refusal :=
  vint (.viminu g d a b w) g d a b w (fun _ x y => min x y) s

/-- VIMAXU. -/
def execVimaxu (g : BitVec 3) (d a b : BitVec 6) (w : BitVec 2) (s : State) :
    Host.Outcome State Fault Refusal :=
  vint (.vimaxu g d a b w) g d a b w (fun _ x y => max x y) s

/-- The outcome of an integer compare (R214). -/
def icmpOf (c : BitVec 2) (n x y : Nat) : Bool :=
  match c.toNat with
  | 0 => decide (x = y)
  | 1 => decide (signed n x < signed n y)
  | 2 => decide (x < y)
  | _ => decide (x ≠ y)

/-- VICMP. -/
def execVicmp (g : BitVec 3) (p : BitVec 4) (a b : BitVec 6) (w c : BitVec 2) (s : State) :
    Host.Outcome State Fault Refusal :=
  let n := widthOf w
  slot (.vicmp g p a b w c) g (fun s => withVec a s fun x s => withVec b s fun y s =>
    .ok (putP p (ofLaneBits n (List.zipWith (icmpOf c (8 * n)) (lanes n (256 / n) x)
      (lanes n (256 / n) y))) 2 s)) s

/-! ## Permutes and selection (R215) -/

/-- VPERM: the source value is the one from before the bundle. -/
def execVperm (g : BitVec 3) (d a b : BitVec 6) (w : BitVec 2) (s : State) :
    Host.Outcome State Fault Refusal :=
  let n := widthOf w
  slot (.vperm g d a b w) g (fun s => withVec a s fun x s => withVec b s fun y s => withDest d s fun e s =>
    .ok (putV e (ofLanes n ((lanes n (256 / n) y).map fun j => laneOf x n (j % (256 / n)))) 3 s)) s

/-- VSHUF: the pair of v[a] below the old v[d]. -/
def execVshuf (g : BitVec 3) (d a b : BitVec 6) (w : BitVec 2) (s : State) :
    Host.Outcome State Fault Refusal :=
  let n := widthOf w
  let m := 256 / n
  slot (.vshuf g d a b w) g (fun s => withVec a s fun x s => withVec b s fun y s => withVec d s fun z s =>
    withDest d s fun e s =>
      .ok (putV e (ofLanes n ((lanes n m y).map fun j =>
        if j % (2 * m) < m then laneOf x n (j % (2 * m)) else laneOf z n (j % (2 * m) - m))) 3 s)) s

/-- VSEL: always executes; the guard predicate chooses each lane (R32). -/
def execVsel (g : BitVec 3) (d a b : BitVec 6) (w : BitVec 2) (s : State) :
    Host.Outcome State Fault Refusal :=
  let n := widthOf w
  always (.vsel g d a b w) (fun s => withVec a s fun x s => withVec b s fun y s => withDest d s fun e s =>
    .ok (putV e (ofLanes n ((List.range (256 / n)).map fun i =>
      if laneBit ((me s).rp g.toNat) n i then laneOf x n i else laneOf y n i)) 3 s)) s

/-- VIOTA. -/
def execViota (g : BitVec 3) (d : BitVec 6) (w : BitVec 2) (s : State) :
    Host.Outcome State Fault Refusal :=
  let n := widthOf w
  slot (.viota g d w) g (fun s => withDest d s fun e s =>
    .ok (putV e (ofLanes n (List.range (256 / n))) 3 s)) s

/-! ## Conversion (R216, R217) -/

/-- Element `i` of `b` bits (R103). -/
def elemOf (v : VWord) (b i : Nat) : Nat := (v >>> (b * i)).toNat % 2 ^ b

/-- Elements of `b` bits as a vector, the rest zero. -/
def packBits (b : Nat) : List Nat → Nat
  | [] => 0
  | x :: l => x % 2 ^ b + 2 ^ b * packBits b l

/-- One element from one format to another (R109, R110, R217). Under fo an E5M2 result saturates. -/
def convert (sc dc mode : Nat) (fi fo : Bool) (x : Nat) : Nat × Flags :=
  let (v, f) := readElem sc fi x
  let (r, h) := writeElem dc mode fo (fo && dc == 4) v
  (r, f ||| h)

/-- VCVT. -/
def execVcvt (g : BitVec 3) (d a : BitVec 6) (c r : BitVec 4) (i o : BitVec 1) (s : State) :
    Host.Outcome State Fault Refusal :=
  let sb := fmtBits c.toNat
  let db := fmtBits r.toNat
  slot (.vcvt g d a c r i o) g (fun s => withVec a s fun x s => withDest d s fun e s =>
    let l := (List.range (2048 / max sb db)).map fun k =>
      convert c.toNat r.toNat (rmodeOf s) (i == 1) (o == 1) (elemOf x sb k)
    .ok (putV e (BitVec.ofNat 2048 (packBits db (l.map (·.1)))) 3 (raise (flagsOf l) s))) s

/-! ## Microscaling, ternary and lane widths (R218 to R222) -/

/-- Block `k` of an FP32 source. -/
def mxBlock (v : VWord) (k : Nat) : List Num :=
  (List.range 32).map fun i => fp32.dec false (laneOf v 4 (32 * k + i))

/-- VMXSC. -/
def execVmxsc (g : BitVec 3) (d a e : BitVec 6) (s : State) : Host.Outcome State Fault Refusal :=
  slot (.vmxsc g d a e) g (fun s => withVec a s fun x s => withDest d s fun t s =>
    let b0 := mxScale e.toNat (mxBlock x 0)
    let b1 := mxScale e.toNat (mxBlock x 1)
    .ok (putV t (ofLanes 1 [b0.1, b1.1]) 4 (raise (b0.2.1 ||| b1.2.1) s))) s

/-- A quantised block: its scale, its elements with their flags, the flags of the scale. -/
def mxQuant (c : Nat) (xs : List Num) : Nat × List (Nat × Flags) × Flags :=
  let (sc, f, x) := mxScale c xs
  (sc, xs.map (mxElem c x), f)

/-- The bits of an element in the layout of Table 11.5. -/
def mxBits (c : Nat) : Nat := if c = 6 then 4 else 8

/-- VMXQ. -/
def execVmxq (g : BitVec 3) (d a e : BitVec 6) (s : State) : Host.Outcome State Fault Refusal :=
  slot (.vmxq g d a e) g (fun s => withVec a s fun x s => withDest d s fun t s =>
    let (s0, l0, f0) := mxQuant e.toNat (mxBlock x 0)
    let (s1, l1, f1) := mxQuant e.toNat (mxBlock x 1)
    let v := packBits (mxBits e.toNat) ((l0 ++ l1).map (·.1)) + s0 * 2 ^ 1024 + s1 * 2 ^ 1032
    .ok (putV t (BitVec.ofNat 2048 v) 4 (raise (flagsOf (l0 ++ l1) ||| f0 ||| f1) s))) s

/-- VMXDQ. -/
def execVmxdq (g : BitVec 3) (d a e : BitVec 6) (s : State) : Host.Outcome State Fault Refusal :=
  slot (.vmxdq g d a e) g (fun s => withVec a s fun x s => withDest d s fun t s =>
    let l := (List.range 64).map fun i =>
      fp32.round (rmodeOf s) false false
        (mxValue e.toNat (laneOf x 1 (128 + i / 32)) (elemOf x (mxBits e.toNat) i))
    .ok (putLanes t 4 4 l s)) s

/-- A signed value limited to `n` bits, with SATC where it was (R220, R221). -/
def limit (n : Nat) (v : Int) : Nat × Flags :=
  let hi : Int := 2 ^ (n - 1) - 1
  let lo : Int := -2 ^ (n - 1)
  if v < lo then (bitsOf n lo, fSATC) else if hi < v then (bitsOf n hi, fSATC) else (bitsOf n v, 0)

/-- The integer of a TERN2 code, and TRSV for the reserved one (R102). -/
def ternOf (x : Nat) : Int × Flags :=
  match x % 4 with
  | 0 => (0, 0)
  | 1 => (1, 0)
  | 3 => (-1, 0)
  | _ => (0, fTRSV)

/-- VTERN: four ternary products a lane, added to the old lane. -/
def execVtern (g : BitVec 3) (d a b : BitVec 6) (s : State) : Host.Outcome State Fault Refusal :=
  slot (.vtern g d a b) g (fun s => withVec a s fun x s => withVec b s fun y s => withVec d s fun z s =>
    withDest d s fun e s =>
      let l := (List.range 64).map fun j =>
        let t := (List.range 4).map fun q =>
          let (c, f) := ternOf (elemOf x 2 (4 * j + q))
          (c * signed 8 (laneOf y 1 (4 * j + q)), f)
        let (r, f) := limit 32 (signed 32 (laneOf z 4 j) + (t.map (·.1)).sum)
        (r, f ||| flagsOf t)
      .ok (putLanes e 4 4 l s)) s

/-- VPACK. -/
def execVpack (g : BitVec 3) (d a : BitVec 6) (w : BitVec 2) (s : State) :
    Host.Outcome State Fault Refusal :=
  let n := widthOf w
  slot (.vpack g d a w) g (fun s => withVec a s fun x s => withDest d s fun e s =>
    let l := (lanes n (256 / n) x).map fun v => limit (4 * n) (signed (8 * n) v)
    .ok (putLanes e (n / 2) 4 l s)) s

/-- VUNPACK. -/
def execVunpack (g : BitVec 3) (d a : BitVec 6) (x h : BitVec 1) (w : BitVec 2) (s : State) :
    Host.Outcome State Fault Refusal :=
  let n := widthOf w
  let m := 256 / n
  slot (.vunpack g d a x h w) g (fun s => withVec a s fun v s => withDest d s fun e s =>
    let l := (List.range m).map fun i =>
      let y := laneOf v (n / 2) (if h = 1 then m + i else i)
      if x = 1 then bitsOf (8 * n) (signed (4 * n) y) else y
    .ok (putV e (ofLanes n l) 4 s)) s

/-- VMOV. -/
def execVmov (g : BitVec 3) (d a : BitVec 6) (s : State) : Host.Outcome State Fault Refusal :=
  slot (.vmov g d a) g (fun s => withVec a s fun x s => withDest d s fun e s => .ok (putV e x 4 s)) s

/-- VBCASTL: 64-bit lane Bits(s[b], 4, 0) everywhere. -/
def execVbcastl (g : BitVec 3) (d a b : BitVec 6) (s : State) : Host.Outcome State Fault Refusal :=
  slot (.vbcastl g d a b) g (fun s => withVec a s fun x s => withDest d s fun e s =>
    .ok (putV e (ofLanes 8 (List.replicate 32 (laneOf x 8 (laneArg b s)))) 4 s)) s

end Sys2Proof.Machine
end

