-- ==== Sys2Proof/Machine/Matrix.lean ====
section
/-! DEFINITION. Majors 0x2E and 0x2F: the matrix calls and the checks of Table 6.2 (R124 to R132, R369), and
the glaze store's load and save (R139). -/

namespace Sys2Proof.Machine

/-! ## Parameters (Tables 1.8, 6.1) -/

/-- Parameter m`i` of a call. -/
def MCall.p (c : MCall) (i : Nat) : Nat := (nth 0 i c.par).toNat

/-- The fields of m2, m3 and m4, and m7, the first row. -/
def MCall.rows (c : MCall) : Nat := bits (c.p 3) 15 0
def MCall.cols (c : MCall) : Nat := bits (c.p 3) 31 16
def MCall.depth (c : MCall) : Nat := bits (c.p 3) 47 32
def MCall.af (c : MCall) : Nat := bits (c.p 4) 3 0
def MCall.bf (c : MCall) : Nat := bits (c.p 4) 7 4
def MCall.amode (c : MCall) : Nat := bits (c.p 4) 11 10
def MCall.first (c : MCall) : Nat := c.p 7
def MCall.bank (c : MCall) : Nat := bits (c.p 2) 20 15
def MCall.row (c : MCall) : Nat := bits (c.p 2) 14 10
def MCall.col (c : MCall) : Nat := bits (c.p 2) 9 0

/-- Whether the call is of the grouped routine, by its index alone (R369). -/
def MCall.grouped (c : MCall) : Bool := c.idx == 0x018

/-- The legal format pairs (Table 6.4). -/
def pairOk (a b : Nat) : Bool :=
  ((a == 1 || a == 2) && (b == 1 || b == 2)) || ((a == 3 || a == 4) && (b == 3 || b == 4)) ||
    (a == 5 && b == 5) || (a == 6 && b == 6) || (a == 10 && b == 7)

/-- A tensor shape record (Table 6.6). -/
def tensorFrom (b : List Byte) : Tensor :=
  let w := fun i => leNat ((b.drop (8 * i)).take 8)
  { base := w 0
    rows := bits (w 1) 31 0
    cols := bits (w 1) 63 32
    stride := bits (w 2) 31 0
    fmt := bits (w 2) 39 32
    wr := bit (w 2) 40
    tr := bit (w 2) 41
    rsvd := bits (w 2) 63 42
    trow := bits (w 3) 15 0
    tcol := bits (w 3) 31 16
    soff := bits (w 3) 63 32 }

/-! ## The records a call names (Table 6.2, row 2) -/

/-- Bytes read at a call's check. -/
def callRead (a n : Nat) (s : State) : Except (Nat × Nat) (List Byte × State) := load a n s

/-- A record, where its parameter is not 0; it is read where it stands, aligned or not (log entry 69). -/
def readTensor (a : Nat) (s : State) : Except (Nat × Nat) (Option Tensor × State) :=
  if a = 0 then .ok (none, s)
  else do
    let (b, s1) ← callRead a 32 s
    return (some (tensorFrom b), s1)

/-- `n` entries of a group table from address `a`, each with its reserved bits and its B record, in turn: of several
failing reads the first gives the trap's value (log entry 84). -/
def readGroups : Nat → Nat → State → Except (Nat × Nat) (List (Group × Nat × Tensor) × State)
  | 0, _, s => .ok ([], s)
  | n + 1, a, s => do
    let (b, s1) ← callRead (a % 2 ^ 64) 16 s
    let w := leNat (b.drop 8)
    let va := leNat (b.take 8)
    let (r, s2) ← callRead va 32 s1
    let (l, s3) ← readGroups n (a + 16) s2
    return ((⟨va, bits w 21 16, bits w 15 0⟩, bits w 63 22, tensorFrom r) :: l, s3)

/-- The group table of a grouped call: its count word and its entries, 32 at most. -/
def readTable (grouped : Bool) (a : Nat) (s : State) :
    Except (Nat × Nat) (Nat × List (Group × Nat × Tensor) × State) :=
  if grouped then do
    let (b, s1) ← callRead a 8 s
    let (l, s2) ← readGroups (min 32 (leNat b % 2 ^ 32)) (a + 8) s1
    return (leNat b, l, s2)
  else .ok (0, [], s)

/-! ## The checks (R126) -/

/-- The first condition of a list that holds, as its cause and trap value. -/
def firstFail : List (Bool × Nat × Nat) → Except (Nat × Nat) Unit
  | [] => .ok ()
  | (b, c, v) :: l => if b then .error (c, v) else firstFail l

/-- Bytes of an element, 1 for the narrower formats. -/
def elemSize (f : Nat) : Nat := max 1 (fmtBits f / 8)

/-- A record against row 3: reserved bits, base, format, extents. -/
def Tensor.bad (t : Tensor) (f : Nat) : Bool :=
  decide (t.rsvd ≠ 0 ∨ 2 ^ 48 ≤ t.base ∨ t.fmt ≠ f ∨ t.rows < t.trow ∨ t.cols < t.tcol)

/-- A logical matrix beyond the extents of its record (R129). -/
def Tensor.over (t : Tensor) (r c : Nat) (tr : Bool) : Bool :=
  if tr then decide (t.trow < c ∨ t.tcol < r) else decide (t.trow < r ∨ t.tcol < c)

/-- An accumulator address with another bank. -/
def withBank (a b : Nat) : Nat := a - bits a 20 15 * 2 ^ 15 + b * 2 ^ 15

/-- The accumulator kind of a pair: INT32 for ternary × INT8 (Table 6.4). -/
def intPair (a b : Nat) : Bool := a == 10 && b == 7

/-- The target banks of a call. -/
def MCall.targets (c : MCall) : List Nat :=
  if c.grouped then c.groups.map (·.bank) else [c.bank]

/-- Rows 5 to 7 for one target bank of caller number `own` on core `k`. -/
def bankChecks (c : MCall) (k : Core) (own : Nat) : List (Bool × Nat × Nat) :=
  let comp := c.amode == 2
  let int := intPair c.af c.bf
  (comp && int, 0x0C, 6) :: (c.targets.map fun b =>
    let bad := match find b k.bands with
      | none => false
      | some d => (d.paired && !comp) || ((c.amode == 1 || comp) && d.int != int)
    ((comp && b % 2 == 1) || bad, 0x0C, 6)) ++
  ((c.targets.map fun b =>
    let mine := fun b => match find b k.bands with
      | none => false
      | some d => d.owner == own
    (!mine b || (comp && !mine (b + 1)), 0x0E, withBank (c.p 2) b)))

/-- The limits on M and N of a routine (R369). -/
def limitsOf (idx : Nat) : Nat × Nat :=
  if idx = 0x010 then (32, 32) else if idx = 0x018 then (1024, 32) else (65535, 65535)

/-- Apply Table 6.2 to a call of the acting sequencer: the call, `none` where it is empty, or the trap. The bits of
m3 and m4 that Table 1.8 says are zero are not looked at (log entry 62); within a row A comes before B, and B before the
groups (log entry 84). -/
def prepare (idx : Nat) (par : List Word) (s : State) :
    Except (Nat × Nat) (Option MCall × State) := do
  let c0 : MCall := ⟨s.cur, (me s).mode, idx, par, none, none, []⟩
  firstFail [(c0.amode == 3 || !pairOk c0.af c0.bf, 0x0C, 1)]
  let (ra, s1) ← readTensor (c0.p 0) s
  let (rb, s2) ← readTensor (c0.p 1) s1
  let (hdr, gs, s3) ← readTable c0.grouped (c0.p 6) s2
  let c : MCall := { c0 with ra := ra, rb := rb, groups := gs.map (·.1) }
  let recs := (ra.toList.map fun t => (t, c.af)) ++ (rb.toList.map fun t => (t, c.bf)) ++
    (gs.map fun g => (g.2.2, c.bf))
  let tb := bit (c.p 4) 12
  let used := if c.grouped then (gs.filter fun g => g.1.rows != 0).map (·.2.2) else rb.toList
  let m := c.rows
  let n := c.cols
  let d := c.depth
  firstFail ([(decide (hdr / 2 ^ 32 ≠ 0) || gs.any (fun g => g.2.1 != 0) ||
      recs.any (fun p => p.1.bad p.2), 0x0C, 3)] ++
    (recs.map fun p =>
      (decide (p.1.base % elemSize p.2 ≠ 0 ∨ p.1.stride % elemSize p.2 ≠ 0), 0x0B, p.1.base)) ++
    [(decide (2 ^ 24 ≤ c.p 2 ∨ bits (c.p 2) 23 21 ≠ myK s % 8), 0x0C, 5)] ++
    bankChecks c (myCore s) ((me s).seqid.toNat % 16))
  if m = 0 ∨ n = 0 ∨ d = 0 ∨ m ≤ c.first ∨
      (ra.toList ++ used).any (fun t => t.trow == 0 || t.tcol == 0) = true then return (none, s3)
  else
    let total := (c.groups.map (·.rows)).sum
    firstFail [
      ((if c.grouped then c.groups.any (fun g => decide (32 < c.row + g.rows)) else decide (32 < c.row + m)) ||
        decide (1024 < c.col + n ∨ (limitsOf idx).1 < m ∨ (limitsOf idx).2 < n) ||
        ra.toList.any (fun t => t.over m d t.tr) || used.any (fun t => t.over d n (t.tr != tb)), 0x0C, 9),
      (c.grouped && (decide (hdr % 2 ^ 32 = 0 ∨ 32 < hdr % 2 ^ 32 ∨ m < total) ||
        c.groups.any (fun g => decide (32 < g.rows))), 0x0C, 10),
      (recs.any (fun p => p.1.wr && decide (p.1.stride < (p.1.cols * fmtBits p.2 + 7) / 8)), 0x0C, 11)]
    return (some c, s3)

/-! ## What is left of a check that traps (R159) -/

/-- A read of a check that goes on where the read succeeds. -/
def triedRead (a n : Nat) (f : List Byte → State → State) (s : State) : State :=
  match callRead a n s with
  | .error _ => s
  | .ok (b, s1) => f b s1

/-- What the reads of `n` entries of a group table leave, as `readGroups` reads them. -/
def groupsRead : Nat → Nat → State → State
  | 0, _, s => s
  | n + 1, a, s => triedRead (a % 2 ^ 64) 16 (fun b s => triedRead (leNat (b.take 8)) 32 (fun _ s => groupsRead n (a + 16) s) s) s

/-- What the reads of a call's check leave, up to the first that fails; a format of row 1 is refused before them. -/
def callReads (idx : Nat) (par : List Word) (s : State) : State :=
  let c : MCall := ⟨s.cur, (me s).mode, idx, par, none, none, []⟩
  let table := fun (s : State) =>
    if c.grouped then triedRead (c.p 6) 8 (fun b s => groupsRead (min 32 (leNat b % 2 ^ 32)) (c.p 6 + 8) s) s else s
  let tensor := fun (a : Nat) (f : State → State) (s : State) => if a = 0 then f s else triedRead a 32 (fun _ s => f s) s
  if c.amode == 3 || !pairOk c.af c.bf then s else tensor (c.p 0) (tensor (c.p 1) table) s

/-! ## Hand-off -/

/-- A call waits for the commit of its bundle, which hands it over (R125). -/
def holdCall (c : MCall) (s : State) : State := modBun (fun b => { b with mcall := some c }) s

/-- The parameters as captured (R16). -/
def params (s : State) : List Word := (List.range 8).map fun i => (me s).rm i

/-- MCALL. -/
def execMcall (g : BitVec 3) (i : BitVec 9) (s : State) : Host.Outcome State Fault Refusal :=
  slot (.mcall g i) g (fun s =>
    if (me s).mrow.busy then .park .busy
    else if (me s).mrow.pend then .trap 0x0D (BitVec.ofNat 64 (2 ^ 56))
    else match prepare i.toNat (params s) s with
      | .error (c, v) => .trap c (BitVec.ofNat 64 v)
      | .ok (none, s1) => .ok s1
      | .ok (some c, s1) => .ok (holdCall c s1)) s

/-- MWAIT. -/
def execMwait (g : BitVec 3) (s : State) : Host.Outcome State Fault Refusal :=
  slot (.mwait g) g (fun s => if (me s).mrow.busy then .park .busy else .ok s) s

/-- MPROG. -/
def execMprog (g : BitVec 3) (d : BitVec 6) (s : State) : Host.Outcome State Fault Refusal :=
  plain (.mprog g d) g (fun s => lockS d (me s).mrow.word s) s

/-- The faulted-call record: m0 to m7. -/
def Seq.record (x : Seq) : List Word := (List.range 8).map fun i => nth 0 i x.frec

/-- MRESUME (R131). -/
def execMresume (g : BitVec 3) (s : State) : Host.Outcome State Fault Refusal :=
  slot (.mresume g) g (fun s =>
    if (me s).mrow.busy then .park .busy
    else if !(me s).mrow.pend then .ok s
    else match prepare (me s).mrow.idx.toNat (me s).record s with
      | .error (c, v) => .trap c (BitVec.ofNat 64 v)
      | .ok (none, s1) => .ok (modMe (fun x => { x with mrow := { x.mrow with pend := false } }) s1)
      | .ok (some c, s1) => .ok (holdCall c s1)) s

/-! ## The glaze store (R137, R139) -/

/-- Whether a glaze word has a reserved bit set (Table 6.9). -/
def glazeBad (w : Nat) : Bool :=
  decide (bits w 255 154 ≠ 0 ∨ bits w 153 148 ≠ 0 ∨ bits w 144 138 ≠ 0 ∨ bits w 129 106 ≠ 0 ∨
    bits w 101 90 ≠ 0 ∨ bits w 88 87 ≠ 0 ∨ bits w 65 50 ≠ 0 ∨ bits w 41 26 ≠ 0)

/-- The control word of MGLOAD and MGSAVE: REC, COUNT, INDEX, where it is legal. -/
def glazeArgs (v : Nat) : Option (Bool × Nat × Nat) :=
  let n := bits v 25 16
  let i := bits v 8 0
  if v / 2 ^ 32 ≠ 0 ∨ bits v 30 26 ≠ 0 ∨ bits v 15 9 ≠ 0 ∨ 512 < i + n ∨ (bit v 31 ∧ (n ≠ 0 ∨ i ≠ 0))
  then none else some (bit v 31, n, i)

/-- The words of a run of bytes. -/
def glazeWords : Nat → List Byte → List Nat
  | 0, _ => []
  | n + 1, b => leNat (b.take 32) :: glazeWords n (b.drop 32)

/-- Write glaze words from index `i`. -/
def setGlaze (k i : Nat) (l : List Nat) (s : State) : State :=
  modCore k (fun c =>
    let g := l.zipIdx.foldl (fun m p => put 0 (i + p.2) (BitVec.ofNat 256 p.1) m) c.glaze
    { c with glaze := g }) s

/-- Whether a core's unit has a call in it or waiting. -/
def unitBusy (k : Nat) (s : State) : Bool :=
  (coreAt k s).mrun.isSome || !(coreAt k s).mq.isEmpty

/-- The image of a sequencer's faulted-call record: MROW, m0 to m7; the last 8 of its 80 bytes are not written (log
entry 70). -/
def recordImage (x : Seq) : List Byte :=
  leBytes 8 x.mrow.word.toNat ++ (x.record.map fun v => leBytes 8 v.toNat).flatten

/-- A faulted-call record is installed: PEND, IDX and ROWS from the image. -/
def installRecord (b : List Byte) (x : Seq) : Seq :=
  let w := leNat (b.take 8)
  { x with mrow := ⟨bit w 63, x.mrow.busy, BitVec.ofNat 9 (bits w 40 32), BitVec.ofNat 16 (bits w 15 0)⟩
           frec := (List.range 8).map fun i => BitVec.ofNat 64 (leNat ((b.drop (8 + 8 * i)).take 8)) }

/-- MGLOAD: calls handed over earlier use the old words, so it waits for them. -/
def execMgload (g : BitVec 3) (a b : BitVec 6) (s : State) : Host.Outcome State Fault Refusal :=
  slot (.mgload g a b) g (fun s =>
    let va := sreg a s
    match glazeArgs (sreg b s).toNat with
    | none => .trap 0x0C 0
    | some (true, _, _) =>
      if va.toNat % 16 ≠ 0 then .trap 0x0B va
      else if (me s).mrow.busy then .park .busy
      else orFault (load va.toNat 80 s) fun (x, s1) => .ok (modMe (installRecord x) s1)
    | some (false, n, i) =>
      if n = 0 then .ok s
      else if va.toNat % 32 ≠ 0 then .trap 0x0B va
      else if unitBusy (myK s) s then .park .busy
      else orFault (load va.toNat (32 * n) s) fun (x, s1) =>
        let l := glazeWords n x
        match l.findIdx? glazeBad with
        | some j => .trap 0x0C (BitVec.ofNat 64 (i + j))
        | none => .ok (setGlaze (myK s1) i l s1)) s

/-- MGSAVE: after every call committed before it. -/
def execMgsave (g : BitVec 3) (a b : BitVec 6) (s : State) : Host.Outcome State Fault Refusal :=
  slot (.mgsave g a b) g (fun s =>
    let va := sreg a s
    let put := fun (x : List Byte) => orTrap 0x09 (store va.toNat x false s) fun s1 => .ok s1
    match glazeArgs (sreg b s).toNat with
    | none => .trap 0x0C 0
    | some (true, _, _) =>
      if va.toNat % 16 ≠ 0 then .trap 0x0B va
      else if (me s).mrow.busy then .park .busy
      else put (recordImage (me s))
    | some (false, n, i) =>
      if n = 0 then .ok s
      else if va.toNat % 32 ≠ 0 then .trap 0x0B va
      else if unitBusy (myK s) s then .park .busy
      else put ((List.range n).map fun j =>
        leBytes 32 (look 0 (i + j) (myCore s).glaze).toNat).flatten) s

end Sys2Proof.Machine
end

