-- ==== Sys2Proof/Machine/MatrixUnit.lean ====
section
/-! DEFINITION. The matrix unit at work: the start of a call, one glaze word, the end of a call, the delivery
of a fault (R116 to R119, R128 to R130, R135 to R138). -/

namespace Sys2Proof.Machine

/-! ## A call's window of rows -/

/-- The A rows of 32-row block `t` from row m7 on. -/
def plainRows (c : MCall) (t : Nat) : List Nat :=
  (List.range 32).filterMap fun i =>
    let r := c.first + 32 * t + i
    if r < c.rows then some r else none

/-- The first A row of group `g`. -/
def groupStart (c : MCall) (g : Nat) : Nat := ((c.groups.take g).map (·.rows)).sum

/-- The A rows of group `g` that are not yet done; none where the call has no such group, in a call without a group
table too (log entry 84). -/
def groupRows (c : MCall) (g : Nat) : List Nat :=
  match c.groups[g]? with
  | none => []
  | some x => (List.range x.rows).filterMap fun i =>
      let r := groupStart c g + i
      if c.first ≤ r then some r else none

/-- The bank the run writes now: the selected group's, or that of m2, where no such group is too (log entry 84). -/
def MRun.bank (r : MRun) : Nat :=
  match r.grp with
  | none => r.call.bank
  | some g => match r.call.groups[g]? with
    | none => r.call.bank
    | some x => x.bank

/-- The bank row of an A row. -/
def MRun.target (r : MRun) (a : Nat) : Nat :=
  r.call.row + a - (match r.grp with
    | none => 0
    | some g => groupStart r.call g)

/-- A call at its first word (R138). -/
def MRun.start (c : MCall) : MRun where
  call := c
  word := c.idx
  cval := []
  clim := []
  stack := []
  grp := none
  arows := plainRows c 0
  ablk := []
  ascl := []
  bcols := []
  bblk := []
  bscl := []
  brec := c.rb
  sums := []
  parts := []
  int := intPair c.af c.bf
  flags := 0
  last := 0
  steps := 0

/-- The value of a counter. -/
def MRun.c (r : MRun) (i : Nat) : Nat := look 0 i r.cval

/-! ## Reading operands (R129, R135) -/

/-- A fault of a running call: cause, trap value, whether the call stops to be resumed (Table 6.5). -/
abbrev UFault := Nat × Nat × Bool

/-- The view that a call reads under. -/
def MCall.view (c : MCall) (s : State) : View := { viewOf c.q s with mode := c.mode }

/-- Bytes read by the unit for a call; a failure is cause 0x0A, an uncorrectable read under the stop policy 0x18, the
tables' lines among them (R130, R178). The error has the state in which it is met: of several reads those before it are
complete (R159). -/
def unitRead (c : MCall) (a n : Nat) (s : State) : Except (UFault × State) (List Byte × State) :=
  let as := cut (a % 2 ^ 64) n
  match places (c.view s) s true false false as with
  | .error t =>
    let va := t % 2 ^ 63
    if stopsAt c.q s && !(tableUpsets true (c.view s) va s).isEmpty then .error ((0x18, va, true), s)
    else .error ((0x0A, t, true), s)
  | .ok (ps, ms) => match machineCheck c.q as ps s with
    | some t => .error ((0x18, t, true), s)
    | none => .ok (readPlaces (c.q / 2) ps (healAll (some (c.q / 2)) ps
        (healTables (some (c.q / 2)) (c.view s) as (marked false ms s))))

/-- `n` elements of `w` bits from element `first` of the stored row at `a` (R103). -/
def readRow (c : MCall) (w a first n : Nat) (s : State) : Except (UFault × State) (List Nat × State) :=
  if n = 0 then .ok ([], s)
  else
    let b0 := first * w / 8
    match unitRead c (a + b0) (((first + n) * w + 7) / 8 - b0) s with
    | .error f => .error f
    | .ok (b, s1) =>
      .ok ((List.range n).map fun i => leNat b / 2 ^ (w * (first + i) - 8 * b0) % 2 ^ w, s1)

/-- Elements of a list of stored rows. -/
def readRows (c : MCall) (t : Tensor) (w first n : Nat) :
    List Nat → State → Except (UFault × State) (List (List Nat) × State)
  | [], s => .ok ([], s)
  | r :: l, s => do
    let (x, s1) ← readRow c w (t.base + r * t.stride) first n s
    let (xs, s2) ← readRows c t w first n l s1
    return (x :: xs, s2)

/-- The transpose of a block of `n` columns. -/
def transpose (n : Nat) (l : List (List Nat)) : List (List Nat) :=
  (List.range n).map fun j => l.map fun r => nth 0 j r

/-- A block of an operand: for each of the outer indices (rows of A, columns of B, in rising order) its
elements of one K-chunk. `along` says that K runs along the stored columns. -/
def readBlock (c : MCall) (t : Option Tensor) (w : Nat) (along : Bool) (outer : List Nat) (k n : Nat)
    (s : State) : Except (UFault × State) (List (List Nat) × State) :=
  match t with
  | none => .ok ([], s)
  | some t =>
    if outer.isEmpty then .ok ([], s)
    else if along then readRows c t w k n outer s
    else do
      let (x, s1) ← readRows c t w (outer.headD 0) outer.length ((List.range n).map (k + ·)) s
      return (transpose outer.length x, s1)

/-- The scale codes of the outer indices for chunk `ch` (R135). -/
def readScales (c : MCall) (t : Tensor) (along : Bool) (ch : Nat) :
    List Nat → State → Except (UFault × State) (List Nat × State)
  | [], s => .ok ([], s)
  | o :: l, s => do
    let off := if along then o * ((t.cols + 31) / 32) + ch else ch * t.cols + o
    let (b, s1) ← unitRead c (c.p 5 + t.soff + off) 1 s
    let (xs, s2) ← readScales c t along ch l s1
    return (leNat b :: xs, s2)

/-- The start and length of K-chunk `i`. -/
def chunk (c : MCall) (i : Nat) : Nat × Nat := (32 * i, min 32 (c.depth - 32 * i))

/-! ## The fields of a word, in their order (R138) -/

/-- 1: CLOAD. -/
def doCload (w : Nat) (r : MRun) (s : State) : MRun × State :=
  if bit w 25 then
    let k := bits w 24 22
    let set := fun (v : Nat) => { r with cval := upd k 0 r.cval, clim := upd k (v % 65536) r.clim }
    match bits w 21 20 with
    | 0 => (set (bits w 19 14), s)
    | 1 => (set ((r.call.depth + 31) / 32 + 65535), s)
    | 2 =>
      if r.call.grouped then (set (r.call.groups.length + 65535), s)
      else let (n, s1) := freeNext s
        (set (Config.noGroups n).toNat, s1)
    | _ => (set ((r.call.rows + 31) / 32 + 65535), s)
  else (r, s)

/-- The format codes of a word: 15 takes those of m4. -/
def wordAf (w : Nat) (r : MRun) : Nat := if bits w 77 74 = 15 then r.call.af else bits w 77 74
def wordBf (w : Nat) (r : MRun) : Nat := if bits w 81 78 = 15 then r.call.bf else bits w 81 78

/-- Whether K runs along the stored columns of A (R129). -/
def alongA (c : MCall) : Bool :=
  match c.ra with
  | some x => !x.tr
  | none => true

/-- 2: AGEN_A. -/
def doAgenA (w : Nat) (r : MRun) (s : State) : Except (UFault × State) (MRun × State) :=
  let f := bits w 49 26
  if bit f 23 then do
    let t := r.c (bits f 19 17)
    let (k, n) := chunk r.call (r.c (bits f 22 20))
    let rows := if bit f 16 then groupRows r.call t else plainRows r.call t
    let (x, s1) ← readBlock r.call r.call.ra (fmtBits (wordAf w r)) (alongA r.call) rows k n s
    return ({ r with grp := if bit f 16 then some t else none, arows := rows, ablk := x }, s1)
  else .ok (r, s)

/-- Whether K runs along the stored columns of a B record: its effective transpose (R129). -/
def alongB (c : MCall) (t : Option Tensor) : Bool :=
  match t with
  | some x => x.tr != bit (c.p 4) 12
  | none => true

/-- The B record of a group, read again from memory. -/
def groupTensor (c : MCall) (g : Nat) (s : State) : Except (UFault × State) (Option Tensor × State) :=
  match c.groups[g]? with
  | none => .ok (none, s)
  | some x =>
    if (groupRows c g).isEmpty then .ok (none, s)
    else match unitRead c x.brec 32 s with
      | .error f => .error f
      | .ok (b, s1) => .ok (some (tensorFrom b), s1)

/-- 2: AGEN_B. -/
def doAgenB (w : Nat) (r : MRun) (s : State) : Except (UFault × State) (MRun × State) :=
  let f := bits w 73 50
  if bit f 23 then do
    let t := r.c (bits f 19 17)
    let (k, n) := chunk r.call (r.c (bits f 22 20))
    let (rec_, s1) ← (if bit f 16 then groupTensor r.call t s else .ok (r.call.rb, s))
    let c0 := if bit f 16 then 0 else 32 * t
    let cols := (List.range (min 32 (r.call.cols - c0))).map (c0 + ·)
    let (x, s2) ← readBlock r.call rec_ (fmtBits (wordBf w r)) (alongB r.call rec_) cols k n s1
    return ({ r with brec := rec_, bcols := cols, bblk := x }, s2)
  else .ok (r, s)

/-- The scales of one operand, where its format is a microscaling one. -/
def operandScales (c : MCall) (t : Option Tensor) (f : Nat) (along : Bool) (ch : Nat) (outer : List Nat)
    (s : State) : Except (UFault × State) (List Nat × State) :=
  match t with
  | none => .ok ([], s)
  | some t => if f == 5 || f == 6 then readScales c t along ch outer s else .ok ([], s)

/-- 2: SCALE. -/
def doScale (w : Nat) (r : MRun) (s : State) : Except (UFault × State) (MRun × State) :=
  let f := bits w 105 90
  if bit f 15 then do
    let ch := r.c (bits f 14 12)
    let (a, s1) ← operandScales r.call r.call.ra (wordAf w r) (alongA r.call) ch r.arows s
    let (b, s2) ← operandScales r.call r.brec (wordBf w r) (alongB r.call r.brec) ch r.bcols s1
    return ({ r with ascl := a, bscl := b }, s2)
  else .ok (r, s)

/-- An element's value under a scale code, with its flags. -/
def scaledElem (f : Nat) (fi : Bool) (scale : Option Nat) (x : Nat) : Num × Flags :=
  let (v, g) := readElem f fi x
  match scale with
  | none => (v, g)
  | some c => if c % 256 = 255 then (.nan, g) else (v.scale (((c % 256 : Nat) : Int) - 127), g)

/-- The rows of a block as exact values. -/
def blockVals (f : Nat) (fi : Bool) (scales : List Nat) (b : List (List Nat)) : List (List (Num × Flags)) :=
  b.zipIdx.map fun p => p.1.map (scaledElem f fi scales[p.2]?)

/-- The exact sum of products, with the flags of its operands and its operations (R116). Beside a NaN product, infinite
products of both signs raise NV or not by their places; a chunk with no product sums to −0 (log entry 66). -/
def dot : List (Num × Flags) → List (Num × Flags) → Num × Flags
  | x :: l, y :: m =>
    let (p, f) := x.1.mul y.1
    let (t, g) := dot l m
    let (v, h) := p.add 0 t
    (v, x.2 ||| y.2 ||| f ||| g ||| h)
  | _, _ => (.fin true 0 0, 0)

/-- Whether a word's pair and scales give its sums a meaning. -/
def sumsKnown (a b : Nat) (r : MRun) : Bool :=
  pairOk a b && (!(a == 5 || a == 6) ||
    (decide (r.ascl.length = r.ablk.length) && decide (r.bscl.length = r.bblk.length)))

/-- 3: ARRAY; a word executed again after transient errors counts in ERRCNT.RESID (R130, R268). -/
def doArray (w : Nat) (r : MRun) (s : State) : MRun × State :=
  let f := bits w 89 82
  if bit f 7 then
    let a := wordAf w r
    let b := wordBf w r
    let n := bits f 4 0 + 1
    let (i, s1) := freeNext s
    let s2 := countCoreErr (some (r.call.q / 2)) 32 (Config.residueRepeats i) s1
    if sumsKnown a b r then
      let fi := bit (r.call.p 4) 8
      let mx := a == 5 || a == 6
      let av := blockVals a fi (if mx then r.ascl else []) (r.ablk.map (·.take n))
      let bv := blockVals b fi (if mx then r.bscl else []) (r.bblk.map (·.take n))
      let l := av.map fun x => bv.map fun y => dot x y
      ({ r with sums := l.map (·.map (·.1)), int := intPair a b
                flags := l.foldl (fun f x => f ||| flagsOf x) r.flags }, s2)
    else
      ({ r with sums := r.ablk.zipIdx.map fun x => r.bblk.zipIdx.map fun y =>
                  fp32.dec false (Config.pairSum i x.2 y.2).toNat }, s2)
  else (r, s)

/-- The key of an accumulator element. -/
def accKey (bank row col : Nat) : Nat := bank * 32768 + row * 1024 + col

/-- The bits of an accumulator element. -/
def accAt (k : Core) (bank row col : Nat) : Nat := (look 0 (accKey bank row col) k.acc).toNat

/-- A pattern of an FP32 element as it is read under a flush bit (R108). -/
def flushed (fi : Bool) (x : Nat) : Nat := if fi && decide (x / 2 ^ 23 % 256 = 0) then x / 2 ^ 31 * 2 ^ 31 else x

/-- 4: FLAGS; in overwrite mode LDACC leaves the partials empty. The elements it loads are the call's accumulating
operand, which m4 FI flushes (R108, log entry 67). -/
def doFlags (w : Nat) (k : Core) (r : MRun) : MRun :=
  let r1 := if bit w 146 || (bit w 147 && r.call.amode == 0) then { r with parts := [] } else r
  if bit w 147 && r.call.amode != 0 then
    let t := r.c (bits w 132 130)
    let b := r.bank
    let fi := bit (r.call.p 4) 8 && !intPair r.call.af r.call.bf
    let at_ := fun b row col => flushed fi (accAt k b row col)
    { r1 with parts := r.arows.map fun a => (List.range 32).map fun j =>
        let c := r.call.col + 32 * t + j
        if c < 1024 ∧ r.target a < 32 then
          some (at_ b (r.target a) c, if r.call.amode = 2 then at_ (b + 1) (r.target a) c else 0)
        else none }
  else r1

/-- RNE32 of an exact value under FO. -/
def rne32 (fo : Bool) (x : Num × Flags) : Nat × Flags :=
  let (v, f) := fp32.round 0 fo false x.1
  (v, f ||| x.2)

/-- Fold an exact sum into an FP32 element (R116). -/
def fold32 (fo : Bool) (acc : Nat) (x : Num) : Nat × Flags := rne32 fo ((fp32.dec false acc).add 0 x)

/-- Round an exact value to a compensated pair (R118); where hi is not finite nothing is raised for lo (log entry
68). -/
def pairRound (fo : Bool) (t : Num × Flags) : (Nat × Nat) × Flags :=
  let (hi, f) := rne32 fo t
  let h := fp32.dec false hi
  if h.isFin then
    let (lo, g) := rne32 fo (t.1.add 0 h.neg)
    ((hi, lo), f ||| g)
  else ((hi, 0), f)

/-- Fold into a compensated pair. -/
def foldPair (fo : Bool) (p : Nat × Nat) (x : Num) : (Nat × Nat) × Flags :=
  let (t, f) := (fp32.dec false p.1).add 0 (fp32.dec false p.2)
  let (u, g) := t.add 0 x
  pairRound fo (u, f ||| g)

/-- The integer of an exact sum. -/
def Num.toInt (x : Num) : Int := x.onGrid 0

/-- One element's fold (R116, R118, R119). -/
def foldElem (r : MRun) (x : Num) (p : Option (Nat × Nat)) : (Nat × Nat) × Flags :=
  let fo := bit (r.call.p 4) 9
  if r.int then
    let old : Int := match p with
      | some v => signed 32 v.1
      | none => 0
    let (v, f) := limit 32 (old + x.toInt)
    ((v, 0), f)
  else if r.call.amode = 2 then match p with
    | some v => foldPair fo v x
    | none => pairRound fo (x, 0)
  else
    let (v, f) := match p with
      | some v => fold32 fo v.1 x
      | none => rne32 fo (x, 0)
    ((v, 0), f)

/-- Fold a row of sums into a row of partials. -/
def foldRow (r : MRun) : List Num → List (Option (Nat × Nat)) → List (Option (Nat × Nat)) × Flags
  | [], ps => (ps, 0)
  | x :: xs, ps =>
    let (v, f) := foldElem r x (ps.headD none)
    let (l, g) := foldRow r xs (ps.drop 1)
    (some v :: l, f ||| g)

/-- Fold all rows. -/
def foldRows (r : MRun) : List (List Num) → List (List (Option (Nat × Nat))) →
    List (List (Option (Nat × Nat))) × Flags
  | [], ps => (ps, 0)
  | x :: xs, ps =>
    let (p, f) := foldRow r x (ps.headD [])
    let (l, g) := foldRows r xs (ps.drop 1)
    (p :: l, f ||| g)

/-- 5: the fold of ACC. -/
def doFold (w : Nat) (r : MRun) : MRun :=
  if bit w 136 then
    let (p, f) := foldRows r r.sums r.parts
    { r with parts := p, flags := r.flags ||| f }
  else r

/-- Write one element: its hi bits and, for a compensated call, its lo bits. -/
def writeElem32 (c : MCall) (bank row col : Nat) (v : Nat × Nat) (m : Map (BitVec 32)) : Map (BitVec 32) :=
  let m1 := put 0 (accKey bank row col) (BitVec.ofNat 32 v.1) m
  if c.amode = 2 then put 0 (accKey (bank + 1) row col) (BitVec.ofNat 32 v.2) m1 else m1

/-- The elements of the partials as they go to the bank: row, column, bits; an empty partial leaves the bank's element
(log entry 84). -/
def MRun.out (r : MRun) (t : Nat) : List (Nat × Nat × (Nat × Nat)) :=
  ((r.arows.zip r.parts).map fun p => p.2.zipIdx.filterMap fun x =>
    match x.1 with
    | none => none
    | some v =>
      let col := r.call.col + 32 * t + x.2
      if 32 * t + x.2 < r.call.cols ∧ col < 1024 ∧ r.target p.1 < 32 then some (r.target p.1, col, v)
      else none).flatten

/-- The banks that a write of a run reaches: a compensated write reaches two. -/
def MRun.banks (r : MRun) : List Nat := if r.call.amode = 2 then [r.bank, r.bank + 1] else [r.bank]

/-- The first bank that a write of a run reaches and its caller does not own. -/
def MRun.foreign (r : MRun) (s : State) : Option Nat :=
  let own := (seqAt r.call.q s).seqid.toNat % 16
  r.banks.find? fun b =>
    match find b (coreAt (r.call.q / 2) s).bands with
    | some d => d.owner != own
    | none => true

/-- 5: the write of ACC: the kind and the ownership are checked before anything is written. -/
def doWrite (w : Nat) (r : MRun) (s : State) : Except UFault (MRun × State) :=
  if bit w 137 then
    let t := r.c (bits w 132 130)
    let k := r.call.q / 2
    let b := r.bank
    if bit w 133 && !r.int then .error (0x0C, r.call.p 2 + 32 * t, false)
    else match if r.arows.isEmpty then none else r.foreign s with
    | some x => .error (0x0E, withBank (r.call.p 2) x, true)
    | none =>
      let s1 := modCore k (fun c =>
        let m := (r.out t).foldl (fun m e => writeElem32 r.call b e.1 e.2.1 e.2.2 m) c.acc
        let bs := if r.call.amode = 0 ∧ r.arows ≠ [] then adj b (fun d => { d with int := r.int }) c.bands
          else c.bands
        { c with acc := m, bands := bs }) s
      .ok ({ r with last := (r.arows.map (· + 1)).foldl max r.last }, s1)
  else .ok (r, s)

/-- 6: PROG. -/
def doProg (w : Nat) (r : MRun) (s : State) : State :=
  if bit w 145 then modSeq r.call.q (fun x =>
    { x with mrow := { x.mrow with rows := BitVec.ofNat 16 (max x.mrow.rows.toNat r.last) } }) s
  else s

/-- 7: SEQ; a return stack of four overflows. -/
def doSeq (w : Nat) (r : MRun) : Except UFault MRun :=
  let to_ := bits w 8 0
  match bits w 10 9 with
  | 0 => match r.stack with
    | [] => .ok { r with word := 512 }
    | t :: l => .ok { r with word := t, stack := l }
  | 1 => .ok { r with word := r.word + 1 }
  | 2 =>
    let k := bits w 13 11
    if r.c k < look 0 k r.clim then .ok { r with word := to_, cval := upd k (r.c k + 1) r.cval }
    else .ok { r with word := r.word + 1 }
  | _ =>
    if 4 ≤ r.stack.length then .error (0x0D, 3 * 2 ^ 56, false)
    else .ok { r with word := to_, stack := (r.word + 1) :: r.stack }

/-- The word that a run stands at. -/
def MRun.glaze (r : MRun) (s : State) : Nat := (look 0 r.word (coreAt (r.call.q / 2) s).glaze).toNat

/-- A word up to its fold: the run and the state, and the fault that ended it, if one did. -/
def beforeWrite (r : MRun) (s : State) : MRun × State × Option UFault :=
  let w := r.glaze s
  let (r1, s1) := doCload w r s
  match doAgenA w r1 s1 with
  | .error (f, t) => (r1, t, some f)
  | .ok (r2, s2) => match doAgenB w r2 s2 with
    | .error (f, t) => (r2, t, some f)
    | .ok (r3, s3) => match doScale w r3 s3 with
      | .error (f, t) => (r3, t, some f)
      | .ok (r4, s4) =>
        let (r5, s5) := doArray w r4 s4
        (doFold w (doFlags w (coreAt (r.call.q / 2) s5) r5), s5, none)

/-- What a word leaves. -/
def doWord (r : MRun) (s : State) : MRun × State × Option UFault :=
  let w := r.glaze s
  match beforeWrite r s with
  | (r6, s5, some f) => (r6, s5, some f)
  | (r6, s5, none) => match doWrite w r6 s5 with
    | .error f => (r6, s5, some f)
    | .ok (r7, s6) =>
      let s7 := doProg w r7 s6
      match doSeq w r7 with
      | .error f => (r7, s7, some f)
      | .ok r8 =>
        let r9 := { r8 with steps := r8.steps + 1 }
        (r9, s7, if 2 ^ 32 ≤ r9.steps then some (0x0D, 3 * 2 ^ 56, false) else none)

/-! ## The events -/

/-- MATRIX_CALL_START: the unit takes the oldest call handed over. -/
def dueMatrixCallStart (core : Nat) (s : State) : Option State :=
  let k := coreAt core s
  match k.mrun, k.mq with
  | none, c :: l => some (modCore core (fun k => { k with mq := l, mrun := some (.start c) }) s)
  | _, _ => none

/-- MATRIX_CALL_START. -/
def execMatrixCallStart (core : Nat) (s : State) :
    Host.Outcome State Fault Refusal :=
  happens (dueMatrixCallStart core s) s

/-- The record of a stopped call: its parameters, with ROWS in m7 (R131). -/
def faultedRecord (c : MCall) (rows : BitVec 16) : List Word :=
  setAt 7 (BitVec.ofNat 64 (c.p 7 / 65536 * 65536 + rows.toNat)) c.par

/-- Flags raised outside the bundles are ORed into FFLAGS (R113). -/
def Seq.orFlags (f : Flags) (x : Seq) : Seq := { x with fflags := x.fflags ||| f }

/-- A translation failure of a call has met the errors of the lines that its walk read (R178). -/
def MCall.met (c : MCall) (f : Option UFault) (s : State) : State :=
  match f with
  | some (0x0A, v, _) => healTables (some (c.q / 2)) (c.view s) [(v % 2 ^ 63, 1)] s
  | _ => s

/-- A call leaves the unit: complete, or with a fault that waits for delivery. -/
def leaveUnit (r : MRun) (f : Option UFault) (s : State) : State :=
  let s1 := modCore (r.call.q / 2) (fun k => { k with mrun := none }) (r.call.met f s)
  match f with
  | none => modSeq r.call.q (fun x =>
      { x.orFlags r.flags with mrow := { x.mrow with busy := false } }) s1
  | some (c, v, pend) => modSeq r.call.q (fun x =>
      { x with mrow := { x.mrow with busy := false, pend := pend || x.mrow.pend }
               frec := if pend then faultedRecord r.call x.mrow.rows else x.frec
               mfault := x.mfault ++ [⟨c, BitVec.ofNat 64 v, r.flags⟩] }) s1

/-- GLAZE_STEP: one word of the call in the unit. -/
def dueGlazeStep (core : Nat) (s : State) : Option State :=
  match (coreAt core s).mrun with
  | none => none
  | some r =>
    if 512 ≤ r.word then none
    else match doWord r s with
      | (r1, s1, none) => some (modCore core (fun k => { k with mrun := some r1 }) s1)
      | (r1, s1, some f) => some (leaveUnit r1 (some f) s1)

/-- GLAZE_STEP. -/
def execGlazeStep (core : Nat) (s : State) :
    Host.Outcome State Fault Refusal :=
  happens (dueGlazeStep core s) s

/-- MATRIX_CALL_COMPLETE. -/
def dueMatrixCallComplete (core : Nat) (s : State) : Option State :=
  match (coreAt core s).mrun with
  | none => none
  | some r =>
    if r.word < 512 then none
    else some (leaveUnit r none s)

/-- MATRIX_CALL_COMPLETE. -/
def execMatrixCallComplete (core : Nat) (s : State) :
    Host.Outcome State Fault Refusal :=
  happens (dueMatrixCallComplete core s) s

/-- Whether a matrix fault can be delivered to a sequencer: at a bundle boundary, in U mode, with no call
of its own in the unit, and no trap or landed item that waited for it (R130, R230). -/
def mayDeliver (q : Nat) (s : State) : Bool :=
  let x := seqAt q s
  let awaited := match x.hold with
    | .trap _ _ _ => true
    | _ => false
  !awaited && x.land != .now && x.run == .running && x.mode == .u && x.bun.words.isEmpty && !x.mrow.busy &&
    !x.mfault.isEmpty

/-- MATRIX_FAULT_DELIVERY: the trap at the oldest bundle not yet committed: an MWAIT, or a BAR that has not arrived, where
the sequencer waits at it; after a BAR that has, whose bundle is committed, the next (R96, log entry 29). -/
def dueMatrixFaultDelivery (q : Nat) (s : State) : Option State :=
  if !mayDeliver q s then none
  else match (seqAt q s).mfault with
    | [] => none
    | f :: l =>
      let s1 := modSeq q (fun x => { x.orFlags f.flags with mfault := l }) s
      some (trapEntry q f.cause f.tval (seqAt q s1).pc s1)

/-- MATRIX_FAULT_DELIVERY. -/
def execMatrixFaultDelivery (q : Nat) (s : State) :
    Host.Outcome State Fault Refusal :=
  happens (dueMatrixFaultDelivery q s) s

end Sys2Proof.Machine
end

