-- ==== Sys2Proof/Machine/Accum.lean ====
section
/-! DEFINITION. Majors 0x30 to 0x33: the accumulator banks (R13, R15, R17 to R20, R25, R140 to R144). A
bundle has one such slot and nothing else runs until it commits, so the effects that take place at its
commit are written here at once. -/

namespace Sys2Proof.Machine

/-- The number of the acting sequencer in its cluster (R140). -/
def ownNumber (s : State) : Nat := (me s).seqid.toNat % 16

/-- The banks of a range, widened to whole pairs. -/
def widened (k : Core) (b n : Nat) : List Nat :=
  let paired : Nat → Bool := fun i => match find i k.bands with
    | some d => d.paired
    | none => false
  let lo := if paired b then b - b % 2 else b
  let hi := b + n
  let hi := if hi % 2 == 1 && paired (hi - 1) then hi + 1 else hi
  (List.range (hi - lo)).map (lo + ·)

/-- Whether a bank is allocated to an owner. -/
def ownedBy (k : Core) (own b : Nat) : Bool :=
  match find b k.bands with
  | some d => d.owner == own
  | none => false

/-- Clear the elements of banks. -/
def clearBanks (bs : List Nat) (m : Map (BitVec 32)) : Map (BitVec 32) :=
  m.filter fun p => !bs.contains (p.1 / 32768)

/-- The slot waits for the sequencer's own matrix call (R144). -/
def afterCall (s : State) (r : Res) : Res := if (me s).mrow.busy then .park .busy else r

/-- The core and bank of an accumulator address (R13): bits [63:24] must be zero. -/
def accArg (v : Word) (s : State) (f : Nat → Nat → Res) : Res :=
  if 2 ^ 24 ≤ v.toNat then .trap 0x0C v else f (coreIn s.cur (bits v.toNat 23 21)) (bits v.toNat 20 15)

/-! ## The allocator (R141) -/

/-- The lowest start of `n` free banks. -/
def freeRun (k : Core) (n : Nat) : Option Nat :=
  (List.range (65 - n)).find? fun b => (List.range n).all fun i => (find (b + i) k.bands).isNone

/-- AALLOC: each bank cleared, FP32, unpaired, owned by the caller. -/
def execAalloc (g : BitVec 3) (d a : BitVec 6) (s : State) : Host.Outcome State Fault Refusal :=
  plain (.aalloc g d a) g (fun s =>
    let n := (sreg a s).toNat
    let none_ := lockS d (BitVec.allOnes 64) s
    if n = 0 ∨ 64 < n then none_
    else match freeRun (myCore s) n with
      | none => none_
      | some b =>
        let own := ownNumber s
        let bs := (List.range n).map (b + ·)
        lockS d (BitVec.ofNat 64 b) (modCore (myK s) (fun k =>
          { k with bands := bs.foldl (fun m i => upd i ⟨own, false, false⟩ m) k.bands
                   acc := clearBanks bs k.acc }) s)) s

/-- A change of the banks of a range that the caller owns. -/
def onRange (i : Instr) (g : BitVec 3) (a b : BitVec 6) (f : List Nat → Core → Core) (s : State) :
    Host.Outcome State Fault Refusal :=
  slot i g (fun s => afterCall s (accArg (sreg a s) s fun k b0 =>
    let n := (sreg b s).toNat
    if n = 0 then .ok s
    else if 64 < b0 + n then .trap 0x0C (sreg a s)
    else
      let bs := widened (coreAt k s) b0 n
      if bs.all (ownedBy (coreAt k s) (ownNumber s)) then .ok (modCore k (f bs) s)
      else .trap 0x0E (sreg a s))) s

/-- AFREE. -/
def execAfree (g : BitVec 3) (a b : BitVec 6) (s : State) : Host.Outcome State Fault Refusal :=
  onRange (.afree g a b) g a b (fun bs k =>
    { k with bands := k.bands.filter fun p => !bs.contains p.1 }) s

/-- ACLR: the kind becomes FP32, pairing is kept. -/
def execAclr (g : BitVec 3) (a b : BitVec 6) (s : State) : Host.Outcome State Fault Refusal :=
  onRange (.aclr g a b) g a b (fun bs k =>
    { k with bands := k.bands.map fun p => (p.1, if bs.contains p.1 then { p.2 with int := false } else p.2)
             acc := clearBanks bs k.acc }) s

/-- ABAND: a pair moves whole (R17). -/
def execAband (g : BitVec 3) (a b : BitVec 6) (s : State) : Host.Outcome State Fault Refusal :=
  slot (.aband g a b) g (fun s => afterCall s (accArg (sreg a s) s fun k b0 =>
    let bs := widened (coreAt k s) b0 1
    if 15 < (sreg b s).toNat then .trap 0x0C (sreg a s)
    else if bs.all (ownedBy (coreAt k s) (ownNumber s)) then
      .ok (modCore k (fun c => { c with bands := c.bands.map fun p =>
        (p.1, if bs.contains p.1 then { p.2 with owner := (sreg b s).toNat } else p.2) }) s)
    else .trap 0x0E (sreg a s))) s

/-- AOWN. -/
def execAown (g : BitVec 3) (d a : BitVec 6) (s : State) : Host.Outcome State Fault Refusal :=
  slot (.aown g d a) g (fun s => afterCall s (accArg (sreg a s) s fun k b =>
    let v := match find ((widened (coreAt k s) b 1).headD b) (coreAt k s).bands with
      | none => BitVec.allOnes 64
      | some x => BitVec.ofNat 64 ((if x.paired then 512 else 0) + (if x.int then 256 else 0) + x.owner)
    .ok (lockS d v s))) s

/-- ABSTAT. -/
def execAbstat (g : BitVec 3) (d : BitVec 6) (s : State) : Host.Outcome State Fault Refusal :=
  slot (.abstat g d) g (fun s => afterCall s
    (.ok (lockS d (BitVec.ofNat 64 ((List.range 64).foldl (fun v b =>
      if (find b (myCore s).bands).isSome then v + 2 ^ b else v) 0)) s))) s

/-! ## Segments of a row (R142) -/

/-- The format code of an F field (R60). -/
def accFmt (f : BitVec 2) : Nat := if f = 3 then 9 else f.toNat

/-- Lanes of an F field, and their bytes. -/
def accLanes (f : BitVec 2) : Nat := if f = 1 ∨ f = 2 then 128 else 64
def accBytes (f : BitVec 2) : Nat := if f = 1 ∨ f = 2 then 2 else 4

/-- The address of a segment, checked: s[sa] + s[sb]; its core, bank, row, column. -/
def segment (a b : BitVec 6) (f : BitVec 2) (s : State) (r : Nat → Nat → Nat → Nat → Word → Res) : Res :=
  afterCall s (accArg (sreg a s + sreg b s) s fun k bank =>
    let v := sreg a s + sreg b s
    let col := bits v.toNat 9 0
    if 1024 < col + accLanes f then .trap 0x0C v else r k bank (bits v.toNat 14 10) col v)

/-- The exact value of an element under a rounding mode: hi + lo of a pair, with the flags of that sum (R106, R110). -/
def elemValue (c : Core) (d : Band) (mode bank row col : Nat) : Num × Flags :=
  if d.paired then (fp32.dec false (accAt c bank row col)).add mode (fp32.dec false (accAt c (bank + 1) row col))
  else if d.int then (ofInt false (signed 32 (accAt c bank row col)) 0, 0)
  else (fp32.dec false (accAt c bank row col), 0)

/-- An element converted to a format, with the one rounding of R25. -/
def elemAs (c : Core) (d : Band) (fmt mode : Nat) (fo : Bool) (bank row col : Nat) : Nat × Flags :=
  let (v, f) := elemValue c d mode bank row col
  let (x, h) := writeElem fmt mode fo false v
  (x, f ||| h)

/-- Flush a subnormal FP32 pattern under fo. -/
def flush32 (fo : Bool) (x : Nat) : Nat × Flags :=
  if fo && decide (x / 2 ^ 23 % 256 = 0) && decide (x % 2 ^ 23 ≠ 0) then
    (x / 2 ^ 31 * 2 ^ 31, fUF ||| fNX) else (x, 0)

/-- An element as AREAD delivers it. -/
def accOut (c : Core) (d : Band) (f : BitVec 2) (mode : Nat) (fo : Bool) (bank row col : Nat) : Nat × Flags :=
  let x := accAt c bank row col
  if !d.paired && f == 0 && !d.int then flush32 fo x
  else if !d.paired && f == 3 && d.int then (x, 0)
  else elemAs c d (accFmt f) mode fo bank row col

/-- AREAD (R20, R142). -/
def execAread (g : BitVec 3) (v a b : BitVec 6) (f : BitVec 2) (o : BitVec 1) (s : State) :
    Host.Outcome State Fault Refusal :=
  slot (.aread g v a b f o) g (fun s => segment a b f s fun k bank row col t =>
    let c := coreAt k s
    let n := accLanes f
    match find bank c.bands with
    | none => withDest v s fun e s => .ok (putV e 0 6 (raise fAUR s))
    | some d =>
      if d.owner ≠ ownNumber s then .trap 0x0E t
      else if d.paired && (f == 3 || bank % 2 == 1) then .trap 0x0C t
      else withDest v s fun e s =>
        let l := (List.range n).map fun i => accOut c d f (rmodeOf s) (o == 1) bank row (col + i)
        .ok (putLanes e (accBytes f) 6 l s)) s

/-- A row segment that is written: allocated, owned, not a pair's upper bank. -/
def owned (a b : BitVec 6) (f : BitVec 2) (s : State) (r : Nat → Band → Nat → Nat → Nat → Word → Res) : Res :=
  segment a b f s fun k bank row col t =>
    match find bank (coreAt k s).bands with
    | none => .trap 0x0E t
    | some d =>
      if d.owner ≠ ownNumber s then .trap 0x0E t
      else if d.paired && (f == 3 || bank % 2 == 1) then .trap 0x0C t
      else r k d bank row col t

/-- A lane as AWRITE stores it. -/
def accIn (f : BitVec 2) (fo : Bool) (x : Nat) : Nat × Flags :=
  if f = 3 then (x, 0) else if f = 0 then flush32 fo x
  else rne32 fo ((vfmt f).dec false x, 0)

/-- Store a row segment: hi and lo where the band is a pair. -/
def putRow (paired : Bool) (bank row col : Nat) (l : List (Nat × Nat)) (m : Map (BitVec 32)) :
    Map (BitVec 32) :=
  l.zipIdx.foldl (fun m p =>
    let m1 := put 0 (accKey bank row (col + p.2)) (BitVec.ofNat 32 p.1.1) m
    if paired then put 0 (accKey (bank + 1) row (col + p.2)) (BitVec.ofNat 32 p.1.2) m1 else m1) m

/-- AWRITE. -/
def execAwrite (g : BitVec 3) (v a b : BitVec 6) (f : BitVec 2) (o : BitVec 1) (s : State) :
    Host.Outcome State Fault Refusal :=
  slot (.awrite g v a b f o) g (fun s => owned a b f s fun k d bank row col _ => withVec v s fun x s =>
    let l := (lanes (accBytes f) (accLanes f) x).map (accIn f (o == 1))
    .ok (raise (flagsOf l) (modCore k (fun c =>
      { c with acc := putRow d.paired bank row col (l.map fun p => (p.1, 0)) c.acc
               bands := adj bank (fun d => { d with int := f == 3 }) c.bands }) s))) s

/-- A lane added to an element (R116, R118, R119). -/
def accAdd (c : Core) (d : Band) (f : BitVec 2) (bank row col x : Nat) : (Nat × Nat) × Flags :=
  let old := accAt c bank row col
  if d.int then
    let (v, h) := limit 32 (signed 32 old + signed 32 x)
    ((v, 0), h)
  else
    let y := (vfmt f).dec false x
    if d.paired then foldPair false (old, accAt c (bank + 1) row col) y
    else
      let (v, h) := fold32 false old y
      ((v, 0), h)

/-- AACC: the format's kind must be the band's. -/
def execAacc (g : BitVec 3) (v a b : BitVec 6) (f : BitVec 2) (s : State) :
    Host.Outcome State Fault Refusal :=
  slot (.aacc g v a b f) g (fun s => owned a b f s fun k d bank row col t =>
    if d.int != (f == 3) then .trap 0x0C t
    else withVec v s fun x s =>
      let l := (lanes (accBytes f) (accLanes f) x).zipIdx.map fun p =>
        accAdd (coreAt k s) d f bank row (col + p.2) p.1
      .ok (raise (flagsOf l) (modCore k (fun c =>
        { c with acc := putRow d.paired bank row col (l.map (·.1)) c.acc }) s))) s

/-! ## ADRAIN (R18, R19, R143) -/

/-- One row of a drain: the bytes and their flags. -/
def drainRow (c : Core) (d : Option Band) (fmt bank row col n : Nat) : List Byte × Flags :=
  let l := (List.range n).map fun j => match d with
    | none => (0, 0)
    | some d => elemAs c d fmt 0 false bank row (col + j)
  ((l.map fun p => leBytes (fmtBits fmt / 8) p.1).flatten, flagsOf l)

/-- The rows of a drain, in rising order: each is held as a store. -/
def drainRows (c : Core) (d : Option Band) (fmt bank col n : Nat) (stride : Nat) :
    List Nat → Nat → State → Except Nat State
  | [], _, s => .ok s
  | r :: l, a, s =>
    let (b, f) := drainRow c d fmt bank r col n
    match store (a % 2 ^ 64) b false (raise f s) with
    | .error t => .error t
    | .ok s1 => drainRows c d fmt bank col n stride l (a + stride) s1

/-- ADRAIN. -/
def execAdrain (g : BitVec 3) (d a c : BitVec 6) (f : BitVec 4) (s : State) :
    Host.Outcome State Fault Refusal :=
  slot (.adrain g d a c f) g (fun s => afterCall s (accArg (sreg a s) s fun k bank =>
    let v := (sreg a s).toNat
    let n := (sreg c s).toNat
    let rows := bits n 31 16
    let cols := bits n 15 0
    let row := bits v 14 10
    let col := bits v 9 0
    let kc := coreAt k s
    let go := fun (b : Option Band) (s : State) => orTrap 0x09
      (drainRows kc b f.toNat bank col cols (n / 2 ^ 32) ((List.range rows).map (row + ·)) (sreg d s).toNat s)
      fun s1 => .ok s1
    if rows = 0 ∨ cols = 0 then .ok s
    else if 32 < row + rows ∨ 1024 < col + cols then .trap 0x0C (sreg a s)
    else match find bank kc.bands with
      | none => go none (raise fAUR s)
      | some b =>
        if b.owner ≠ ownNumber s then .trap 0x0E (sreg a s)
        else if b.paired && bank % 2 == 1 then .trap 0x0C (sreg a s)
        else go (some b) s)) s

end Sys2Proof.Machine
end

