-- ==== Sys2Proof/Machine/Domain.lean ====
section
/-! DEFINITION. Majors 0x34 and 0x36: the domain unit (R236 to R243, R247 to R256). -/

namespace Sys2Proof.Machine

/-! ## Sets of values (R236, R248) -/

/-- The domain of every value from lo to hi. -/
def Dom.span (lo hi : Int) : Option Dom := Dom.tight lo hi (2 ^ 64 - 1)

/-- The number of values. -/
def Dom.size (d : Dom) : Nat :=
  match d.mask with
  | some m => countOnes 64 m.toNat
  | none => (d.hi - d.lo + 1).toNat

/-- The values of a domain with a valid mask. -/
def Dom.vals (d : Dom) : List Int :=
  match d.mask with
  | some m => (List.range 64).filterMap fun i => if bit m.toNat i then some (d.lo + i) else none
  | none => []

/-- Whether a value is in a domain. -/
def Dom.has (d : Dom) (v : Int) : Bool :=
  decide (d.lo ≤ v) && decide (v ≤ d.hi) && (match d.mask with
    | some m => bit m.toNat (v - d.lo).toNat
    | none => true)

/-- A set that a domain is narrowed by: an interval, listed values, the multiples k·x for x of an
interval, everything but one value. -/
inductive Keep
  | iv (lo hi : Int)
  | vals (l : List Int)
  | mult (k lo hi : Int)
  | without (v : Int)
  deriving DecidableEq, Repr

def Keep.has (v : Int) : Keep → Bool
  | .iv lo hi => decide (lo ≤ v ∧ v ≤ hi)
  | .vals l => l.contains v
  | .mult k lo hi => decide (v % k = 0 ∧ lo ≤ v / k ∧ v / k ≤ hi)
  | .without w => decide (v ≠ w)

/-- The smallest interval around values. -/
def spanOf : List Int → Option Dom
  | [] => none
  | v :: l => Dom.span (l.foldl min v) (l.foldl max v)

/-- The least multiple of k at or above v, and the greatest at or below it (k > 0). -/
def ceilTo (k v : Int) : Int := -((-v) / k) * k
def floorTo (k v : Int) : Int := v / k * k

/-- Narrow a domain: exactly where its mask is valid, else to the interval of the values kept. -/
def Dom.cut (x : Dom) (k : Keep) : Option Dom :=
  match x.mask with
  | some m =>
    let keep := (List.range 64).foldl (fun n i =>
      if bit m.toNat i && k.has (x.lo + i) then n + 2 ^ i else n) 0
    Dom.tight x.lo x.hi keep
  | none => match k with
    | .iv lo hi => Dom.span (max x.lo lo) (min x.hi hi)
    | .vals l => spanOf (l.filter fun v => decide (x.lo ≤ v ∧ v ≤ x.hi))
    | .mult k lo hi =>
      let a := k.natAbs
      Dom.span (ceilTo a (max x.lo (min (k * lo) (k * hi)))) (floorTo a (min x.hi (max (k * lo) (k * hi))))
    | .without v => Dom.span (if v = x.lo then x.lo + 1 else x.lo) (if v = x.hi then x.hi - 1 else x.hi)

/-! ## Relations (Tables 14.1, 14.2) -/

/-- A relation as its slot's fields: the minor, d, a, b. -/
structure Rel where
  minor : Nat
  d : Nat
  a : Nat
  b : Nat
  deriving DecidableEq, Repr

/-- Slot bits [21:0] of a relation (Table 14.8), and back. -/
def relBits (minor : Nat) (d a b : BitVec 5) : BitVec 22 :=
  BitVec.ofNat 22 (d.toNat * 2 ^ 17 + a.toNat * 2 ^ 12 + b.toNat * 2 ^ 7 + 64 + minor)

def relFrom (w : BitVec 22) : Option Rel :=
  if w.getLsbD 6 then
    some ⟨bits w.toNat 5 0, bits w.toNat 21 17, bits w.toNat 16 12, bits w.toNat 11 7⟩
  else none

/-- The domain registers a relation names (R250). -/
def Rel.names (r : Rel) : List Nat :=
  match r.minor with
  | 0 => [r.d, r.a, r.b]
  | 1 => [r.d, r.a, r.b]
  | 6 => [r.d, r.a]
  | 7 => (List.range r.a).map (r.d + ·)
  | _ => [r.a, r.b]

/-- The domains of an execution and those it has changed. -/
abbrev Work := Map Dom × List Nat

def dom (D : Map Dom) (i : Nat) : Dom := look Dom.full i D

/-- One narrowing of register `i`; an error names the register it empties. -/
def narrow (i : Nat) (k : Option Keep) (w : Work) : Except Nat Work :=
  match k with
  | none => .ok w
  | some k => match (dom w.1 i).cut k with
    | none => .error i
    | some x =>
      if x = dom w.1 i then .ok w
      else .ok (put Dom.full i x w.1, if w.2.contains i then w.2 else i :: w.2)

/-- A step of a relation: the register it narrows and the set. -/
abbrev DStep := Nat × (Map Dom → Option Keep)

/-- The steps in order. -/
def runSteps : List DStep → Work → Except Nat Work
  | [], w => .ok w
  | (i, f) :: l, w => match narrow i (f w.1) w with
    | .error e => .error e
    | .ok w1 => runSteps l w1

/-- The steps again and again until none changes anything. -/
def fixSteps (l : List DStep) : Nat → Work → Except Nat Work
  | 0, w => .ok w
  | n + 1, w => match runSteps l w with
    | .error e => .error e
    | .ok w1 => if w1.1 = w.1 then .ok w1 else fixSteps l n w1

def toZero (i : Nat) : List DStep := [(i, fun _ => some (.iv 0 0))]

/-- d = k·a for k ≠ 0. -/
def mulSteps (d a : Nat) (k : Int) : List DStep :=
  [(d, fun D => let x := dom D a
      match x.mask with
      | some _ => some (.vals (x.vals.map (k * ·)))
      | none => some (.mult k x.lo x.hi)),
   (a, fun D => let y := dom D d
      match y.mask with
      | some _ => some (.vals (y.vals.filterMap fun v => if v % k = 0 then some (v / k) else none))
      | none =>
        let n : Int := k.natAbs
        let lo := -((-y.lo) / n)
        let hi := y.hi / n
        some (if 0 < k then .iv lo hi else .iv (-hi) (-lo)))]

/-- A domain as a narrowing set. -/
def Dom.keep (x : Dom) : Keep :=
  match x.mask with
  | some _ => .vals x.vals
  | none => .iv x.lo x.hi

/-- The value of a singleton, to be removed. -/
def Dom.single (x : Dom) : Option Keep := if x.size = 1 then some (.without x.lo) else none

/-- The steps of a relation, with the meanings of Table 14.2 where operands coincide. -/
def Rel.steps (r : Rel) : List DStep :=
  let d := r.d
  let a := r.a
  let b := r.b
  match r.minor with
  | 0 =>
    if d = a then toZero (if a = b then d else b)
    else if d = b then toZero a
    else if a = b then mulSteps d a 2
    else
      [(d, fun D => some (.iv ((dom D a).lo + (dom D b).lo) ((dom D a).hi + (dom D b).hi))),
       (a, fun D => some (.iv ((dom D d).lo - (dom D b).hi) ((dom D d).hi - (dom D b).lo))),
       (b, fun D => some (.iv ((dom D d).lo - (dom D a).hi) ((dom D d).hi - (dom D a).lo)))]
  | 1 =>
    if a = b then toZero d
    else if d = a then toZero b
    else if d = b then mulSteps a d 2
    else
      [(d, fun D => some (.iv ((dom D a).lo - (dom D b).hi) ((dom D a).hi - (dom D b).lo))),
       (a, fun D => some (.iv ((dom D d).lo + (dom D b).lo) ((dom D d).hi + (dom D b).hi))),
       (b, fun D => some (.iv ((dom D a).lo - (dom D d).hi) ((dom D a).hi - (dom D d).lo)))]
  | 2 =>
    [(a, fun D => some (.iv (dom D a).lo (dom D b).hi)), (b, fun D => some (.iv (dom D a).lo (dom D b).hi))]
  | 3 =>
    if a = b then [(a, fun _ => some (.iv 1 0))]
    else
      [(a, fun D => some (.iv (dom D a).lo ((dom D b).hi - 1))),
       (b, fun D => some (.iv ((dom D a).lo + 1) (dom D b).hi))]
  | 4 => [(a, fun D => some (dom D b).keep), (b, fun D => some (dom D a).keep)]
  | 5 =>
    if a = b then [(a, fun _ => some (.iv 1 0))]
    else [(b, fun D => (dom D a).single), (a, fun D => (dom D b).single)]
  | 6 =>
    let k := signed 5 b
    if d = a then (if k = 1 then [] else toZero d)
    else if k = 0 then toZero d
    else mulSteps d a k
  | _ =>
    let g := (List.range a).map (d + ·)
    (g.map fun i => (g.filter (· ≠ i)).map fun j => (j, fun D => (dom D i).single)).flatten

/-- The pigeonhole check of DALLD: fewer values than registers. -/
def Rel.pigeon (r : Rel) (D : Map Dom) : Bool :=
  let g := (List.range r.a).map (r.d + ·)
  g.all (fun i => decide ((dom D i).size < r.a)) &&
    decide (((g.map fun i => (dom D i).vals).flatten.eraseDups).length < r.a)

/-- One execution of a relation, to its own fixed point (R240, R251): every round but the last removes a
value. -/
def Rel.exec (r : Rel) (D : Map Dom) : Except Nat Work :=
  match fixSteps r.steps ((r.names.map fun i => (dom D i).size).sum + 1) (D, []) with
  | .error e => .error e
  | .ok w => if r.minor = 7 && r.pigeon w.1 then .error r.d else .ok w

/-! ## Propagation (R239) -/

/-- The marks, as a mask, of the entries other than `own` that name one of the changed domains. -/
def marksOf (ch : List Nat) (own : Nat) : List (BitVec 22) → Nat → Nat
  | [], _ => 0
  | e :: l, n =>
    let hit := match relFrom e with
      | some r => r.names.any fun i => ch.contains i
      | none => false
    (if hit && decide (n ≠ own) then 2 ^ n else 0) + marksOf ch own l (n + 1)

/-- What a propagation leaves: the domains, the count, whether the budget cut it. -/
structure Propd where
  doms  : Map Dom
  count : Nat
  cut   : Bool
  deriving DecidableEq, Repr

/-- Execute pending entries, the lowest first, at most `n` more. An error is the entry and the domain. -/
def propagate (es : List (BitVec 22)) : Nat → Nat → Map Dom → Nat → Except (Nat × Nat) Propd
  | n, pend, D, c =>
    match (List.range es.length).find? (bit pend) with
    | none => .ok ⟨D, c, false⟩
    | some j => match n with
      | 0 => .ok ⟨D, c, true⟩
      | n + 1 =>
        let p1 := pend - 2 ^ j
        match relFrom (nth 0 j es) with
        | none => propagate es n p1 D (c + 1)
        | some r => match r.exec D with
          | .error e => .error (j, e)
          | .ok (D1, ch) => propagate es n (Nat.lor p1 (marksOf ch j es 0)) D1 (c + 1)

/-- TVAL of a failure (Table 13.3). -/
def failVal (entry d : Nat) : Word := BitVec.ofNat 64 (entry * 256 + d)

def modDom (f : DomUnit → DomUnit) (s : State) : State := modMe (fun x => { x with dom := f x.dom }) s

/-- Propagate from domains with marks, under the budget; then REXEC, and PCUT where it was cut. -/
def propagated (es : List (BitVec 22)) (pend : Nat) (D : Map Dom) (s : State) : Res :=
  match propagate es (me s).dbound.toNat pend D 0 with
  | .error (j, e) => .trap 0x10 (failVal j e)
  | .ok p =>
    let s1 := modDom (fun d => { d with doms := p.doms, standing := es, rexec := BitVec.ofNat 32 p.count }) s
    .ok (if p.cut then raise fPCUT s1 else s1)

/-! ## DREL -/

/-- A relation slot (R250). -/
def drel (i : Instr) (g : BitVec 3) (minor : Nat) (d a b : BitVec 5) (st : BitVec 1) (s : State) :
    Host.Outcome State Fault Refusal :=
  slot i g (fun s =>
    let u := (me s).dom
    if st = 1 ∧ 64 ≤ u.standing.length then .trap 0x11 3
    else
      let es := if st = 1 then u.standing ++ [relBits minor d a b] else u.standing
      let own := if st = 1 then u.standing.length else 64
      match (Rel.mk minor d.toNat a.toNat b.toNat).exec u.doms with
      | .error e => .trap 0x10 (failVal 0xFF e)
      | .ok (D, ch) => propagated es (marksOf ch own es 0) D s) s

/-- DADD. -/
def execDadd (g : BitVec 3) (d a b : BitVec 5) (t : BitVec 1) (s : State) :
    Host.Outcome State Fault Refusal := drel (.dadd g d a b t) g 0 d a b t s

/-- DSUB. -/
def execDsub (g : BitVec 3) (d a b : BitVec 5) (t : BitVec 1) (s : State) :
    Host.Outcome State Fault Refusal := drel (.dsub g d a b t) g 1 d a b t s

/-- DLE. -/
def execDle (g : BitVec 3) (a b : BitVec 5) (t : BitVec 1) (s : State) :
    Host.Outcome State Fault Refusal := drel (.dle g a b t) g 2 0 a b t s

/-- DLT. -/
def execDlt (g : BitVec 3) (a b : BitVec 5) (t : BitVec 1) (s : State) :
    Host.Outcome State Fault Refusal := drel (.dlt g a b t) g 3 0 a b t s

/-- DEQ. -/
def execDeq (g : BitVec 3) (a b : BitVec 5) (t : BitVec 1) (s : State) :
    Host.Outcome State Fault Refusal := drel (.deq g a b t) g 4 0 a b t s

/-- DNE. -/
def execDne (g : BitVec 3) (a b : BitVec 5) (t : BitVec 1) (s : State) :
    Host.Outcome State Fault Refusal := drel (.dne g a b t) g 5 0 a b t s

/-- DMULK. -/
def execDmulk (g : BitVec 3) (d a k : BitVec 5) (t : BitVec 1) (s : State) :
    Host.Outcome State Fault Refusal := drel (.dmulk g d a k t) g 6 d a k t s

/-- DALLD. -/
def execDalld (g : BitVec 3) (d c : BitVec 5) (t : BitVec 1) (s : State) :
    Host.Outcome State Fault Refusal := drel (.dalld g d c t) g 7 d c 0 t s

/-! ## DCTL -/

/-- A domain register takes a new set; the entries that name it run where it changed (R237, R254). -/
def setDom (i : Nat) (x : Option Dom) (s : State) : Res :=
  let u := (me s).dom
  match x with
  | none => .trap 0x10 (failVal 0xFF i)
  | some x =>
    if x = dom u.doms i then .ok s
    else
      let D := put Dom.full i x u.doms
      let pend := marksOf [i] 64 u.standing 0
      if pend = 0 then .ok (modDom (fun d => { d with doms := D }) s) else propagated u.standing pend D s

/-- The signed 32-bit value at bit `lo` of a scalar. -/
def int32At (s : Word) (lo : Nat) : Int := signed 32 (bits s.toNat (lo + 31) lo)

/-- DSETS: replaces the contents. -/
def execDsets (g : BitVec 3) (d : BitVec 5) (a : BitVec 6) (s : State) :
    Host.Outcome State Fault Refusal :=
  slot (.dsets g d a) g (fun s =>
    setDom d.toNat (Dom.span (int32At (sreg a s) 0) (int32At (sreg a s) 32)) s) s

/-- DSETV. -/
def execDsetv (g : BitVec 3) (d : BitVec 5) (a : BitVec 6) (s : State) :
    Host.Outcome State Fault Refusal :=
  slot (.dsetv g d a) g (fun s =>
    let v := int32At (sreg a s) 0
    setDom d.toNat ((dom (me s).dom.doms d.toNat).cut (.iv v v)) s) s

/-- DREM. -/
def execDrem (g : BitVec 3) (d : BitVec 5) (a : BitVec 6) (s : State) :
    Host.Outcome State Fault Refusal :=
  slot (.drem g d a) g (fun s =>
    setDom d.toNat ((dom (me s).dom.doms d.toNat).cut (.without (int32At (sreg a s) 0))) s) s

/-- DLO. -/
def execDlo (g : BitVec 3) (d : BitVec 5) (a : BitVec 6) (s : State) :
    Host.Outcome State Fault Refusal :=
  plain (.dlo g d a) g (fun s => lockS a (BitVec.ofInt 64 (dom (me s).dom.doms d.toNat).lo) s) s

/-- DHI. -/
def execDhi (g : BitVec 3) (d : BitVec 5) (a : BitVec 6) (s : State) :
    Host.Outcome State Fault Refusal :=
  plain (.dhi g d a) g (fun s => lockS a (BitVec.ofInt 64 (dom (me s).dom.doms d.toNat).hi) s) s

/-- DSIZE. -/
def execDsize (g : BitVec 3) (d : BitVec 5) (a : BitVec 6) (s : State) :
    Host.Outcome State Fault Refusal :=
  plain (.dsize g d a) g (fun s => lockS a (BitVec.ofNat 64 (dom (me s).dom.doms d.toNat).size) s) s

/-- DCKPT (R242). -/
def execDckpt (g : BitVec 3) (a : BitVec 6) (s : State) : Host.Outcome State Fault Refusal :=
  slot (.dckpt g a) g (fun s =>
    let u := (me s).dom
    if 16 ≤ u.ckpts.length then .trap 0x11 1
    else .ok (modDom (fun d =>
      { d with ckpts := ⟨u.doms, u.standing.length, sreg a s⟩ :: u.ckpts }) s)) s

/-- DREST: entries that a DCLRS removed do not come back (R256). -/
def execDrest (g : BitVec 3) (a : BitVec 6) (s : State) : Host.Outcome State Fault Refusal :=
  slot (.drest g a) g (fun s =>
    match (me s).dom.ckpts with
    | [] => .trap 0x11 2
    | c :: l => .ok (lockS a c.resume (modDom (fun d =>
        { d with doms := c.doms, standing := d.standing.take c.scount, ckpts := l }) s))) s

/-- DDROP. -/
def execDdrop (g : BitVec 3) (s : State) : Host.Outcome State Fault Refusal :=
  slot (.ddrop g) g (fun s =>
    match (me s).dom.ckpts with
    | [] => .trap 0x11 2
    | _ :: l => .ok (modDom (fun d => { d with ckpts := l }) s)) s

/-- DPROP. -/
def execDprop (g : BitVec 3) (s : State) : Host.Outcome State Fault Refusal :=
  slot (.dprop g) g (fun s =>
    let u := (me s).dom
    propagated u.standing (2 ^ u.standing.length - 1) u.doms s) s

/-- DCLRS. -/
def execDclrs (g : BitVec 3) (s : State) : Host.Outcome State Fault Refusal :=
  plain (.dclrs g) g (modDom fun d => { d with standing := [] }) s

/-- DMEMB. -/
def execDmemb (g : BitVec 3) (d : BitVec 5) (p : BitVec 4) (a : BitVec 6) (s : State) :
    Host.Outcome State Fault Refusal :=
  plain (.dmemb g d p a) g (fun s =>
    let yes := (dom (me s).dom.doms d.toNat).has (int32At (sreg a s) 0)
    lockP p (if yes then BitVec.allOnes 256 else 0) s) s

end Sys2Proof.Machine
end

