-- ==== Sys2Proof/Machine/FrontOps.lean ====
section
/-! DEFINITION. Major 0x37: the front registers (R287 to R290, R297 to R301). -/

namespace Sys2Proof.Machine

/-! ## Configuration (Table 16.4) -/

/-- Whether a configuration word is legal (R288). -/
def frontOk (w : Nat) : Bool :=
  let cap := bits w 14 8
  decide (w / 2 ^ 18 = 0) && !bit w 15 && !bit w 3 && decide (1 ≤ cap) && decide (cap ≤ 64) &&
    decide (bits w 7 4 / 2 ^ (w % 4 + 1) = 0)

/-- The number of objectives, the capacity, the policy; whether objective j is maximised. -/
def Front.dims (f : Front) : Nat := f.cfg.toNat % 4 + 1
def Front.cap (f : Front) : Nat := bits f.cfg.toNat 14 8
def Front.policy (f : Front) : Nat := bits f.cfg.toNat 17 16
def Front.maxed (f : Front) (j : Nat) : Bool := bit f.cfg.toNat (4 + j)

/-- The value of an objective's bits: INT32 or FP32 (R299). -/
def Front.value (f : Front) (x : BitVec 32) : Num :=
  if bit f.cfg.toNat 2 then fp32.dec false x.toNat else ofInt false (signed 32 x.toNat) 0

/-- The values of a tuple's objectives. -/
def Front.values (f : Front) (o : List (BitVec 32)) : List Num := (o.take f.dims).map f.value

/-! ## Dominance (R290) -/

/-- Whether x is better than y in objective j. -/
def Front.better (f : Front) (j : Nat) (x y : Num) : Bool := if f.maxed j then y.lt x else x.lt y

/-- No objective, from number j on, in which y is better; and one in which x is. -/
def Front.noWorse (f : Front) : Nat → List Num → List Num → Bool
  | j, x :: l, y :: m => !f.better j y x && f.noWorse (j + 1) l m
  | _, _, _ => true

def Front.anyBetter (f : Front) : Nat → List Num → List Num → Bool
  | j, x :: l, y :: m => f.better j x y || f.anyBetter (j + 1) l m
  | _, _, _ => false

/-- Whether the tuple of x dominates that of y. -/
def Front.dominates (f : Front) (x y : List Num) : Bool := f.noWorse 0 x y && f.anyBetter 0 x y

/-- Whether two tuples have the same objectives. -/
def sameTuple : List Num → List Num → Bool
  | x :: l, y :: m => x.eqv y && sameTuple l m
  | _, _ => true

/-! ## Crowding (R290, R299) -/

/-- A gap: the infinite terms, the finite sum. -/
abbrev Gap := Nat × Num

/-- The L1 distance of two tuples. -/
def distOf : List Num → List Num → Gap
  | x :: l, y :: m =>
    let (n, t) := distOf l m
    if x.eqv y then (n, t)
    else if x.isFin && y.isFin then (n, (t.add 0 (x.add 0 y.neg).1.abs).1)
    else (n + 1, t)
  | _, _ => (0, .fin false 0 0)

def gapLt (a b : Gap) : Bool := decide (a.1 < b.1) || (a.1 == b.1 && a.2.lt b.2)

/-- Insert into the objective-0 order, after the tuples that are better or equal. -/
def Front.place (f : Front) (x : List Num × Option Member) :
    List (List Num × Option Member) → List (List Num × Option Member)
  | [] => [x]
  | y :: l =>
    if f.better 0 (x.1.headD .nan) (y.1.headD .nan) then x :: y :: l else y :: f.place x l

/-- The held members with tuples on both sides, each with its gap. -/
def interior : List (List Num × Option Member) → List (Member × Gap)
  | a :: b :: c :: l =>
    let rest := interior (b :: c :: l)
    match b.2 with
    | none => rest
    | some m =>
      let g := distOf b.1 a.1
      let h := distOf b.1 c.1
      (m, (g.1 + h.1, (g.2.add 0 h.2).1)) :: rest
  | _ => []

/-- The member with the smallest gap; a tie goes to the lowest insertion number. -/
def leastGap : List (Member × Gap) → Option (Member × Gap)
  | [] => none
  | x :: l => match leastGap l with
    | none => some x
    | some y =>
      if gapLt y.2 x.2 || (!gapLt x.2 y.2 && decide (y.1.ins < x.1.ins)) then some y else some x

/-- The member that EVICT_CROWDED removes for an arrival with these objectives. -/
def Front.crowded (f : Front) (new : List Num) : Option Member :=
  let order := (f.members.map fun m => (f.values m.obj, some m)).foldl (fun l x => f.place x l) []
  match leastGap (interior (f.place (new, none) order)) with
  | some x => some x.1
  | none => f.members.head?

/-! ## Arrivals -/

/-- One arrival: the front and the flags, or nothing on an overflow under TRAP (R290, R299, R300). -/
def Front.arrive (f : Front) (obj : List (BitVec 32)) (pay : BitVec 32) : Option (Front × Flags) :=
  let x := f.values obj
  let insert := fun (f : Front) =>
    { f with members := f.members ++ [⟨obj.take f.dims, pay, f.ctr⟩], ctr := (f.ctr + 1) % 2 ^ 64 }
  if x.any Num.isNan then some (f, fNV)
  else if f.members.any fun m => f.dominates (f.values m.obj) x || sameTuple (f.values m.obj) x then
    some (f, 0)
  else
    let f1 := { f with members := f.members.filter fun m => !f.dominates x (f.values m.obj) }
    if f1.members.length < f1.cap then some (insert f1, 0)
    else match f1.policy with
      | 0 => some ({ f1 with rej := if f1.rej = BitVec.allOnes 32 then f1.rej else f1.rej + 1 }, fFOVF)
      | 1 => some (insert { f1 with members := f1.members.drop 1 }, fFOVF)
      | 2 =>
        let gone := f1.crowded x
        some (insert { f1 with members := f1.members.filter fun m => some m ≠ gone }, fFOVF)
      | _ => none

/-- Arrivals in order; an error is the position of the one that overflows. -/
def Front.offer : List (List (BitVec 32) × BitVec 32) → Nat → Front × Flags → Except Nat (Front × Flags)
  | [], _, f => .ok f
  | (o, p) :: l, n, (f, fl) => match f.arrive o p with
    | none => .error n
    | some (f1, g) => Front.offer l (n + 1) (f1, fl ||| g)

/-- Front `f` of the acting core. -/
def frontAt (f : BitVec 3) (s : State) : Option Front := find f.toNat (myCore s).fronts

def setFront (f : BitVec 3) (x : Front) (s : State) : State :=
  modCore (myK s) (fun c => { c with fronts := upd f.toNat x c.fronts }) s

/-- The configured front a slot needs. -/
def needFront (f : BitVec 3) (s : State) (r : Front → Res) : Res :=
  match frontAt f s with
  | none => .trap 0x0C 0
  | some x => r x

/-- Offer arrivals to front `f`; an overflow traps (Table 17.3). -/
def offerTo (f : BitVec 3) (x : Front) (src : Nat) (l : List (List (BitVec 32) × BitVec 32)) (s : State) :
    Res :=
  match Front.offer l 0 (x, 0) with
  | .error n => .trap 0x12 (BitVec.ofNat 64 (src * 2 ^ 14 + n * 256 + f.toNat))
  | .ok (y, fl) => .ok (raise fl (setFront f y s))

/-! ## The instructions (Table 17.1) -/

/-- FCFG. -/
def execFcfg (g f : BitVec 3) (a : BitVec 6) (s : State) : Host.Outcome State Fault Refusal :=
  slot (.fcfg g f a) g (fun s =>
    if frontOk (sreg a s).toNat then .ok (setFront f ⟨sreg a s, [], 0, 0⟩ s) else .trap 0x0C (sreg a s)) s

/-- FCLR. -/
def execFclr (g f : BitVec 3) (s : State) : Host.Outcome State Fault Refusal :=
  plain (.fclr g f) g (fun s => match frontAt f s with
    | none => s
    | some x => setFront f ⟨x.cfg, [], 0, 0⟩ s) s

/-- Tuples 0 to n − 1 of a vector (R289). -/
def tuples (n : Nat) (v : VWord) : List (List (BitVec 32) × BitVec 32) :=
  (List.range n).map fun t =>
    ((List.range 4).map fun j => BitVec.ofNat 32 (laneOf v 4 (5 * t + j)), BitVec.ofNat 32 (laneOf v 4 (5 * t + 4)))

/-- FINS. -/
def execFins (g f : BitVec 3) (v a : BitVec 6) (s : State) : Host.Outcome State Fault Refusal :=
  slot (.fins g f v a) g (fun s => needFront f s fun x =>
    if 12 < (sreg a s).toNat then .trap 0x0C (sreg a s)
    else withVec v s fun y s => offerTo f x 0 (tuples (sreg a s).toNat y) s) s

/-- FMERGE. -/
def execFmerge (g f a : BitVec 3) (s : State) : Host.Outcome State Fault Refusal :=
  slot (.fmerge g f a) g (fun s => needFront f s fun x => needFront a s fun y =>
    if (x.cfg ^^^ y.cfg).toNat % 8 ≠ 0 then .trap 0x0C 0
    else offerTo f x 1 (y.members.map fun m => (m.obj, m.pay)) s) s

/-- A member as the five words of a tuple. -/
def memberWords (m : Member) : List Nat :=
  (List.range 4).map (fun j => (nth 0 j m.obj).toNat) ++ [m.pay.toNat]

/-- FREAD. -/
def execFread (g a : BitVec 3) (v b : BitVec 6) (s : State) : Host.Outcome State Fault Refusal :=
  slot (.fread g a v b) g (fun s => needFront a s fun x => withDest v s fun e s =>
    let l := (x.members.drop (sreg b s).toNat).take 12
    .ok (lockV e (ofLanes 4 (l.map memberWords).flatten) s)) s

/-- FCNT. -/
def execFcnt (g a : BitVec 3) (d : BitVec 6) (s : State) : Host.Outcome State Fault Refusal :=
  plain (.fcnt g a d) g (fun s => lockS d (match frontAt a s with
    | none => 0
    | some x => BitVec.ofNat 64 x.members.length) s) s

/-- FREJ. -/
def execFrej (g a : BitVec 3) (d : BitVec 6) (s : State) : Host.Outcome State Fault Refusal :=
  plain (.frej g a d) g (fun s => lockS d (match frontAt a s with
    | none => 0
    | some x => x.rej.setWidth 64) s) s

/-- FSTAT. -/
def execFstat (g a : BitVec 3) (d : BitVec 6) (s : State) : Host.Outcome State Fault Refusal :=
  plain (.fstat g a d) g (fun s => lockS d (match frontAt a s with
    | none => 0
    | some x => x.cfg ||| 0x8000000000000000#64) s) s

end Sys2Proof.Machine
end

