-- ==== Sys2Proof/Machine/WorkOps.lean ====
section
/-! DEFINITION. Launch records and pipeline records (R302 to R304, R315, R316), the acceptance of a launch
(R320, R324, R325); major 0x39: work and queue instructions. -/

namespace Sys2Proof.Machine

/-! ## Launch records (Table 18.2) -/

/-- Doubleword `i` of a record. -/
def wordAt (b : List Byte) (i : Nat) : Nat := leNat ((b.drop (8 * i)).take 8)

/-- The fields of a launch record. -/
def recEntry (b : List Byte) : Nat := wordAt b 0 % 2 ^ 48
def recParam (b : List Byte) : Nat := wordAt b 1 % 2 ^ 48
def recGroup (b : List Byte) : Nat := bits (wordAt b 2) 4 0
def recGang (b : List Byte) : Nat := bits (wordAt b 2) 11 8
def recPrio (b : List Byte) : Nat := bits (wordAt b 2) 18 16
def recHint (b : List Byte) : Nat := bits (wordAt b 2) 31 24
def recQcost (b : List Byte) : Nat := wordAt b 2 / 2 ^ 32
def recPipe (b : List Byte) : Nat := wordAt b 4 % 2 ^ 48
def recDet (b : List Byte) : Bool := bit (wordAt b 5) 0
def recDep (b : List Byte) : Bool := bit (wordAt b 5) 1
def recNgrid (b : List Byte) : Nat := wordAt b 5 / 2 ^ 32
def recState (b : List Byte) : Nat := wordAt b 6 % 4

/-- Whether every zero field of a launch record is zero. -/
def recZeros (b : List Byte) : Bool :=
  decide (wordAt b 0 / 2 ^ 48 = 0) && decide (wordAt b 0 % 16 = 0) && decide (wordAt b 1 / 2 ^ 48 = 0) &&
    decide (wordAt b 1 % 8 = 0) && decide (bits (wordAt b 2) 23 19 = 0) &&
    decide (bits (wordAt b 2) 15 12 = 0) && decide (bits (wordAt b 2) 7 5 = 0) &&
    decide (wordAt b 4 / 2 ^ 48 = 0) && decide (bits (wordAt b 5) 31 2 = 0) &&
    decide (bits (wordAt b 6) 31 16 = 0) && decide (bits (wordAt b 6) 7 2 = 0) && decide (wordAt b 7 = 0)

/-- Whether a launch record is valid, its pipeline record apart (R316). -/
def recOk (b : List Byte) : Bool :=
  recZeros b && decide (1 ≤ recGroup b) && decide (recGroup b ≤ 16) && decide (1 ≤ recGang b) &&
    decide (recGang b ≤ 8) && decide (recHint b ≤ 2) &&
    (decide (recHint b ≠ 2) || decide (recGroup b ≤ 8)) &&
    (if recPipe b = 0 then decide (recEntry b ≠ 0)
     else decide (recEntry b = 0) && decide (recGroup b = 1) && decide (recGang b = 1) &&
       decide (recNgrid b = 0))

/-! ## Pipeline records (Tables 17.5 to 17.7) -/

/-- Whether an address is a bundle start (R54) as an agent reads the word before it; one that it cannot read is none. -/
def startAt (sag vdev a : Nat) (s : State) : Bool :=
  decide (a % 16 = 0) && (decide (a % 4096 = 0) || (match agentRead sag vdev (a - 4) 4 s with
    | some b => bit (leNat b) 31
    | none => false))

/-- A stage record, where it is valid (Table 17.6). -/
def stageFrom (sag vdev nq : Nat) (s : State) (b : List Byte) : Option Stage :=
  let w := wordAt b
  let min := bits (w 1) 12 0
  let max := bits (w 1) 28 16
  let qin := bits (w 2) 4 0
  let qout := bits (w 2) 12 8
  if w 0 / 2 ^ 48 ≠ 0 ∨ startAt sag vdev (w 0) s = false ∨ w 1 / 2 ^ 29 ≠ 0 ∨ bits (w 1) 15 13 ≠ 0 ∨ w 2 / 2 ^ 13 ≠ 0 ∨
      bits (w 2) 7 5 ≠ 0 ∨ leNat (b.drop 24) ≠ 0 ∨ min = 0 ∨ max < min ∨ 4096 < max ∨ nq ≤ qin ∨ nq ≤ qout ∨
      qin = qout then none
  else some
    { entry := BitVec.ofNat 64 (w 0), min := min, max := max, qin := qin, qout := qout, ks := [min],
      cores := [], olds := [] }

/-- A queue record, where it is valid (Table 17.7). -/
def queueFrom (va : Nat) (b : List Byte) : Option OQueue :=
  let w := wordAt b
  let cap := bits (w 0) 8 0
  let size := bits (w 0) 24 16
  let hi := bits (w 1) 8 0
  let lo := bits (w 1) 24 16
  if w 0 / 2 ^ 25 ≠ 0 ∨ bits (w 0) 15 9 ≠ 0 ∨ w 1 / 2 ^ 25 ≠ 0 ∨ bits (w 1) 15 9 ≠ 0 ∨
      leNat (b.drop 16) ≠ 0 ∨ cap < 4 ∨ 256 < cap ∨ size = 0 ∨ 256 < size ∨ cap < hi ∨ hi ≤ lo then none
  else some
    { va := va, cap := cap, size := size, hi := hi, lo := lo, elems := [], next := 0, grants := 0 }

/-- `n` records of 64 bytes from an address, each read by `f`. -/
def records {α : Type} (sag vdev : Nat) (f : Nat → List Byte → Option α) (s : State) :
    Nat → Nat → Option (List α)
  | 0, _ => some []
  | n + 1, va =>
    match agentRead sag vdev va 64 s with
    | none => none
    | some b => match f va b, records sag vdev f s n (va + 64) with
      | some x, some l => some (x :: l)
      | _, _ => none

/-- Whether the stages' queues are wired as R303 gives. -/
def wired (nq : Nat) (st : List Stage) : Bool :=
  (List.range nq).all (fun q => decide ((st.filter fun x => x.qin == q).length ≤ 1) &&
    decide ((st.filter fun x => x.qout == q).length ≤ 1)) &&
  (match st with
   | [] => false
   | x :: _ => st.all fun y => decide (y.qout ≠ x.qin))

/-- A pipeline record, where it is valid (R302, R303). -/
def pipeFrom (sag vdev va : Nat) (s : State) : Option (List Stage × List OQueue) :=
  match agentRead sag vdev va 128 s with
  | none => none
  | some h =>
    let ns := bits (wordAt h 0) 7 0
    let nq := bits (wordAt h 0) 15 8
    if va % 64 ≠ 0 ∨ wordAt h 0 / 2 ^ 16 ≠ 0 ∨ leNat (h.drop 8) ≠ 0 ∨ ns = 0 ∨ 16 < ns ∨ nq = 0 ∨ 32 < nq
    then none
    else match records sag vdev (fun _ => stageFrom sag vdev nq s) s ns (va + 0x80),
        records sag vdev queueFrom s nq (va + 0x80 + 64 * ns) with
      | some st, some qs => if wired nq st then some (st, qs) else none
      | _, _ => none

/-- The reads of a pipeline record (R159). -/
def pipeSeen (sag vdev va : Nat) (pl : Option (List Stage × List OQueue)) (s : State) : State :=
  match pl with
  | none => s
  | some (st, qs) =>
    (st.filter fun x => x.entry.toNat % 4096 ≠ 0).foldl (fun s x => agentSeen sag vdev (x.entry.toNat - 4) 4 s)
      (agentSeen sag vdev va (128 + 64 * (st.length + qs.length)) s)

/-! ## Element storage (R304) -/

/-- The bytes that a pipeline's queues need. -/
def storageOf (qs : List OQueue) : Nat :=
  (qs.map fun q => (q.cap + 1) * ((q.size + 31) / 32 * 32)).sum

/-- The die of a saggar's lead kiln (R304): that of its logical cluster 0 (log entry 86). -/
def leadDie (sag : Nat) (s : State) : Nat := nth 0 0 (sagAt sag s).clusters / 16

/-- The storage in use on a die. -/
def storageUsed (die : Nat) (s : State) : Nat :=
  ((s.pipes.filter fun p => p.2.die == die).map fun p => p.2.bytes).sum

/-- 1 MiB for each die. -/
def storageMax : Nat := 2 ^ 20

/-! ## Acceptance (R320, R324) -/

/-- QUOTA, PRIO and USED of a stream. -/
def qcbQuota (sag qcb : Nat) (s : State) : Nat := agentWord sag 0 (qcb + 32) s % 2 ^ 32
def qcbPrio (sag qcb : Nat) (s : State) : Nat := bits (agentWord sag 0 (qcb + 32) s) 34 32
def qcbUse (sag qcb : Nat) (s : State) : Nat := agentWord sag 0 (qcb + 40) s % 2 ^ 32

/-- Whether a stream's quota has room for a cost. -/
def quotaFits (sag qcb cost : Nat) (s : State) : Bool :=
  decide (qcbUse sag qcb s + cost ≤ qcbQuota sag qcb s)

/-- The gangs of a dealt launch: gang i on logical cluster i mod n (R322). -/
def dealt (n gangs : Nat) : Map (Nat × Nat × Option Nat) :=
  (List.range n).map fun c => (c, (0, (gangs + n - 1 - c) / n, none))

/-- What an acceptance takes from its origin: the caller's task, launch charge and dependence. -/
structure Origin where
  stream : Bool
  owner  : Option Nat
  depd   : Option Nat
  dcap   : Nat
  deriving DecidableEq, Repr

/-- Add an accepted launch: STATE 01, EXITED 0, the quota charged unless dependent, its pipeline made. -/
def acceptLaunch (sag vdev qcb va : Nat) (b : List Byte) (o : Origin)
    (pl : Option (List Stage × List OQueue)) (s : State) : State :=
  let (ln, s1) := fresh s
  let (pn, s2) := fresh s1
  let n := ((sagAt sag s).clusters.filter (· < 512)).length
  let l : Launch :=
    { sag := sag, va := va, vdev := vdev, qcb := qcb, stream := o.stream
      seqno := (sagAt sag s).accSeq
      prio := min (recPrio b) (qcbPrio sag qcb s)
      tstamp := BitVec.ofNat 64 (wordAt b 3)
      hint := recHint b, gang := recGang b, group := recGroup b, ngrid := recNgrid b, det := recDet b
      entry := BitVec.ofNat 64 (recEntry b), param := BitVec.ofNat 64 (recParam b)
      qcost := recQcost b
      charge := if o.depd.isSome then 0 else recQcost b
      depd := o.depd
      dcap := if o.depd.isSome then o.dcap else recQcost b
      pipe := if pl.isSome then some pn else none
      deal := if recDet b && recGang b == 1 && pl.isNone then dealt n (recNgrid b + 1) else []
      rounds := [], next := 0, since := s.phys, running := 0, exited := 0, dead := false, n0 := n }
  let s3 := modSag sag (fun g => { g with accSeq := g.accSeq + 1 })
    { s2 with launches := upd ln l s2.launches }
  let s4 := match pl with
    | none => s3
    | some (st, qs) =>
      let p : Pipe :=
        { sag := sag, launch := ln, va := recPipe b, die := leadDie sag s, bytes := storageOf qs
          stages := st, queues := qs, closed := false, det := recDet b, tick := 0, owner := o.owner
          moves := [] }
      { s3 with pipes := upd pn p s3.pipes }
  settlePipes (qcbCount l 64 1 (qcbUsed l (· + l.charge) (setStatus l 0 0 1 s4)))

/-! ## Work instructions (R324 to R326, R329) -/

/-- The acting sequencer's task, and the launch it belongs to. -/
def myLaunch (s : State) : Option Launch :=
  match find (me s).task s.tasks with
  | none => none
  | some t => find t.launch s.launches

/-- The TASK field of the acting sequencer's task. -/
def myTag (s : State) : Nat :=
  match find (me s).task s.tasks with
  | some t => taskTag t s
  | none => noTask

/-- A launch record read at its home for the acting sequencer, as it was before the bundle's atomics (R29, R188); an error
is the trap's cause and value (R162, R178). -/
def recordAt (r : Nat) (s : State) : Except (Nat × Nat) (List Byte × State) :=
  match place (viewOf s.cur s) s true false false false r with
  | .error t => .error (0x08, t)
  | .ok (.phys pa k, ms) =>
    if homeStops s.cur (.phys pa k) 64 s then .error (0x18, r)
    else
      let s1 := toHome (myK s) pa 64 (noted false ms [] (walked r 64 s))
      .ok ((me s).bun.undo.foldl (fun l t => t.over (.phys pa k) l) (readCells s1.mem pa 64), s1)
  | .ok _ => .error (0x08, r)

/-- Memory as it was before the writes that the bundle's slots have made at their homes (R29). -/
def undone (s : State) : State :=
  (me s).bun.undo.foldl (fun s t => match t.place with
    | .phys pa _ => setMem pa t.bytes s
    | _ => s) s

/-- The status of a LAUNCH and what its commit does (R324, R325): an accepted one releases at pa before the pipeline's
record is read. -/
def launchStep (r : Nat) (b : List Byte) (s : State) : Nat × State :=
  match myLaunch s with
  | none => (1, s)
  | some c =>
    if recState b = 1 then (4, s)
    else if !recOk b then (2, s)
    else
      let sr := release (myK s) 2 s
      let pl := if recPipe b = 0 then none else pipeFrom c.sag (me s).vdev (recPipe b) (undone sr)
      if recPipe b ≠ 0 ∧ pl.isNone then (2, s)
      else if recPipe b ≠ 0 ∧ storageMax < storageUsed (leadDie c.sag s) s +
          storageOf (pl.getD ([], [])).2 then (3, s)
      else
        let take := fun (d : Option Nat) =>
          acceptLaunch c.sag (me s).vdev c.qcb r b ⟨false, some (me s).task, d, c.dcap⟩ pl
            (pipeSeen c.sag (me s).vdev (recPipe b) pl sr)
        if quotaFits c.sag c.qcb (recQcost b) s then (0, take none)
        else if recDep b && decide (recQcost b ≤ c.dcap) then (0, take (some (me s).task))
        else (1, qcbCount c 88 1 (trace c.sag 7 0 (myTag s) noCore noCore r (taskTick (me s).task s) s))

/-- LAUNCH (R324); the release of an accepted one waits as others do. -/
def execLaunch (g : BitVec 3) (d a : BitVec 6) (s : State) : Host.Outcome State Fault Refusal :=
  slot (.launch g d a) g (fun s =>
    if (sreg a s).toNat % 64 ≠ 0 then .trap 0x0B (sreg a s)
    else orFault (recordAt (sreg a s).toNat s) fun (b, s1) =>
      let (st, s2) := launchStep (sreg a s).toNat b s1
      if st = 0 ∧ mustWait true s then .park .busy
      else .ok (lockS d (BitVec.ofNat 64 st) s2)) s

/-- CWAIT (R326): waits while STATE is 01. -/
def execCwait (g : BitVec 3) (d a : BitVec 6) (s : State) : Host.Outcome State Fault Refusal :=
  slot (.cwait g d a) g (fun s =>
    if (sreg a s).toNat % 64 ≠ 0 then .trap 0x0B (sreg a s)
    else orFault (recordAt (sreg a s).toNat s) fun (b, s1) =>
      if recState b = 1 then .park (.cwait (sreg a s).toNat)
      else
        let s2 := lockS d (BitVec.ofNat 64 (wordAt b 6)) s1
        .ok (if 2 ≤ recState b then acquire (myK s2) 2 s2 else s2)) s

/-- LOGMARK (R329); a stage task's record holds its pipeline's tick (R327). -/
def execLogmark (g : BitVec 3) (a : BitVec 6) (s : State) : Host.Outcome State Fault Refusal :=
  plain (.logmark g a) g (fun s =>
    let core := (me s).seqid.toNat / 2
    trace (mySagN s) 8 0 (myTag s) core core ((sreg a s).toNat % 2 ^ 48)
      (taskTick (me s).task s) s) s

/-! ## Queue instructions (R305, R306) -/

/-- The virtual device of a pipeline. -/
def Pipe.vdev (p : Pipe) (s : State) : Nat :=
  match find p.launch s.launches with
  | some l => l.vdev
  | none => 0

/-- The first queue of a list of pipelines with a record address: the pipeline's number, and the queue's. -/
def queueIn (r : Nat) : Map Pipe → Option (Nat × Nat)
  | [] => none
  | (pn, p) :: l =>
    match p.queues.findIdx? fun q => q.va == r with
    | some q => some (pn, q)
    | none => queueIn r l

/-- The queue that an identifier names for the acting task, among the live pipelines of its saggar (R286, R305): in its
own pipeline first, then in one it launched, then in one of its virtual device (log entry 76). -/
def queueOf (r : Nat) (s : State) : Option (Nat × Nat) :=
  let x := me s
  let here := s.pipes.filter fun p => p.2.sag == mySagN s
  let own := fun (pn : Nat) => match find x.task s.tasks with
    | none => false
    | some t => t.stage.any fun st => st.pipe == pn
  queueIn r (here.filter (fun p => own p.1) ++ here.filter (fun p => p.2.owner == some x.task) ++
    here.filter (fun p => p.2.vdev s == x.vdev) ++ here)

/-- The pipeline of a number. -/
def Pipe.none_ : Pipe := ⟨0, 0, 0, 0, 0, [], [], false, false, 0, none, []⟩

def pipeAt (pn : Nat) (s : State) : Pipe := look Pipe.none_ pn s.pipes

def queueAt (pn q : Nat) (s : State) : OQueue := nth OQueue.none_ q (pipeAt pn s).queues

/-- The acting sequencer's part in a pipeline. -/
def myStage (pn : Nat) (s : State) : Option StageTask :=
  match find (me s).task s.tasks with
  | none => none
  | some t => match t.stage with
    | none => none
    | some st => if st.pipe = pn then some st else none

/-- Whether the acting task is a task of the stage given, if one is given. -/
def ofStage (u : Option Nat) (m : Option StageTask) : Bool :=
  match u, m with
  | none, _ => true
  | some u, some st => decide (st.stage = u)
  | some _, none => false

/-- Whether a task of a stage with a number below `n` has not ended, or is still to come (R306). -/
def lowerLive (pn u n : Nat) (s : State) : Bool :=
  (stageTasks pn u s).any (fun x => decide (x.sn < n)) ||
    (queueAt pn (nth Stage.none_ u (pipeAt pn s).stages).qin s).elems.any (fun e => decide (e.sn < n))

/-- COUNT of a queue. -/
def OQueue.count (q : OQueue) : Nat := q.elems.length

/-- Whether the acting sequencer holds the grant of a queue's reserve entry. -/
def grantHeld (pn q : Nat) (s : State) : Bool :=
  match (me s).wait with
  | .qpush p r _ granted _ => decide (p = pn) && decide (r = q) && granted
  | _ => false

/-- A push into the reserve entry: the grant is counted and has its record (R311, R312). -/
def granted (pn q : Nat) (s : State) : State :=
  let p := pipeAt pn s
  let oq := queueAt pn q s
  if oq.count < oq.cap then s
  else modQueue pn q (fun x => { x with grants := x.grants + 1 })
    (trace p.sag 6 8 (myTag s) noCore noCore oq.va (some p.tick) s)

/-- An element enters a queue: a push into the entry queue is one entry tick, and at tick 16m of
deterministic mode the rebalancing rule is applied (R286, R308). -/
def enter (pn q sn : Nat) (data : List Byte) (s : State) : State :=
  let s0 := granted pn q s
  let p := pipeAt pn s0
  let free := (p.source q).isNone
  let s1 := modQueue pn q (fun x =>
    { x with elems := x.elems ++ [⟨sn, data, none⟩], next := if free then x.next + 1 else x.next }) s0
  if q = (nth Stage.none_ 0 p.stages).qin then
    let s2 := modPipe pn (fun p => { p with tick := p.tick + 1 }) s1
    if p.det && decide ((p.tick + 1) % 16 = 0) then rebalance pn (p.tick + 1) (some (p.tick + 1)) s2
    else pipeSettle pn s2
  else pipeSettle pn s1

/-- The queue a slot names, after the checks of Table 17.8 that `ok` makes. -/
def withQueue (a : BitVec 6) (s : State) (ok : Nat → Nat → Bool) (f : Nat → Nat → Res) : Res :=
  match queueOf (sreg a s).toNat s with
  | none => .trap 0x0C (sreg a s)
  | some (pn, q) => if ok pn q then f pn q else .trap 0x0C (sreg a s)

/-- QPUSH: waits for its order, then for a free entry or the granted reserve entry. -/
def execQpush (g : BitVec 3) (v a : BitVec 6) (s : State) : Host.Outcome State Fault Refusal :=
  slot (.qpush g v a) g (fun s =>
    withQueue a s (fun pn q =>
      ofStage ((pipeAt pn s).source q) (myStage pn s) &&
        (!(pipeAt pn s).closed || (myStage pn s).isSome)) fun pn q =>
    withVec v s fun x s =>
      let own := match (pipeAt pn s).source q, myStage pn s with
        | some u, some st => some (u, st.sn)
        | _, _ => none
      let oq := queueAt pn q s
      if (match own with
          | some (u, n) => lowerLive pn u n s
          | none => false) then .park (.qpush pn q true)
      else if oq.cap ≤ oq.count ∧ grantHeld pn q s = false then .park (.qpush pn q false)
      else if mustWait true s then .park .retry
      else
        let sn := match own with
          | some (_, n) => n
          | none => oq.next
        .ok (enter pn q sn (leBytes oq.size x.toNat) (release (myK s) 2 s))) s

/-- The element that a QPOP or QPEEK finds: a stage task's own; else the one reserved for the sequencer,
else the head of those reserved for none. -/
def headOf (q : Nat) (l : List Elem) : Option Nat :=
  match l.findIdx? fun e => e.rsvd == some q with
  | some i => some i
  | none => l.findIdx? fun e => e.rsvd == none

/-- A wait of a queue instruction: one where a pre-emption may land, whatever it waits for (R305, Table 12.6). -/
def Res.landable : Res → Res
  | .park .busy => .park .retry
  | r => r

/-- The shared part of QPOP and QPEEK. -/
def takeElem (peek : Bool) (v a : BitVec 6) (s : State) : Res :=
  withQueue a s (fun pn q => ofStage ((pipeAt pn s).sink q) (myStage pn s) &&
      (peek || ((pipeAt pn s).sink q).isNone || (match myStage pn s with
        | some st => !st.popped
        | none => true))) fun pn q =>
    Res.landable <| withDest v s fun e s =>
      let give := fun (d : List Byte) (s : State) =>
        Res.ok (acquire (myK s) 2 (lockV e (BitVec.ofNat 2048 (leNat d)) s))
      match (pipeAt pn s).sink q, myStage pn s with
      | some _, some st =>
        give st.elem (if peek then s
          else modTask (me s).task (fun t => { t with stage := some { st with popped := true } }) s)
      | _, _ =>
        let l := (queueAt pn q s).elems
        match headOf s.cur l with
        | none => .park .retry
        | some i =>
          let d := (nth ⟨0, [], none⟩ i l).data
          if peek then give d s
          else
            let s1 := modBun (fun b => { b with popped := some (pn, q, i) }) s
            give d (pipeSettle pn (modQueue pn q (fun x => { x with elems := x.elems.eraseIdx i }) s1))

/-- QPOP. -/
def execQpop (g : BitVec 3) (v a : BitVec 6) (s : State) : Host.Outcome State Fault Refusal :=
  slot (.qpop g v a) g (takeElem false v a) s

/-- QPEEK. -/
def execQpeek (g : BitVec 3) (v a : BitVec 6) (s : State) : Host.Outcome State Fault Refusal :=
  slot (.qpeek g v a) g (takeElem true v a) s

/-- The status word of a queue (Table 17.9). -/
def OQueue.status (q : OQueue) : Nat :=
  let n := q.count
  2 ^ 63 + (if q.cap < n then 2 ^ 62 else 0) + (if q.hi < n then 2 ^ 61 else 0) +
    (if n < q.lo then 2 ^ 60 else 0) + min q.grants 65535 * 2 ^ 32 + q.cap * 2 ^ 16 + n

/-- QSTAT: 0 for an unknown queue. -/
def execQstat (g : BitVec 3) (d a : BitVec 6) (s : State) : Host.Outcome State Fault Refusal :=
  plain (.qstat g d a) g (fun s =>
    lockS d (match queueOf (sreg a s).toNat s with
      | none => 0
      | some (pn, q) => BitVec.ofNat 64 (queueAt pn q s).status) s) s

end Sys2Proof.Machine
end

