-- ==== Sys2Proof/Machine/Net.lean ====
section
/-! DEFINITION. The Ethernet ports' memory accesses and the remote copies they carry (R345 to R348, R363 to
R365, Tables 20.1 and 20.5 to 20.7). -/

namespace Sys2Proof.Machine

/-! ## Intermediate addresses (R363): stage 2 only -/

/-- The place of an intermediate address. -/
def iaPlace (sag ia : Nat) (w : Bool) (s : State) : Option (Nat × Nat) :=
  match stage2 (tablesOf sag s) (sagAt sag s).s2root (!w) w false ia with
  | .error _ => none
  | .ok (e, ea, sz) => some (through e sz ia, ea)

/-- Read bytes at an intermediate address. -/
def iaRead (sag : Nat) (s : State) : List (Nat × Nat) → Option (List Byte)
  | [] => some []
  | (a, n) :: l =>
    match iaPlace sag a false s, iaRead sag s l with
    | some (pa, _), some bs => some (readCells (readable s s.mem) pa n ++ bs)
    | _, _ => none

/-- The translation of an intermediate address meets the errors of the tables' lines (R178). -/
def iaTables (sag ia : Nat) (s : State) : State :=
  if s.upsets.isEmpty then s
  else ((stage2Sees (tablesOf sag s) (sagAt sag s).s2root ia).map (· / 128)).eraseDups.foldl
    (fun s ln => heal none (.phys (128 * ln) .so) 128 s) s

/-- A read at intermediate addresses marks the leaves it passes and meets the errors there (R159, R178). -/
def iaSeen (sag a n : Nat) (s : State) : State :=
  (cut a n).foldl (fun s p => let s := iaTables sag p.1 s; match iaPlace sag p.1 false s with
    | none => s
    | some (pa, ea) => heal none (.phys pa .so) p.2 (marked false [ea] s)) s

/-- Write bytes at an intermediate address; none where a piece cannot be written. -/
def iaWrite (sag : Nat) : List (Nat × Nat) → List Byte → State → Option State
  | [], _, s => some s
  | (a, n) :: l, b, s =>
    match iaPlace sag a true s with
    | none => none
    | some (pa, ea) => iaWrite sag l (b.drop n)
        (setMem pa (b.take n) (healStore none (.phys pa .so) n (marked true [ea] s)))

/-- `n` bytes at an intermediate address. -/
def iaBytes (sag a n : Nat) (s : State) : Option (List Byte) := iaRead sag s (cut a n)

/-- A doubleword there; zero where it cannot be read. -/
def iaWord (sag a : Nat) (s : State) : Nat :=
  match iaBytes sag a 8 s with
  | some b => leNat b
  | none => 0

/-- A write there; nothing where it cannot be written. -/
def iaPut (sag a : Nat) (b : List Byte) (s : State) : State := (iaWrite sag (cut a b.length) b s).getD s

/-! ## Ports -/

def portAt (p : Nat) (s : State) : Port := look Port.init p s.ports

def modPort (p : Nat) (f : Port → Port) (s : State) : State :=
  { s with ports := upd p (f (portAt p s)) s.ports }

/-- The lowest-numbered port of a saggar (R346). -/
def portOf (sag : Nat) (s : State) : Option Nat :=
  ((List.range 16).filter fun p => (portAt p s).owner == some sag).head?

/-! ## Frames (R345) -/

/-- The 16-bit field of a frame at an offset. -/
def at16 (b : List Byte) (o : Nat) : Nat := beNat ((b.drop o).take 2)

/-- Replace two bytes at `o`. -/
def put16 (o v : Nat) (b : List Byte) : List Byte := b.take o ++ beBytes 2 v ++ b.drop (o + 2)

/-- The offset of a frame's network header: one 802.1Q tag at most is skipped. -/
def netOff (b : List Byte) : Nat := if at16 b 12 = 0x8100 then 18 else 14

/-- The sum of 16-bit words in network order, a last byte on its own padded with zero. -/
def sum16 : List Byte → Nat
  | [] => 0
  | [a] => a.toNat * 256
  | a :: b :: l => a.toNat * 256 + b.toNat + sum16 l

/-- The ones' complement of the ones' complement sum. -/
def inetSum (n : Nat) : Nat :=
  let f := fun n => n % 65536 + n / 65536
  65535 - f (f (f n))

/-- The offset of a UDP header and the bytes of the addresses of its pseudo-header; a fragment has none. -/
def udpAt (b : List Byte) : Option (Nat × List Byte) :=
  let o := netOff b
  if at16 b (o - 2) = 0x86DD ∧ leNat ((b.drop (o + 6)).take 1) = 17 then some (o + 40, (b.drop (o + 8)).take 32)
  else if at16 b (o - 2) = 0x0800 ∧ leNat ((b.drop (o + 9)).take 1) = 17 ∧ at16 b (o + 6) % 2 ^ 14 = 0 then
    some (o + 4 * (leNat ((b.drop o).take 1) % 16), (b.drop (o + 12)).take 8)
  else none

/-- The sum of a datagram's pseudo-header and its bytes from `u` on. -/
def udpSum (u : Nat) (addrs b : List Byte) : Nat :=
  sum16 addrs + 17 + at16 b (u + 4) + sum16 ((b.drop u).take (at16 b (u + 4)))

/-- Insert the UDP checksum; a sum of zero is sent as all ones. -/
def insertL4 (b : List Byte) : List Byte :=
  match udpAt b with
  | none => b
  | some (u, addrs) =>
    let z := put16 (u + 6) 0 b
    let c := inetSum (udpSum u addrs z)
    put16 (u + 6) (if c = 0 then 65535 else c) z

/-- The priority class of a frame: its tag's, 0 without one. -/
def frameClass (b : List Byte) : Nat := if at16 b 12 = 0x8100 then at16 b 14 / 8192 else 0

/-- Whether a class of a port is paused (802.1Qbb). -/
def Port.paused (now c : Nat) (x : Port) : Bool := decide (now < look 0 c x.pfc)

/-- The frames of the classes no longer paused are sent. -/
def Port.unpause (now : Nat) (x : Port) : Port :=
  let stay := fun b => !x.en || x.paused now (frameClass b)
  { x with pfc := x.pfc.filter fun p => decide (now < p.2)
           waiting := x.waiting.filter stay
           sent := x.sent ++ x.waiting.filter fun b => !stay b }

/-- Whether a frame is a priority-flow-control frame. -/
def isPfc (b : List Byte) : Bool :=
  beNat (b.take 6) == 0x0180C2000001 && at16 b 12 == 0x8808 && at16 b 14 == 0x0101

/-- A priority-flow-control frame pauses classes, or ends their pauses: its times are in quanta of 512 bit times, each
0.64 ns at 800 Gb/s, which is 2.56 cycles (log entry 75). -/
def Port.pause (now : Nat) (b : List Byte) (x : Port) : Port :=
  { x with pfc := (List.range 8).foldl (fun m c =>
      if bit (at16 b 16) c then put 0 c (if at16 b (18 + 2 * c) = 0 then 0
        else now + (at16 b (18 + 2 * c) * 64 + 24) / 25) m
      else m) x.pfc }

/-- Whether a frame must wait: for the end of its class's pause, or behind the frames of its class that wait. -/
def Port.stalls (now : Nat) (b : List Byte) (x : Port) : Bool :=
  x.paused now (frameClass b) || x.waiting.any fun w => frameClass w == frameClass b

/-- A port sends a frame, while EN is set (Table 20.5); it keeps one that must wait. -/
def sendOn (p : Nat) (b : List Byte) (s : State) : State :=
  let x := portAt p s
  if !x.en then s
  else if x.stalls s.phys b then
    modPort p (fun x => { x with waiting := x.waiting ++ [b] }) s
  else modPort p (fun x => { x with sent := x.sent ++ [b] }) s

/-- The MAC address of a port (R368). -/
def macOf (p : Nat) (s : State) : BitVec 48 := s.cfg.macBase + BitVec.ofNat 48 p

/-- The frame of a UDP datagram on IPv6 from a port (R346, R364; log entry 51 for what the spec does not give). -/
def datagram (p : Nat) (dst : BitVec 128) (sport dport : BitVec 16) (b : List Byte) (s : State) : List Byte :=
  let x := portAt p s
  let n := 8 + b.length
  insertL4 (beBytes 6 (Config.nextHop dst).toNat ++ beBytes 6 (macOf p s).toNat ++ beBytes 2 0x86DD ++
    beBytes 4 (6 * 2 ^ 28 + Config.ktpClass.toNat) ++ beBytes 2 n ++ [17#8] ++ beBytes 1 Config.ktpHops.toNat ++
    beBytes 8 x.ipHi.toNat ++ beBytes 8 x.ipLo.toNat ++ beBytes 16 dst.toNat ++
    beBytes 2 sport.toNat ++ beBytes 2 dport.toNat ++ beBytes 2 n ++ beBytes 2 0 ++ b)

/-- Send a DATA segment of a flow. -/
def sendData (t : KtpTx) (flow : BitVec 32) (b : List Byte) (s : State) : State :=
  sendOn t.port (datagram t.port t.addr (Config.flowPort flow) t.uport b s) s

/-! ## Segments (Table 20.7) -/

/-- The 32 bytes of a segment's header. -/
def segHeader (type flags : Nat) (flow copy : BitVec 32) (segno elem nelem esize err : Nat) : List Byte :=
  beBytes 1 1 ++ beBytes 1 type ++ beBytes 2 flags ++ beBytes 4 flow.toNat ++ beBytes 4 copy.toNat ++
    beBytes 4 segno ++ beBytes 4 elem ++ beBytes 2 nelem ++ beBytes 1 esize ++ beBytes 1 err ++ beBytes 8 0

/-- A segment from a datagram's payload; `addr` is the sender's. -/
def segFrom (addr : BitVec 128) (b : List Byte) : KtpSeg :=
  let f := fun o n => beNat ((b.drop o).take n)
  let first := bit (f 2 2) 0
  { addr := addr
    ver := BitVec.ofNat 8 (f 0 1)
    type := BitVec.ofNat 8 (f 1 1)
    flags := BitVec.ofNat 16 (f 2 2)
    flow := BitVec.ofNat 32 (f 4 4)
    copy := BitVec.ofNat 32 (f 8 4)
    segno := BitVec.ofNat 32 (f 12 4)
    elem := BitVec.ofNat 32 (f 16 4)
    nelem := BitVec.ofNat 16 (f 20 2)
    esize := BitVec.ofNat 8 (f 22 1)
    err := BitVec.ofNat 8 (f 23 1)
    zeroOk := decide (f 24 8 = 0) && decide (f 2 2 / 4 = 0) && decide (f 4 4 % 4096 = 0) &&
      (f 1 1 == 1 || (decide (f 20 2 = 0) && decide (f 22 1 = 0))) && (f 1 1 == 3 || decide (f 23 1 = 0)) &&
      (!(f 1 1 == 1 && first) || decide (f 60 20 = 0))
    body := b.drop 32 }

/-- Whether a segment is dropped and counted in RXERR (R364). -/
def segBad (g : KtpSeg) : Bool :=
  g.ver != 1#8 || !(g.type == 1#8 || g.type == 2#8 || g.type == 3#8) || !g.zeroOk

/-- The logical cluster whose number a physical cluster answers to: a moved one, else its own (R339). -/
def logCluster (sag p : Nat) (s : State) : Nat :=
  let g := sagAt sag s
  match g.answers.find? fun a => a.2 == p with
  | some a => a.1
  | none => (g.clusters.findIdx? (· == p)).getD 0

/-- The FLOW of a channel (Table 20.7). -/
def flowOf (sag core ch : Nat) (s : State) : BitVec 32 :=
  let lc := logCluster sag (core / 8) s * 8 + core % 8
  BitVec.ofNat 32 (sag * 2 ^ 28 + lc * 2 ^ 16 + ch * 4096)

/-- The endpoint that PEER names, where it is valid (R346): the port, the remote address, RSAG, UDPPORT. -/
def endpoint (sag peer : Nat) (s : State) : Option (Nat × BitVec 128 × Nat × BitVec 16) :=
  match portOf sag s with
  | none => none
  | some p =>
    let x := portAt p s
    if x.ktpN.toNat % 2 ^ 17 ≤ peer then none
    else match iaBytes sag (x.ktpTab.toNat % 2 ^ 48 + 32 * peer) 32 s with
      | none => none
      | some b =>
        let w := wordAt b 2
        if bit w 0 then
          some (p, BitVec.ofNat 128 (beNat (b.take 16)), bits w 47 44, BitVec.ofNat 16 (bits w 31 16))
        else none

/-! ## The receiving side (R347, R348, R365) -/

/-- The flow of a sender on a port. -/
def flowAt (p : Nat) (g : KtpSeg) (s : State) : Option (Nat × KtpRx) :=
  s.flows.find? fun f => f.2.port == p && f.2.addr == g.addr && f.2.flow == g.flow

def modFlow (n : Nat) (f : KtpRx → KtpRx) (s : State) : State := { s with flows := adj n f s.flows }

/-- Pattern indexes of element `k`: counts of dimensions 0 to 2. -/
def patIndex (n0 n1 n2 k : Nat) : Nat × Nat × Nat × Nat :=
  (k % n0, k / n0 % n1, k / n0 / n1 % n2, k / n0 / n1 / n2)

/-- base + i0·e + i1·S1 + i2·S2 + i3·S3 mod 2^64 (R167), with 32-bit signed strides. -/
def patAddr (base e s1 s2 s3 : Nat) (i : Nat × Nat × Nat × Nat) : Nat :=
  (BitVec.ofNat 64 base + BitVec.ofNat 64 (i.1 * e) + BitVec.ofNat 64 i.2.1 * sext64 32 s1 +
    BitVec.ofNat 64 i.2.2.1 * sext64 32 s2 + BitVec.ofNat 64 i.2.2.2 * sext64 32 s3).toNat

/-- The address of element `k` of a descriptor. -/
def descAddr (d : List Byte) (e k : Nat) : Nat :=
  let f := fun o n => beNat ((d.drop o).take n)
  patAddr (f 0 8) e (f 16 4) (f 20 4) (f 24 4) (patIndex (f 8 2) (f 10 2) (f 12 2) k)

/-- The element count of a descriptor. -/
def descTotal (d : List Byte) : Nat :=
  let f := fun o => beNat ((d.drop o).take 2)
  f 8 * f 10 * f 12 * f 14

/-- Place elements from number `k` on; the number of the first that fails, if one does. -/
def placeElems (rsag : Nat) (d : List Byte) (e : Nat) : Nat → Nat → List Byte → State → Option Nat × State
  | 0, _, _, s => (none, s)
  | n + 1, k, b, s =>
    match iaWrite rsag (cut (descAddr d e k) e) (b.take e) s with
    | none => (some k, s)
    | some s1 => placeElems rsag d e n (k + 1) (b.drop e) s1

/-- Answer a flow's sender. -/
def sendBack (x : KtpRx) (b : List Byte) (s : State) : State :=
  sendOn x.port (datagram x.port x.addr (portAt x.port s).ktpPort (Config.ackPort x.addr x.flow) b s) s

/-- Send an ACK, or an ERROR, for a flow. -/
def sendAck (x : KtpRx) (copy : BitVec 32) (elem : Nat) (s : State) : State :=
  sendBack x (segHeader 2 0 x.flow copy 0 elem 0 0 0) s

def sendErr (x : KtpRx) (elem err : Nat) (s : State) : State :=
  sendBack x (segHeader 3 0 x.flow x.copy 0 elem 0 0 err) s

/-- The data of a segment, after its descriptor. -/
def segData (g : KtpSeg) : List Byte := if g.flags.getLsbD 0 then g.body.drop 48 else g.body

/-- Perform a segment of the copy in progress whose first missing element it holds (R365). -/
def performSeg (n : Nat) (x : KtpRx) (g : KtpSeg) (s : State) : State :=
  let desc := if g.flags.getLsbD 0 then g.body.take 48 else x.desc
  let total := descTotal desc
  let e := g.esize.toNat
  let skip := x.done - g.elem.toNat
  let cnt := g.nelem.toNat - skip
  if !(e == 1 || e == 2 || e == 4) || (segData g).length ≠ g.nelem.toNat * e || total < x.done + cnt then
    modFlow n (fun x => { x with failed := true, held := x.held.filter (·.copy ≠ g.copy) }) (sendErr x x.done 0x0C s)
  else
    let (bad, s1) := placeElems x.rsag desc e cnt x.done ((segData g).drop (skip * e)) s
    match bad with
    | some k =>
      modFlow n (fun x => { x with desc := desc, total := total, done := k, failed := true
                                   held := x.held.filter (·.copy ≠ g.copy) }) (sendErr x k 0x09 s1)
    | none =>
      let last := g.flags.getLsbD 1
      modFlow n (fun x => { x with desc := desc, total := total, done := x.done + cnt
                                   owed := x.owed + (if last then 8 else 1) }) s1

/-- The copy of a flow has been performed. -/
def KtpRx.over (x : KtpRx) : Bool := x.failed || (!x.desc.isEmpty && decide (x.done = x.total))

/-- Whether an ID is later than another, mod 2^32. -/
def laterId (a b : BitVec 32) : Bool := decide (a ≠ b) && decide ((a - b).toNat < 2 ^ 31)

/-- Hold a segment. -/
def holdSeg (n : Nat) (g : KtpSeg) (s : State) : State :=
  modFlow n (fun x => { x with held := x.held.filter (· ≠ g) ++ [g] }) s

/-- Take a DATA segment of the copy that flow `n` is at. -/
def takeCur (n : Nat) (x : KtpRx) (g : KtpSeg) (s : State) : State :=
  if x.failed then s
  else if g.elem.toNat + g.nelem.toNat ≤ x.done then modFlow n (fun x => { x with owed := x.owed + 8 }) s
  else if g.elem.toNat ≤ x.done ∧ (g.flags.getLsbD 0 || !x.desc.isEmpty) then performSeg n x g s
  else holdSeg n g s

/-- A flow goes on to another copy; what it performed of the last one is kept, where that did not fail. -/
def KtpRx.next (x : KtpRx) (copy : BitVec 32) : KtpRx :=
  { x with copy := copy, desc := [], done := 0, total := 0, failed := false, owed := 0
           past := if x.failed then x.past else upd x.copy.toNat x.done x.past }

/-- Take a DATA segment of flow `n`: performed, held, or discarded and acknowledged again. A flow that goes on to another
copy first sends the ACK it owes for the last one. -/
def takeSeg (n : Nat) (g : KtpSeg) (s : State) : State :=
  match find n s.flows with
  | none => s
  | some x =>
    if g.copy = x.copy then takeCur n x g s
    else if laterId g.copy x.copy then
      if x.over then
        let s1 := if 8 ≤ x.owed then sendAck x x.copy x.done s else s
        takeCur n (x.next g.copy) g (modFlow n (fun x => x.next g.copy) s1)
      else holdSeg n g s
    else match find g.copy.toNat x.past with
      | some done => sendAck x g.copy done s
      | none => s

/-- Whether a held segment can be taken now: one of the copy in progress that follows what is performed, or, once that
copy is over, one of the earliest held copy that follows it. -/
def KtpRx.takes (x : KtpRx) (g : KtpSeg) : Bool :=
  if g.copy = x.copy then x.failed || (decide (g.elem.toNat ≤ x.done) && (g.flags.getLsbD 0 || !x.desc.isEmpty))
  else x.over && laterId g.copy x.copy && g.flags.getLsbD 0 && x.held.all fun o => !laterId g.copy o.copy || o.copy == x.copy

/-- Held segments are taken, each in its turn, until none can be (R365). -/
def drainHeld (n : Nat) : Nat → State → State
  | 0, s => s
  | f + 1, s =>
    match find n s.flows with
    | none => s
    | some x => match x.held.find? x.takes with
      | none => s
      | some g => drainHeld n f (takeSeg n g (modFlow n (fun x => { x with held := x.held.filter (· ≠ g) }) s))

/-- A port can receive segments: enabled, and owned. -/
def portOpen (p : Nat) (s : State) : Bool := (portAt p s).en && (portAt p s).owner.isSome

/-- A dropped segment is counted. -/
def countErr (p : Nat) (s : State) : State := modPort p (fun x => { x with rxErr := x.rxErr + 1 }) s

/-- KTP_DATA_SEGMENT: the elements are placed in order; the saggar is that of the port (R347, R365). -/
def dueKtpDataSegment (p : Nat) (g : KtpSeg) (s : State) : Option State :=
  if !portOpen p s || (g.type != 1#8 && !segBad g) then none
  else if segBad g then some (countErr p s)
  else match flowAt p g s with
    | some (n, x) => some (drainHeld n (x.held.length + 1) (takeSeg n g s))
    | none =>
      let (n, s1) := fresh s
      let x : KtpRx :=
        { addr := g.addr, flow := g.flow, port := p, rsag := (portAt p s).owner.getD 0, copy := g.copy
          desc := [], done := 0, total := 0, failed := false, owed := 0, held := [], past := [] }
      some (takeSeg n g { s1 with flows := upd n x s1.flows })

/-- KTP_DATA_SEGMENT. -/
def execKtpDataSegment (p : Nat) (g : KtpSeg) (s : State) :
    Host.Outcome State Fault Refusal :=
  happens (dueKtpDataSegment p g s) s

/-- KTP_ACK_SEND: a cumulative ACK, owed after every 8th segment and every LAST one; the count of segments goes on. -/
def dueKtpAckSend (n : Nat) (s : State) : Option State :=
  match find n s.flows with
  | none => none
  | some x =>
    if x.owed < 8 then none
    else some (sendAck x x.copy x.done (modFlow n (fun x => { x with owed := x.owed % 8 }) s))

/-- KTP_ACK_SEND. -/
def execKtpAckSend (n : Nat) (s : State) :
    Host.Outcome State Fault Refusal :=
  happens (dueKtpAckSend n s) s

/-! ## The sending side -/

/-- The running remote copy that an ACK or an ERROR names: its core and channel. -/
def ackedRun (g : KtpSeg) (s : State) : Option (Nat × Nat × CRun × KtpTx) :=
  let w := g.flow.toNat
  let k := physCore (w / 2 ^ 28) (bits w 27 16) s
  let ch := bits w 15 12
  match (look Chan.init ch (coreAt k s).chans).run with
  | none => none
  | some r => match r.rem with
    | none => none
    | some t => if r.copy.id = g.copy ∧ r.copy.sag = w / 2 ^ 28 ∧ t.addr = g.addr then some (k, ch, r, t) else none

/-- Change the running copy of a channel. -/
def setRun (k ch : Nat) (r : Option CRun) (s : State) : State :=
  modCore k (fun c => { c with chans := upd ch { look Chan.init ch c.chans with run := r } c.chans }) s

/-- KTP_ACK_SEGMENT: the elements covered are performed. -/
def dueKtpAckSegment (p : Nat) (g : KtpSeg) (s : State) : Option State :=
  if !portOpen p s || (g.type != 2#8 && !segBad g) then none
  else if segBad g then some (countErr p s)
  else match ackedRun g s with
    | none => some s
    | some (k, ch, r, t) =>
      let n := max t.acked (min g.elem.toNat t.next)
      some (setRun k ch (some { r with
        pos := n
        rem := some { t with acked := n, segs := t.segs.filter fun x => n < x.2.1 + x.2.2.1 } }) s)

/-- KTP_ACK_SEGMENT. -/
def execKtpAckSegment (p : Nat) (g : KtpSeg) (s : State) :
    Host.Outcome State Fault Refusal :=
  happens (dueKtpAckSegment p g s) s

/-- End a remote copy: `n` elements delivered. -/
def endRemote (k ch : Nat) (r : CRun) (t : KtpTx) (n err : Nat) (s : State) : State :=
  setRun k ch (some { r with
    pos := n, err := err, stop := true, rem := some { t with acked := n, next := n, ready := [], segs := [] } }) s

/-- KTP_ERROR_SEGMENT: the copy ends with the ERR given. -/
def dueKtpErrorSegment (p : Nat) (g : KtpSeg) (s : State) : Option State :=
  if !portOpen p s || (g.type != 3#8 && !segBad g) then none
  else if segBad g then some (countErr p s)
  else match ackedRun g s with
    | none => some s
    | some (k, ch, r, t) => some (endRemote k ch r t g.elem.toNat g.err.toNat s)

/-- KTP_ERROR_SEGMENT. -/
def execKtpErrorSegment (p : Nat) (g : KtpSeg) (s : State) :
    Host.Outcome State Fault Refusal :=
  happens (dueKtpErrorSegment p g s) s

/-- KTP_RETRANSMIT_TIMEOUT: sent again; after 64 times the copy ends with ERR 0x09 (R347, R365). -/
def dueKtpRetransmitTimeout (k ch segno : Nat) (s : State) : Option State :=
  match (look Chan.init ch (coreAt k s).chans).run with
  | none => none
  | some r => match r.rem with
    | none => none
    | some t => match t.segs.find? fun x => x.1 == segno with
      | none => none
      | some (n, f, c, tries, b) =>
        if 64 ≤ tries then some (endRemote k ch r t t.acked 0x09 s)
        else
          let segs := t.segs.map fun x => if x.1 = n then (n, f, c, tries + 1, b) else x
          let s1 := setRun k ch (some { r with rem := some { t with segs := segs } }) s
          some (sendData t (flowOf r.copy.sag k ch s) b s1)

/-- KTP_RETRANSMIT_TIMEOUT. -/
def execKtpRetransmitTimeout (k ch segno : Nat) (s : State) :
    Host.Outcome State Fault Refusal :=
  happens (dueKtpRetransmitTimeout k ch segno s) s

end Sys2Proof.Machine
end

