-- ==== Sys2Proof/Machine/Copy.lean ====
section
/-! DEFINITION. The copy channels: templates, elements, add-on-writes, multicast, fills, records (R165 to
R175, R145, R346). -/

namespace Sys2Proof.Machine

/-! ## Templates (Table 8.5) -/

/-- Doubleword `i` of a template. -/
def tw (t : BitVec 512) (i : Nat) : Nat := t.toNat / 2 ^ (64 * i) % 2 ^ 64

def tMcast (t : BitVec 512) : Nat := bits (tw t 7) 39 32
def tPeer (t : BitVec 512) : Nat := bits (tw t 7) 31 16
def tRem (t : BitVec 512) : Bool := bit (tw t 7) 15
def tShadow (t : BitVec 512) : Bool := bit (tw t 7) 14
def tAccw (t : BitVec 512) : Bool := bit (tw t 7) 13
def tPhase (t : BitVec 512) : Nat := bits (tw t 7) 12 11
def tConv (t : BitVec 512) : Bool := bit (tw t 7) 8
def tDfmt (t : BitVec 512) : Nat := bits (tw t 7) 7 4
def tSfmt (t : BitVec 512) : Nat := bits (tw t 7) 3 0
def tRecva (t : BitVec 512) : Nat := tw t 6 % 2 ^ 48

/-- Counts N0 to N3. -/
def tN (t : BitVec 512) (i : Nat) : Nat := bits (tw t 2) (16 * i + 15) (16 * i)

/-- Elements of the pattern. -/
def tTotal (t : BitVec 512) : Nat := tN t 0 * tN t 1 * tN t 2 * tN t 3

/-- Bytes of an element of a format. -/
def fmtBytes (f : Nat) : Nat := fmtBits f / 8

def tEs (t : BitVec 512) : Nat := if tConv t then fmtBytes (tSfmt t) else 1
def tEd (t : BitVec 512) : Nat := if tConv t then fmtBytes (tDfmt t) else 1

/-- The source and destination address of element `k` (R167). -/
def srcAddr (t : BitVec 512) (p : Word) (k : Nat) : Nat :=
  patAddr ((BitVec.ofNat 64 (tw t 0) + p).toNat) (tEs t) (tw t 3 % 2 ^ 32) (tw t 3 / 2 ^ 32) (tw t 4 % 2 ^ 32)
    (patIndex (tN t 0) (tN t 1) (tN t 2) k)

def dstAddr (t : BitVec 512) (k : Nat) : Nat :=
  patAddr (tw t 1) (tEd t) (tw t 4 / 2 ^ 32) (tw t 5 % 2 ^ 32) (tw t 5 / 2 ^ 32)
    (patIndex (tN t 0) (tN t 1) (tN t 2) k)

/-- The least and the greatest of an extent `n` times a signed stride. -/
def extentOf (n s : Nat) : Int × Int :=
  let d : Int := ((n : Int) - 1) * signed 32 s
  (min 0 d, max 0 d)

/-- Whether every element of an add-on-write lies in the bank of DST. -/
def accInBank (t : BitVec 512) : Bool :=
  let a := tw t 1
  let off : Int := (bits a 14 10 * 4096 + bits a 9 0 * 4 : Nat)
  let x := extentOf (tN t 1) (tw t 4 / 2 ^ 32)
  let y := extentOf (tN t 2) (tw t 5 % 2 ^ 32)
  let z := extentOf (tN t 3) (tw t 5 / 2 ^ 32)
  decide (a < 2 ^ 24) && (decide (tTotal t = 0) ||
    (decide (0 ≤ off + x.1 + y.1 + z.1) && decide (off + x.2 + y.2 + z.2 + 4 * tN t 0 ≤ 131072)))

/-- The core and bank of an accumulator address, for a channel of core `k`. -/
def accBank (k : Nat) (t : BitVec 512) : Nat × Nat :=
  (k / 8 * 8 + bits (tw t 1) 23 21, bits (tw t 1) 20 15)

/-- Whether DST lies in the local window. -/
def inLocal (a : Nat) : Bool := decide (0x7F0000000000 ≤ a) && decide (a < 0x7F0000200000)

/-- Whether a conversion pair is one of a copy's (R167). -/
def pairLegal (a b : Nat) : Bool := cvtLegal a b && a != 6 && b != 6 && a != 10 && b != 10

/-- Whether an add-on-write's kind is its band's; an unallocated bank is found at the pass (R169). -/
def accKindOk (k : Nat) (t : BitVec 512) (s : State) : Bool :=
  let (c, b) := accBank k t
  tConv t && (match find b (coreAt c s).bands with
    | none => tDfmt t == 0 || tDfmt t == 9
    | some d => tDfmt t == (if d.int then 9 else 0))

/-- The template errors of R168, and those of remote copies (R346, R347). -/
def tmplBad (k : Nat) (cp : Copy) (t : BitVec 512) (s : State) : Bool :=
  decide (cp.word.toNat / 256 ≠ 0) || decide (tw t 7 / 2 ^ 40 ≠ 0) || decide (tw t 6 / 2 ^ 48 ≠ 0) ||
    decide (tRecva t % 16 ≠ 0) || (!tRem t && decide (tPeer t ≠ 0)) ||
    (!tConv t && (decide (tDfmt t ≠ 0) || decide (tSfmt t ≠ 0))) ||
    (tConv t && !pairLegal (tSfmt t) (tDfmt t)) || decide (2 ^ 32 ≤ tTotal t) ||
    (decide (tMcast t ≠ 0) && !inLocal (tw t 1)) ||
    (tAccw t && (!accKindOk k t s || !accInBank t)) ||
    (tRem t && (tAccw t || tShadow t || decide (tMcast t ≠ 0) || (endpoint cp.sag (tPeer t) s).isNone))

/-! ## The channel's accesses: its core's dirty bytes first, then the homes -/

/-- The view a copy works under (R160). -/
def copyView (k : Nat) (cp : Copy) (s : State) : View :=
  let g := sagAt cp.sag s
  ⟨readable s cp.tmem, g.s2root, look 0 cp.vdev g.s1roots, some k, cp.mode⟩

/-- A copy in its step from one state to another: of its tables' lines, those whose errors the step has met hold zeros
(R178). -/
def Copy.after (s t : State) (cp : Copy) : Copy :=
  if s.upsets.isEmpty then cp
  else { cp with tmem := cp.tmem.filter fun x =>
    !(s.upsets.any fun u => u.unc && u.line == x.1 / 128 && !t.upsets.contains u) }

/-- A byte of memory as a channel of core `k` reads it. -/
def chByte (k pa : Nat) (s : State) : Byte :=
  match find (pa / 128) (coreAt k s).l1 with
  | some l => if l.dirty.getLsbD (pa % 128) then l.byte (pa % 128) else byteAt pa s
  | none => byteAt pa s

/-- Read a place. -/
def chRead (k : Nat) (p : Place) (n : Nat) (s : State) : List Byte :=
  match p with
  | .phys pa _ => (List.range n).map fun i => chByte k (pa + i) s
  | .sram c off => readCells (coreAt c s).sram off n
  | .aper _ => []

/-- The lines that a channel of core `k` reads: of a memory line the core's copy for its dirty bytes, the home for the
others. -/
def chLines (k : Nat) (p : Place) (n : Nat) (s : State) : List Nat :=
  match p with
  | .phys pa _ => ((linesOf p n).map fun ln =>
      let d := (look Line.none_ ln (coreAt k s).l1).dirty
      let of_ := (List.range 128).filter fun i => decide (pa ≤ 128 * ln + i) && decide (128 * ln + i < pa + n)
      (if of_.all d.getLsbD then [] else [ln]) ++ (if of_.any d.getLsbD then [l1Line k ln] else [])).flatten
  | _ => linesOf p n

/-- Bytes that reach their homes leave a line that the core holds whole with the same bytes, no longer dirty; of another
line the core no longer holds them (R180). -/
def l1Snoop (k : Nat) : Nat → List Byte → State → State
  | _, [], s => s
  | pa, b :: l, s =>
    let clean := fun (x : Line) =>
      let out := ~~~BitVec.ofNat 128 (2 ^ (pa % 128))
      let y := x.set (pa % 128) b false
      if x.have_ = BitVec.allOnes 128 then { y with dirty := x.dirty &&& out }
      else { x with have_ := x.have_ &&& out, dirty := x.dirty &&& out }
    let f := fun (c : Core) => { c with l1 := adj (pa / 128) clean c.l1 }
    l1Snoop k (pa + 1) l (modCore k f s)

/-- Write a place; its lines' errors are met first (R178). -/
def chWrite (k : Nat) (p : Place) (b : List Byte) (s : State) : State :=
  let s1 := healStore (some k) p b.length s
  match p with
  | .phys pa _ => l1Snoop k pa b (setMem pa b s1)
  | .sram c off => modCore c (fun c => { c with sram := writeCells off b c.sram }) s1
  | .aper _ => s

/-- What a step of a copy comes to: an error is the ERR, with the state it leaves. -/
abbrev Done (α : Type) := Except (Nat × State) α

/-- Continue an access of a copy after its tables: ERR 0x18 where a line of theirs stops it; `err` where it has no
translation. -/
def copyAt {α β : Type} (k : Nat) (cp : Copy) (as : List (Nat × Nat)) (err : Nat) (x : View → Option α) (s : State)
    (f : α → State → Done β) : Done β :=
  let v := copyView k cp s
  if (sagAt cp.sag s).stopPol && as.any fun p => !(tableUpsets true v p.1 s).isEmpty then .error (0x18, s)
  else match x v with
    | none => .error (err, healTables (some k) v as s)
    | some y => f y (healTables (some k) v as s)

/-- Read bytes that lie in one page or window; an error is the ERR: no translation, or an uncorrectable read under the
stop policy (R168, R178). -/
def copyRead (k : Nat) (cp : Copy) (a n : Nat) (s : State) : Done (List Byte × State) :=
  copyAt k cp (cut a n) 0x08 (fun v => (places v s true false false (cut a n)).toOption) s fun (ps, ms) s1 =>
    if (sagAt cp.sag s).stopPol && ps.any fun p => !(upsetIn true (chLines k p.1 p.2 s) s).isEmpty then .error (0x18, s)
    else
      let s2 := ps.foldl (fun s p => healLines (some k) (chLines k p.1 p.2 s) s) (marked false ms s1)
      .ok ((ps.map fun p => chRead k p.1 p.2 s2).flatten, s2)

/-- Write the pieces of bytes. -/
def chWrites (k : Nat) : List (Place × Nat) → List Byte → State → State
  | [], _, s => s
  | (p, n) :: l, b, s => chWrites k l (b.drop n) (chWrite k p (b.take n) s)

/-- Write bytes at an address. -/
def copyWrite (k : Nat) (cp : Copy) (a : Nat) (b : List Byte) (s : State) : Done State :=
  copyAt k cp (cut a b.length) 0x09 (fun v => (places v s false true false (cut a b.length)).toOption) s
    fun (ps, ms) s1 => .ok (chWrites k ps b (marked true ms s1))

/-- Write an element to the shadow of a buffer object's page (R161). -/
def shadowWrite (k : Nat) (cp : Copy) (a : Nat) (b : List Byte) (s : State) : Done State :=
  copyAt k cp [(a, b.length)] 0x09 (fun v =>
    if 2 ^ 48 ≤ a ∨ inWindows a ∨ (0x800000000000 ≤ a ∧ v.mode = .u) then none
    else ((xlate v.tabs v.s2 v.s1 false true false true a).toOption).filter fun x => bit x.leaf 6) s
    fun x s1 => .ok (chWrite k (.phys x.pa x.kind) b (marked true x.marks s1))

/-! ## Multicast refusal (R170) -/

/-- The core and bank that a window address lies in, for a channel of core `k`. -/
def winBank (k a : Nat) : Option (Nat × Nat) :=
  if inLocal a then some (k, (a - 0x7F0000000000) / 65536)
  else if 0x7F1000000000 ≤ a ∧ a < 0x7F1001000000 then
    some (k / 8 * 8 + (a - 0x7F1000000000) / 0x200000, (a - 0x7F1000000000) % 0x200000 / 65536)
  else none

/-- Whether a template's elements touch bank `b` of core `c`. -/
def touches (k : Nat) (t : BitVec 512) (c b : Nat) : Bool :=
  (List.range (tTotal t)).any fun i => match winBank k (dstAddr t i) with
    | none => false
    | some (k1, b1) =>
      if tMcast t ≠ 0 then k1 == k && bit (tMcast t) (c % 8) && decide (c / 8 = k / 8) && b1 == b
      else k1 == c && b1 == b

/-- Whether a running copy writes bank `b` of core `c`. -/
def runWrites (k : Nat) (r : CRun) (c b : Nat) : Bool :=
  !r.stop && r.copy.fill.isNone && !tAccw r.tmpl && !tRem r.tmpl && !r.refused.getLsbD (c % 8) &&
    touches k r.tmpl c b

/-- The cores that refuse a multicast copy as it starts. -/
def refusers (k : Nat) (t : BitVec 512) (s : State) : BitVec 8 :=
  (List.range 8).foldl (fun m i =>
    let c := k / 8 * 8 + i
    let bad := bit (tMcast t) i && (List.range 32).any fun b => touches k t c b &&
      (roleOf (coreAt c s) b == 0 || (coreAt c s).chans.any (fun h => match h.2.run with
        | some r => runWrites c r c b
        | none => false))
    if bad then m ||| BitVec.ofNat 8 (2 ^ i) else m) 0

/-! ## COPY_START -/

/-- Read a copy's template. -/
def readTmpl (k : Nat) (cp : Copy) (s : State) : Done (BitVec 512 × State) :=
  match copyRead k cp ((cp.ttb + BitVec.ofNat 64 (64 * (cp.word.toNat % 256))).toNat) 64 s with
  | .error e => .error e
  | .ok (b, s1) => .ok (BitVec.ofNat 512 (leNat b), s1)

/-- The read of a remote copy's endpoint entry (R346, R159). -/
def peerSeen (cp : Copy) (t : BitVec 512) (s : State) : State :=
  match if tRem t then portOf cp.sag s else none with
  | none => s
  | some p =>
    let x := portAt p s
    if x.ktpN.toNat % 2 ^ 17 ≤ tPeer t then s
    else iaSeen cp.sag (x.ktpTab.toNat % 2 ^ 48 + 32 * tPeer t) 32 s

/-- The sending state of a remote copy. -/
def startTx (cp : Copy) (t : BitVec 512) (s : State) : Option KtpTx :=
  if tRem t then match endpoint cp.sag (tPeer t) s with
    | none => none
    | some (p, a, rs, u) => some ⟨p, a, rs, u, 0, 0, [], [], 0⟩
  else none

/-- The same of a copy in progress. -/
def CRun.after (s t : State) (r : CRun) : CRun := { r with copy := r.copy.after s t }

/-- COPY_START: the next copy in ID order; the starting store's release at SCOPE, which waits for the
sequencer's matrix call, then the template and its checks (R165, R168, R184). -/
def dueCopyStart (k ch : Nat) (s : State) : Option State :=
  let h := look Chan.init ch (coreAt k s).chans
  match h.run, h.queue with
  | none, cp :: l =>
    if matrixBusy cp.q s then none
    else
      let s1 := modCore k (fun c => { c with chans := upd ch { h with queue := l } c.chans }) s
      let dead : CRun := ⟨cp, 0, 0, 0, 8, true, 0, 0, [], false, none⟩
      match readTmpl k cp s1 with
      | .error (e, s2) => some (setRun k ch (some ({ dead with err := e }.after s1 s2)) s2)
      | .ok (t, s2) =>
        let s3 := release k (tmplScope t) (peerSeen cp t s2)
        if tmplBad k cp t s3 then
          let t1 := if tRecva t % 16 = 0 then t else 0
          some (setRun k ch (some ({ dead with tmpl := t1, err := 0x0C }.after s1 s3)) s3)
        else
          let rf := if tMcast t = 0 ∨ cp.fill.isSome then 0 else refusers k t s3
          some (setRun k ch (some ⟨cp.after s1 s3, t, 0, 0, 0, false, rf,
            if cp.fill.isSome then 0 else BitVec.ofNat 8 (tMcast t) &&& ~~~rf, [], false,
            if cp.fill.isSome then none else startTx cp t s3⟩) s3)
  | _, _ => none

/-- COPY_START. -/
def execCopyStart (k ch : Nat) (s : State) :
    Host.Outcome State Fault Refusal :=
  happens (dueCopyStart k ch s) s

/-! ## Elements (R167) -/

/-- The value of element `i`: its bytes converted, and whether it saturated; an error is the ERR. -/
def elemRead (k : Nat) (r : CRun) (i : Nat) (s : State) : Done (Nat × Bool × State) :=
  let a := srcAddr r.tmpl r.copy.p i
  let es := tEs r.tmpl
  if a % es ≠ 0 then .error (0x0B, s)
  else match copyRead k r.copy a es s with
    | .error e => .error e
    | .ok (b, s1) =>
      if tConv r.tmpl then
        let (v, f) := convert (tSfmt r.tmpl) (tDfmt r.tmpl) 0 false false (leNat b)
        .ok (v, f &&& fSATC != 0, s1)
      else .ok (leNat b, false, s1)

/-- The handle that a fill is for, while its binding lasts. -/
def fillHandle (f : Fill) (s : State) : Option Handle :=
  match find f.h (seqAt f.q s).handles with
  | none => none
  | some h => if h.serial = f.serial then some h else none

/-- Write bytes of the multicast's window offset in each core that receives. -/
def castWrite (k off : Nat) (m : BitVec 8) (b : List Byte) (s : State) : State :=
  (List.range 8).foldl (fun s i =>
    if m.getLsbD i then chWrite k (.sram (k / 8 * 8 + i) off) b s else s) s

/-- Write element `i`; an error is the ERR. -/
def elemWrite (k : Nat) (r : CRun) (i : Nat) (b : List Byte) (s : State) : Done State :=
  let a := dstAddr r.tmpl i
  match r.copy.fill with
    | some f =>
      let o := (BitVec.ofNat 64 a - BitVec.ofNat 64 (tw r.tmpl 1)).toNat
      if o % b.length ≠ 0 then .error (0x0B, s)
      else if 256 < o + b.length then .error (0x09, s)
      else match fillHandle f s with
        | none => .ok s
        | some h => .ok (modCore k (fun c =>
            let e := h.base + f.k % h.len
            let v := insertBits (look 0 e c.vfile).toNat (8 * o) (8 * b.length) (leNat b)
            { c with vfile := put 0 e (BitVec.ofNat 2048 v) c.vfile }) s)
    | none =>
      if a % b.length ≠ 0 then .error (0x0B, s)
      else if tShadow r.tmpl then shadowWrite k r.copy a b s
      else if tMcast r.tmpl ≠ 0 then
        if inLocal a then .ok (castWrite k (a - 0x7F0000000000) r.deliv b s) else .error (0x09, s)
      else copyWrite k r.copy a b s

/-- The place in its bank of an add-on-write's element, in elements. -/
def accOffset (t : BitVec 512) (i : Nat) : Except Nat Nat :=
  let o := (BitVec.ofNat 64 (dstAddr t i) - BitVec.ofNat 64 (tw t 1)).toInt +
    (bits (tw t 1) 14 10 * 4096 + bits (tw t 1) 9 0 * 4 : Nat)
  if o.toNat % 4 ≠ 0 then .error 0x0B else .ok (o.toNat / 4)

/-- Deliver up to `n` elements; the copy stops at the first that fails. -/
def deliverElems (k : Nat) : Nat → CRun → State → CRun × State
  | 0, r, s => (r, s)
  | n + 1, r, s =>
    match elemRead k r r.pos s with
    | .error (e, s1) => ({ r with err := e, stop := true }.after s s1, s1)
    | .ok (v, sat, s1) =>
      let r1 := { r with pos := r.pos + 1, satn := min (r.satn + (if sat then 1 else 0)) 0xFFFFFFFF }
      if tAccw r.tmpl && r.copy.fill.isNone then match accOffset r.tmpl r.pos with
        | .error e => ({ r with err := e, stop := true }.after s s1, s1)
        | .ok o => deliverElems k n ({ r1 with gather := r.gather ++ [(o, BitVec.ofNat 32 v)] }.after s s1) s1
      else match elemWrite k r r.pos (leBytes (tEd r.tmpl) v) s1 with
        | .error (e, s2) => ({ r with err := e, stop := true }.after s s2, s2)
        | .ok s2 => deliverElems k n (r1.after s s2) s2

/-- Whether elements `i - 1` and `i` of an address sequence with elements of `e` bytes lie in different 8-byte pieces. -/
def pieceEnds (f : Nat → Nat) (e i : Nat) : Bool := decide (f i / 8 ≠ (f (i - 1) + e - 1) / 8)

/-- Whether no piece that elements from `lo` on touch before element `i` is touched again from `i` on, of `n` elements. -/
def closedAt (f : Nat → Nat) (e lo n i : Nat) : Bool :=
  pieceEnds f e i && !(List.range (i - lo)).any fun j => (List.range (n - i)).any fun k => f (lo + j) / 8 == f (i + k) / 8

/-- Whether a copy can be read up to element `i` at once, or written. -/
def CRun.srcCut (r : CRun) (lo i : Nat) : Bool := closedAt (srcAddr r.tmpl r.copy.p) (tEs r.tmpl) lo (tTotal r.tmpl) i
def CRun.dstCut (r : CRun) (lo i : Nat) : Bool := closedAt (dstAddr r.tmpl) (tEd r.tmpl) lo (tTotal r.tmpl) i

/-- Whether a copy can be interrupted before element `i`: no aligned 8-byte piece of its source or of its destination is
divided there, though its pattern come back to it later (R180). -/
def CRun.cutAt (r : CRun) (i : Nat) : Bool := r.srcCut r.pos i && r.dstCut r.pos i

/-- The first place from element `i` on where a copy is interrupted: at the end of a row or of a destination line that
divides no piece, `n` elements on at most. -/
def stepEnd (r : CRun) : Nat → Nat → Nat
  | 0, i => i
  | n + 1, i =>
    if r.cutAt i && (decide (i % tN r.tmpl 0 = 0) || decide (dstAddr r.tmpl i / 128 ≠ dstAddr r.tmpl (i - 1) / 128)) then i
    else stepEnd r n (i + 1)

/-- The elements delivered at once. -/
def runLength (r : CRun) : Nat := stepEnd r (tTotal r.tmpl - r.pos - 1) (r.pos + 1) - r.pos

/-- The greatest number of elements from `i` on, `n` at most, after which `f` lets a copy be interrupted. -/
def lastCut (f : Nat → Bool) (i : Nat) : Nat → Option Nat
  | 0 => none
  | n + 1 => if f (i + n + 1) then some (n + 1) else lastCut f i n

/-- The elements of a remote copy's next segment: at most 8,192 bytes, ending where no piece of the destination is
divided; where the pattern comes back to a piece later than that, where the next element lies in another piece (log entry
31). -/
def segLength (r : CRun) (i : Nat) : Nat :=
  let full := 8192 / tEd r.tmpl
  let left := tTotal r.tmpl - i
  if left ≤ full then left
  else (lastCut (r.dstCut i) i full).getD ((lastCut (pieceEnds (dstAddr r.tmpl) (tEd r.tmpl)) i full).getD full)

/-- The first element from `i` on, of `n`, before which the reading of a remote copy that begins at `lo` ends. -/
def readEnd (r : CRun) (lo : Nat) : Nat → Nat → Nat
  | 0, i => i
  | n + 1, i => if r.srcCut lo i then i else readEnd r lo n (i + 1)

/-- The bytes of up to `n` elements of a remote copy, from element `i`. -/
def gatherBytes (k : Nat) (r : CRun) : Nat → Nat → State → List Byte × Nat × Nat × State
  | 0, _, s => ([], 0, 0, s)
  | n + 1, i, s =>
    if dstAddr r.tmpl i % tEd r.tmpl ≠ 0 then ([], 0, 0x0B, s)
    else match elemRead k r i s with
      | .error (e, s1) => ([], 0, e, s1)
      | .ok (v, sat, s1) =>
        let (b, m, e, s2) := gatherBytes k (r.after s s1) n (i + 1) s1
        (leBytes (tEd r.tmpl) v ++ b, m + (if sat then 1 else 0), e, s2)

/-- The destination descriptor of a remote copy (R364). -/
def txDesc (t : BitVec 512) : List Byte :=
  beBytes 8 (tw t 1) ++ beBytes 2 (tN t 0) ++ beBytes 2 (tN t 1) ++ beBytes 2 (tN t 2) ++ beBytes 2 (tN t 3) ++
    beBytes 4 (tw t 4 / 2 ^ 32) ++ beBytes 4 (tw t 5 % 2 ^ 32) ++ beBytes 4 (tw t 5 / 2 ^ 32) ++ beBytes 20 0

/-- The bytes of elements that a remote copy has read once its next `n` elements are among them, up to where no piece of
the source is divided; the conversions that saturated, the error. -/
def readAhead (k : Nat) (r : CRun) (x : KtpTx) (n : Nat) (s : State) : List Byte × Nat × Nat × State :=
  let lo := x.next + x.ready.length / tEd r.tmpl
  if x.next + n ≤ lo ∨ r.err ≠ 0 then (x.ready, 0, r.err, s)
  else
    let (b, sats, e, s1) := gatherBytes k r (readEnd r lo (tTotal r.tmpl - (x.next + n)) (x.next + n) - lo) lo s
    (x.ready ++ b, sats, e, s1)

/-- Send the next DATA segment: at most 8,192 bytes of elements; a source error stops the copy once the elements before
it are sent. -/
def sendSegment (k ch : Nat) (r : CRun) (x : KtpTx) (s : State) : State :=
  let ed := tEd r.tmpl
  let (got, sats, e, s1) := readAhead k r x (segLength r x.next) s
  let b := got.take (segLength r x.next * ed)
  let n := b.length / ed
  let segno := x.count
  let flags := (if x.next = 0 then 1 else 0) + (if x.next + n = tTotal r.tmpl then 2 else 0)
  let g := segHeader 1 flags (flowOf r.copy.sag k ch s) r.copy.id segno x.next n ed 0 ++
    (if x.next = 0 then txDesc r.tmpl else []) ++ b
  let rest := got.drop (n * ed)
  let r1 := { r with err := e, stop := decide (e ≠ 0) && rest.isEmpty, satn := min (r.satn + sats) 0xFFFFFFFF }.after s s1
  if n = 0 then setRun k ch (some r1) s1
  else
    let x1 := { x with next := x.next + n, ready := rest, segs := x.segs ++ [(segno, x.next, n, 0, g)], count := segno + 1 }
    sendData x (flowOf r.copy.sag k ch s) g (setRun k ch (some { r1 with rem := some x1 }) s1)

/-- Whether a remote copy may send: elements left, at most 64 segments unacknowledged, the port enabled. -/
def maySend (r : CRun) (x : KtpTx) (s : State) : Bool :=
  decide (x.next < tTotal r.tmpl) && decide (x.segs.length < 64) && (portAt x.port s).en

/-- COPY_ELEMENT_DELIVERY: the next elements in pattern order, translated now (R167). -/
def dueCopyElementDelivery (k ch : Nat) (s : State) : Option State :=
  match (look Chan.init ch (coreAt k s).chans).run with
  | none => none
  | some r =>
    if r.stop then none
    else match r.rem with
      | some x =>
        if maySend r x s then some (sendSegment k ch r x s)
        else none
      | none =>
        if r.pos < tTotal r.tmpl then
          let (r1, s1) := deliverElems k (runLength r) r s
          some (setRun k ch (some r1) s1)
        else none

/-- COPY_ELEMENT_DELIVERY. -/
def execCopyElementDelivery (k ch : Nat) (s : State) :
    Host.Outcome State Fault Refusal :=
  happens (dueCopyElementDelivery k ch s) s

/-! ## ADD_ON_WRITE_PASS (R145, R169) -/

/-- Whether the unit's current word writes a bank of core `c` on a phase. -/
def unitWrites (c b phase : Nat) (s : State) : Bool :=
  match (coreAt c s).mrun with
  | none => false
  | some r =>
    let w := r.glaze s
    decide (r.word < 512) && bit w 137 && bits w 135 134 == phase && (match beforeWrite r s with
      | (r1, s1, none) => r1.banks.contains b && !(r1.out (r1.c (bits w 132 130))).isEmpty &&
          (doWrite w r1 s1).isOk
      | _ => false)

/-- Add one gathered value to its element. -/
def accAddOne (int : Bool) (bank : Nat) (m : Map (BitVec 32)) (p : Nat × BitVec 32) : Map (BitVec 32) :=
  let key := bank * 32768 + p.1
  let old := look 0 key m
  let new : Nat :=
    if int then (limit 32 (signed 32 old.toNat + signed 32 p.2.toNat)).1
    else (fold32 false old.toNat (fp32.dec false p.2.toNat)).1
  put 0 key (BitVec.ofNat 32 new) m

/-- The fault that a collision gives the caller of the unit's call (Table 6.5); its accumulator address is the template's
DST (log entry 84). -/
def collisionFault (k ch : Nat) (t : BitVec 512) : MFault :=
  ⟨0x0D, BitVec.ofNat 64 (2 * 2 ^ 56 + k % 8 * 2 ^ 36 + ch * 2 ^ 32 + tw t 1 % 2 ^ 24), 0⟩

/-- Whether a run has gathered an add-on-write that is to be applied. -/
def passDue (r : CRun) : Bool :=
  tAccw r.tmpl && r.copy.fill.isNone && !r.stop && !r.passed && decide (r.pos = tTotal r.tmpl) &&
    decide (0 < r.pos)

/-- ADD_ON_WRITE_PASS: the pass commits as a whole; one that collides writes nothing. -/
def dueAddOnWritePass (k ch : Nat) (collides : Bool) (s : State) : Option State :=
  match (look Chan.init ch (coreAt k s).chans).run with
  | none => none
  | some r =>
    let (c, b) := accBank k r.tmpl
    let none_ := { r with pos := 0, stop := true, gather := [] }
    if !passDue r || (collides && !unitWrites c b (tPhase r.tmpl) s) then
      none
    else match find b (coreAt c s).bands with
      | none => some (setRun k ch (some { none_ with err := 0x0E }) s)
      | some d =>
        if tDfmt r.tmpl ≠ (if d.int then 9 else 0) then some (setRun k ch (some { none_ with err := 0x0C }) s)
        else if collides then
          let s1 := match (coreAt c s).mrun with
            | some u => modSeq u.call.q (fun x => { x with mfault := x.mfault ++ [collisionFault k ch r.tmpl] }) s
            | none => s
          some (setRun k ch (some { none_ with err := 0x0D }) s1)
        else
          let s1 := modCore c (fun x => { x with acc := r.gather.foldl (accAddOne d.int b) x.acc }) s
          some (setRun k ch (some { r with passed := true, gather := [] }) s1)

/-- ADD_ON_WRITE_PASS. -/
def execAddOnWritePass (k ch : Nat) (collides : Bool) (s : State) :
    Host.Outcome State Fault Refusal :=
  happens (dueAddOnWritePass k ch collides s) s

/-! ## Completion (R171, R175, R277) -/

/-- Whether a running copy has come to its end. -/
def copyOver (r : CRun) : Bool :=
  match r.rem with
  | some x => decide (x.acked = x.next) && (r.stop || decide (x.next = tTotal r.tmpl))
  | none => r.stop || (decide (r.pos = tTotal r.tmpl) && !passDue r)

/-- Elements delivered: a stopped add-on-write has delivered none. -/
def delivered (r : CRun) : Nat := if tAccw r.tmpl && r.stop && r.copy.fill.isNone then 0 else r.pos

/-- The 16 bytes of a completion record (Table 8.6). -/
def recordOf (r : CRun) : List Byte :=
  leBytes 8 (r.copy.id.toNat * 2 ^ 32 + r.err * 2 ^ 24 + r.refused.toNat * 2 ^ 16 +
    (if r.pos = 0 then 0 else r.deliv.toNat) * 2 ^ 8 + 1) ++
  leBytes 8 (r.satn * 2 ^ 32 + delivered r)

/-- Both sequencers of a core see an event. -/
def coreEvent (k : Nat) (s : State) : State :=
  let f := fun (x : Seq) => { x with evt := x.evt ||| 1#3 }
  modSeq (2 * k + 1) f (modSeq (2 * k) f s)

/-- A release at SCOPE, the record, where one is wanted and can be written; then the ID is complete (R171, R184). -/
def finishCopy (k ch : Nat) (r : CRun) (s : State) : State :=
  let s0 := release k (tmplScope r.tmpl) s
  let s1 := if tRecva r.tmpl = 0 then s0 else match copyWrite k r.copy (tRecva r.tmpl) (recordOf r) s0 with
    | .ok t => t
    | .error (_, t) => t
  let s2 := modCore k (fun c =>
    let h := look Chan.init ch c.chans
    { c with chans := upd ch { h with done := r.copy.id, run := none
                                      scopes := h.scopes ++ [(r.copy.id, tmplScope r.tmpl)] } c.chans }) s1
  coreEvent k s2

/-- COPY_COMPLETE. -/
def dueCopyComplete (k ch : Nat) (s : State) : Option State :=
  match (look Chan.init ch (coreAt k s).chans).run with
  | none => none
  | some r =>
    if copyOver r && r.copy.fill.isNone then some (finishCopy k ch r s)
    else none

/-- COPY_COMPLETE. -/
def execCopyComplete (k ch : Nat) (s : State) :
    Host.Outcome State Fault Refusal :=
  happens (dueCopyComplete k ch s) s

/-- STREAM_FILL_COMPLETE: a fill of a binding that still stands makes FILLED grow. -/
def dueStreamFillComplete (k ch : Nat) (s : State) : Option State :=
  match (look Chan.init ch (coreAt k s).chans).run with
  | none => none
  | some r => match r.copy.fill with
    | none => none
    | some f =>
      if !copyOver r then none
      else
        let s1 := finishCopy k ch r s
        match fillHandle f s1 with
        | none => some s1
        | some _ =>
          let s2 := modSeq f.q (fun x =>
            { x with evt := x.evt ||| 2#3
                     handles := adj f.h (fun h => { h with filled := h.filled + 1 }) x.handles }) s1
          some (feed f.q f.h 256 s2)

/-- STREAM_FILL_COMPLETE. -/
def execStreamFillComplete (k ch : Nat) (s : State) :
    Host.Outcome State Fault Refusal :=
  happens (dueStreamFillComplete k ch s) s

end Sys2Proof.Machine
end

