-- ==== Sys2Proof/Machine/Kiln.lean ====
section
/-! DEFINITION. The kiln: streams, placement, restores, stage tasks, probes, commands, slots (R307 to R312,
R319 to R323, R285, R330, R331, R343, R344). -/

namespace Sys2Proof.Machine

/-! ## Interrupts (R362, R370) -/

/-- An interrupt source becomes pending on a sequencer: event bit 2 (R277), and a landing where none is chosen. -/
def raiseIrq (q src : Nat) (s : State) : State :=
  modSeq q (fun x =>
    Seq.choose { x with pirq := x.pirq ||| BitVec.ofNat 3 (2 ^ src), evt := x.evt ||| 4#3 }) s

/-! ## Streams (R319, R320) -/

/-- The control block of a stream. -/
def qcbOf (sag stream : Nat) (s : State) : Nat :=
  agentWord sag 0 (kcbWord sag 0 s % 2 ^ 48 + 8 * stream) s % 2 ^ 48

/-- The number of streams. -/
def nqcb (sag : Nat) (s : State) : Nat := kcbWord sag 8 s % 64

/-- A stream's fields. -/
structure Ring where
  qcb  : Nat
  ring : Nat
  cap  : Nat
  head : Nat
  tail : Nat
  vdev : Nat
  deriving DecidableEq, Repr

def ringAt (sag stream : Nat) (s : State) : Ring :=
  let q := qcbOf sag stream s
  let w := fun o => agentWord sag 0 (q + o) s
  ⟨q, w 0 % 2 ^ 48, w 8 % 2 ^ 21, w 16, w 24, bits (w 48) 21 16⟩

/-- The kiln takes the head record of a stream: HEAD moves on. -/
def takeHead (sag : Nat) (r : Ring) (s : State) : State := agentPut sag 0 (r.qcb + 16) ((r.head + 1) % 2 ^ 64) s

/-- The kiln refuses a record: STATE 11 with a reason. -/
def refuseRecord (sag vdev va reason : Nat) (s : State) : State :=
  agentPut sag vdev (va + 48) (wordAt ((agentRead sag vdev va 64 s).getD []) 6 / 2 ^ 32 * 2 ^ 32 +
    reason * 256 + 3) s

/-- The reads of a stream's head record by the kiln (R159): the control blocks, the record, a pipeline record. -/
def headSeen (sag : Nat) (r : Ring) (pl : Option (List Stage × List OQueue)) (pipe : Nat) (s : State) : State :=
  pipeSeen sag r.vdev pipe pl (agentSeen sag r.vdev (r.ring + 64 * (r.head % r.cap)) 64
    (agentSeen sag 0 r.qcb 128 (agentSeen sag 0 (kcbWord sag 0 s % 2 ^ 48) (8 * nqcb sag s) s)))

/-- What a saggar's kiln looks at over and over (R159, R320, R330): its control block, its slot table, the table of
streams, their control blocks, the records at their heads. -/
def kilnSeen (sag : Nat) (s : State) : State :=
  let g := sagAt sag s
  if g.kcb = 0 then s
  else
    let n := nqcb sag s
    let s1 := agentSeen sag 0 g.kcb 256 s
    let s2 := if g.slotTab = 0 then s1 else agentSeen sag 0 g.slotTab 1024 s1
    (List.range n).foldl (fun s i =>
      let r := ringAt sag i s
      let s1 := agentSeen sag 0 r.qcb 128 s
      if r.cap = 0 ∨ r.head = r.tail ∨ g.broken.contains i then s1
      else agentSeen sag r.vdev (r.ring + 64 * (r.head % r.cap)) 64 s1)
      (agentSeen sag 0 (kcbWord sag 0 s % 2 ^ 48) (8 * n) s2)

/-- What becomes of a head record: the next state, or none where it waits. -/
def headStep (sag : Nat) (r : Ring) (s : State) : Option State :=
  let va := r.ring + 64 * (r.head % r.cap)
  let no := fun reason => some (takeHead sag r (refuseRecord sag r.vdev va reason s))
  match agentRead sag r.vdev va 64 s with
  | none => no 4
  | some b =>
    let pl := if recPipe b = 0 then none else pipeFrom sag r.vdev (recPipe b) s
    let need := storageOf (pl.getD ([], [])).2
    if !recOk b || (recPipe b != 0 && pl.isNone) then no 4
    else if storageMax < need then no 5
    else if quotaFits sag r.qcb (recQcost b) s && decide (storageUsed (leadDie sag s) s + need ≤ storageMax) then
      some (takeHead sag r (acceptLaunch sag r.vdev r.qcb va b ⟨true, none, none, 0⟩ pl
        (headSeen sag r pl (recPipe b) s)))
    else none

/-- STREAM_RECORD_ACCEPT: the head record of a stream, or an overfull ring, which breaks the stream. -/
def dueStreamRecordAccept (sag stream : Nat) (s : State) : Option State :=
  let g := sagAt sag s
  let r := ringAt sag stream s
  let n := (r.tail + 2 ^ 64 - r.head) % 2 ^ 64
  if nqcb sag s ≤ stream ∨ g.broken.contains stream ∨ r.cap = 0 ∨ n = 0 then
    none
  else if r.cap < n then
    let w := agentWord sag 0 (r.qcb + 40) s
    some (agentPut sag 0 (r.qcb + 40) (w % 2 ^ 63 + 2 ^ 63)
      (modSag sag (fun g => { g with broken := g.broken ++ [stream] }) s))
  else match headStep sag r s with
    | some t => some t
    | none => none

/-- STREAM_RECORD_ACCEPT. -/
def execStreamRecordAccept (sag stream : Nat) (s : State) :
    Host.Outcome State Fault Refusal :=
  happens (dueStreamRecordAccept sag stream s) s

/-! ## The start of a group (R43, R49, R317, R318) -/

/-- Handles that the loader binds before the first bundle, as HBIND does (R49); one that HBIND would refuse stays
unbound (log entry 77). -/
def bindAll (q sag vdev : Nat) : List (Nat × Nat) → State → State
  | [], s => s
  | (h, va) :: l, s =>
    match if va % 32 = 0 then (agentRead sag vdev va 32 s).bind (handleFrom va) else none with
    | none => bindAll q sag vdev l s
    | some hd =>
      if ringFree q h hd s then
        let (n, s1) := fresh (agentSeen sag vdev va 32 s)
        bindAll q sag vdev l (feed q h 256 (modSeq q (fun x =>
          { x with handles := upd h { hd with serial := n } x.handles }) s1))
      else bindAll q sag vdev l s

/-- Glaze words written from a number on. -/
def glazeFrom : Nat → List (BitVec 256) → Map (BitVec 256) → Map (BitVec 256)
  | _, [], m => m
  | n, w :: l, m => glazeFrom (n + 1) l (put 0 (n % 512) w m)

/-- What the loader does for a task on sequencer `q` before its first bundle. -/
def loadTask (q sag vdev : Nat) (entry : Word) (s : State) : State :=
  match loadOf sag vdev entry.toNat s with
  | none => s
  | some l =>
    let s1 := modCore (q / 2) (fun c =>
      { c with glaze := l.glaze.foldl (fun m p => glazeFrom p.1 p.2 m) c.glaze }) s
    bindAll q sag vdev l.streams s1

/-- Doublewords 0 to n − 1 of a parameter block. -/
def paramWords (l : Launch) (n : Nat) (s : State) : List Word :=
  (List.range n).map fun i => BitVec.ofNat 64 (agentWord l.sag l.vdev (l.param.toNat + 8 * i) s)

/-- Start a new task of a launch on sequencer `q`, and write its trace record. -/
def placeTask (l : Launch) (tn : Nat) (t : Task) (q : Nat) (entry : Word) (regs : List Word) (s : State) : State :=
  loadTask q l.sag l.vdev entry (startTask tn t q l.vdev entry regs s)

/-! ## Placement (R321) -/

/-- Whether one launch ranks before another. -/
def ranksBefore (a b : Launch) : Bool :=
  decide (b.prio < a.prio) || (a.prio == b.prio && (decide (a.tstamp.toNat < b.tstamp.toNat) ||
    (a.tstamp == b.tstamp && decide (a.seqno < b.seqno))))

/-- Insert by rank. -/
def insRank (x : Nat × Launch) : Map Launch → Map Launch
  | [] => [x]
  | y :: l => if ranksBefore x.2 y.2 then x :: y :: l else y :: insRank x l

/-- The launches of a saggar that may be placed, pipelines among them, in placement order. -/
def byRank (sag : Nat) (s : State) : Map Launch :=
  (s.launches.filter fun p => p.2.sag == sag && mayPlace p.2 s).foldl
    (fun l x => insRank x l) []

/-- The lowest gang queued on a cluster of a dealt launch. -/
def dealtLow (n c : Nat) (d : Nat × Nat × Option Nat) : Option Nat :=
  match d with
  | (lo, hi, some x) => if lo < hi then some (min x (c + lo * n)) else some x
  | (lo, hi, none) => if lo < hi then some (c + lo * n) else none

/-- Insert by gang number. -/
def insInst (x : Nat × Option Nat) : List (Nat × Option Nat) → List (Nat × Option Nat)
  | [] => [x]
  | y :: l => if x.1 < y.1 then x :: y :: l else y :: insInst x l

/-- The gangs of a launch that stand next, in ascending order: each with its cluster where it was dealt. -/
def nextGangs (l : Launch) : List (Nat × Option Nat) :=
  if l.deal.isEmpty then (if l.next ≤ l.ngrid then [(l.next, none)] else [])
  else (l.deal.filterMap fun p => (dealtLow l.n0 p.1 p.2).map fun i => (i, some p.1)).foldl
    (fun m x => insInst x m) []

/-- The sequencers that a group would take on a logical cluster (HINT). -/
def groupSeqs (l : Launch) (c : Nat) (s : State) : Option (List Nat) :=
  let free := fun i => (seqAt (physCluster l.sag c s * 16 + i) s).run == .off && !inPipe l.sag (c * 8 + i / 2) s
  let pick := fun (is : List Nat) => if is.all free then some is else none
  match l.hint with
  | 1 => pick (List.range l.group)
  | 2 => pick ((List.range l.group).map (2 * ·))
  | _ =>
    let is := ((List.range 16).filter free).take l.group
    if is.length = l.group then some is else none

/-- The groups of a gang from cluster `c` on: cluster and sequencers; none where one does not fit. -/
def gangFrom (l : Launch) (ln inst : Nat) (s : State) : Nat → Nat → Option (List (Nat × List Nat))
  | 0, _ => some []
  | n + 1, c =>
    if clusterOpen l.sag l.vdev (some (ln, inst)) c s then
      match groupSeqs l c s, gangFrom l ln inst s n (c + 1) with
      | some q, some r => some ((c, q) :: r)
      | _, _ => none
    else none

/-- Where a gang would be placed: on its dealt cluster, or on the lowest that lets every group fit; with a
context area for every task (R317). -/
def fitGang (l : Launch) (ln inst : Nat) (at_ : Option Nat) (s : State) : Option (List (Nat × List Nat)) :=
  let n := l.gang * l.group
  if (freeAreas l.sag n s).length < n then none
  else match at_ with
    | some c => gangFrom l ln inst s l.gang c
    | none => (List.range (sagAt l.sag s).clusters.length).findSome? fun c => gangFrom l ln inst s l.gang c

/-- What the kiln places next: a gang of a launch, where it was dealt and its places; or a core of a pipeline: its
stage, the consumer and the core. -/
inductive Placing
  | gang (ln inst : Nat) (dealtTo : Option Nat) (places : List (Nat × List Nat))
  | core (ln pipe stage idx core : Nat)
  deriving DecidableEq, Repr

/-- The first work in placement order that fits (R321). -/
def nextPlacement (sag : Nat) (s : State) : Option Placing :=
  (byRank sag s).findSome? fun p => match p.2.pipe with
    | some pn => (nextCore p.2 s).map fun c => .core p.1 pn c.1 c.2.1 c.2.2
    | none => (nextGangs p.2).findSome? fun x =>
        (fitGang p.2 p.1 x.1 x.2 s).map fun pl => .gang p.1 x.1 x.2 pl

/-- Start the tasks of a gang: each item a task's group, number, cluster, sequencer and context area. -/
def placeAll (ln inst : Nat) (l : Launch) (regs : List Word) : List (Nat × Nat × Nat × Nat × Nat) → State → State
  | [], s => s
  | (j, i, c, q, a) :: rest, s =>
    let (tn, s1) := fresh s
    let t : Task :=
      { sag := l.sag, launch := ln, inst := inst, grp := j, idx := i, sid := c * 16 + q, on := none, bars := []
        ctx := a, ended := false, yielded := false, live := none, lanes := [], uhold := .none, mfault := []
        fed := [], pirq := 0, stage := none }
    let s2 := placeTask l tn t (physCluster l.sag c s * 16 + q) l.entry regs s1
    placeAll ln inst l regs rest (trace l.sag 1 0 (taskTag t s2) noCore (c * 8 + q / 2) 0 none s2)

/-- The tasks of a placed gang, in order, with context areas. -/
def gangItems (pl : List (Nat × List Nat)) (areas : List Nat) : List (Nat × Nat × Nat × Nat × Nat) :=
  let all := (pl.zipIdx.map fun p => (p.1.2.zipIdx.map fun q => (p.2, q.2, p.1.1, q.1))).flatten
  (all.zip areas).map fun x => (x.1.1, x.1.2.1, x.1.2.2.1, x.1.2.2.2, x.2)

/-- The gang is no longer queued. -/
def unqueue (ln inst : Nat) (at_ : Option Nat) (s : State) : State :=
  modLaunch ln (fun l =>
    let deal := match at_ with
      | none => l.deal
      | some c =>
        let d := look (0, 0, none) c l.deal
        upd c (if d.2.2 = some inst then (d.1, d.2.1, none) else (d.1 + 1, d.2.1, d.2.2)) l.deal
    { l with deal := deal, next := if at_.isNone then l.next + 1 else l.next }) s

/-- The reads of a placement by the kiln (R159): the slot table and the parameter block. -/
def placeSeen (l : Launch) (s : State) : State :=
  let t := (sagAt l.sag s).slotTab
  agentSeen l.sag l.vdev l.param.toNat 128 (if t = 0 then s else agentSeen l.sag 0 t 1024 s)

/-- A gang is placed: its window is given up, all its tasks start. -/
def placeGang (ln inst : Nat) (l : Launch) (at_ : Option Nat) (pl : List (Nat × List Nat)) (s : State) : State :=
  let ps := paramWords l 16 s
  let regs := if 0 < l.ngrid then ps.take 15 ++ [BitVec.ofNat 64 inst] else ps
  let s1 := modSag l.sag (fun g =>
    { g with windows := g.windows.filter fun w => !(w.launch == ln && w.inst == inst) }) (unqueue ln inst at_ s)
  placeAll ln inst l regs (gangItems pl (freeAreas l.sag (l.gang * l.group) s)) (placeSeen l s1)

/-- GANG_PLACEMENT: the first work in placement order that fits: a gang's tasks all start in the step; a pipeline takes
one core, as gang 0. -/
def dueGangPlacement (sag ln inst : Nat) (s : State) : Option State :=
  match nextPlacement sag s, find ln s.launches with
  | some (.gang n i at_ pl), some l => if n ≠ ln ∨ i ≠ inst then none else some (placeGang ln inst l at_ pl s)
  | some (.core n pn st i c), some l => if n ≠ ln ∨ inst ≠ 0 then none else some (giveCore l pn st i c s)
  | _, _ => none

/-- GANG_PLACEMENT. -/
def execGangPlacement (sag ln inst : Nat) (s : State) :
    Host.Outcome State Fault Refusal :=
  happens (dueGangPlacement sag ln inst s) s

/-! ## Backfill (R321) -/

/-- The gangs of a launch that are queued, as many as there can be windows and one more, in ascending order. -/
def queuedGangs (l : Launch) : List (Nat × Option Nat) :=
  if l.pipe.isSome then []
  else if l.deal.isEmpty then (List.range (min (l.ngrid + 1 - l.next) 513)).map fun i => (l.next + i, none)
  else ((l.deal.map fun p => (p.2.2.2.toList ++ (List.range (min (p.2.2.1 - p.2.1) 513)).map fun j =>
      p.1 + (p.2.1 + j) * l.n0).map fun i => (i, some p.1)).flatten).foldl (fun m x => insInst x m) []

/-- 2^20 kiln cycles at 1.0 GHz, in cycles of 4.0 GHz. -/
def backfillLimit : Nat := 4 * 2 ^ 20

/-- The lowest window for a gang that overlaps none reserved. -/
def freeWindow (l : Launch) (s : State) : Option Nat :=
  let g := sagAt l.sag s
  (List.range g.clusters.length).find? fun c =>
    decide (c + l.gang ≤ g.clusters.length) &&
      (List.range l.gang).all (fun j => clusterOwn l.sag (c + j) s && slotAllows l.sag l.vdev (c + j) s) &&
      !g.windows.any fun w => overlaps c l.gang w.first w.n

/-- Whether a gang holds a window. -/
def hasWindow (sag ln inst : Nat) (s : State) : Bool :=
  (sagAt sag s).windows.any fun w => w.launch == ln && w.inst == inst

/-- The gang that reserves next, in placement order: its launch, number and window. A gang waits from its launch's
acceptance on. -/
def nextReservation (sag : Nat) (s : State) : Option (Nat × Nat × Nat) :=
  (byRank sag s).findSome? fun p =>
    if s.phys < p.2.since + backfillLimit then none
    else (queuedGangs p.2).findSome? fun x =>
      if hasWindow sag p.1 x.1 s || (fitGang p.2 p.1 x.1 x.2 s).isSome then none
      else (freeWindow p.2 s).map fun c => (p.1, x.1, c)

/-- BACKFILL_RESERVATION. -/
def dueBackfillReservation (sag ln inst : Nat) (s : State) : Option State :=
  match nextReservation sag s, find ln s.launches with
  | some (n, i, c), some l =>
    if n ≠ ln ∨ i ≠ inst then none
    else some (modSag sag (fun g => { g with windows := g.windows ++ [⟨ln, inst, c, l.gang⟩] }) s)
  | _, _ => none

/-- BACKFILL_RESERVATION. -/
def execBackfillReservation (sag ln inst : Nat) (s : State) :
    Host.Outcome State Fault Refusal :=
  happens (dueBackfillReservation sag ln inst s) s

/-! ## Restores (R285) -/

/-- Whether a sequencer's core is one that a yielded task may resume on: any that takes work of its device; a stage
task, its consumer's (R285, R286, R339, R344). -/
def restoreCore (t : Task) (vdev q : Nat) (s : State) : Bool :=
  let g := sagAt t.sag s
  let lc := logCluster t.sag (q / 16) s * 8 + q / 2 % 8
  (seqAt q s).run == .off &&
    (match t.stage with
     | none => decide (q / 16 < 512) && g.clusters.contains (q / 16) && !inPipe t.sag lc s &&
         !g.leaving.contains (q / 16) &&
         !g.answers.any (fun a => a.2 == q / 16) && !g.moving.any (fun m => m.2 == q / 16) &&
         slotAllows t.sag vdev (lc / 8) s
     | some _ => decide (q % 2 = 0) && physCore t.sag (t.sid / 2) s == q / 2 &&
         !g.moving.any (fun m => m.1 == q / 16) &&
         slotAllows t.sag vdev (t.sid / 16) s)

/-- Whether the restored window and rings would clash with the other sequencer of the core. -/
def restoreClash (x : Seq) (q : Nat) (s : State) : Bool :=
  windowClash (sibling q) x.vwb.toNat 56 s || ringClash (sibling q) none x.vwb.toNat 56 s ||
    x.handles.any fun h => windowClash (sibling q) h.2.base h.2.len s ||
      ringClash (sibling q) none h.2.base h.2.len s

/-- Whether a yielded task may be restored on a sequencer. -/
def mayRestore (tn q : Nat) (s : State) : Bool :=
  match find tn s.tasks with
  | none => false
  | some t => match find t.launch s.launches with
    | none => false
    | some l => t.yielded && !t.ended && restoreCore t l.vdev q s && !restoreClash (seqFrom (areaReader t s) t tn l.vdev s) q s

/-- Whether another yielded task that may resume there ranks before this one (R282). -/
def outranked (tn q : Nat) (s : State) : Bool :=
  let launchOf := fun n => match find n s.tasks with
    | some t => find t.launch s.launches
    | none => none
  s.tasks.any fun p => p.2.yielded && p.1 != tn && mayRestore p.1 q s &&
    (match launchOf p.1, launchOf tn with
     | some a, some b => ranksBefore a b
     | _, _ => false)

/-- New bindings for restored handles, and their feeding. -/
def rebind (q : Nat) : List Nat → State → State
  | [], s => s
  | h :: l, s =>
    let (n, s1) := fresh s
    rebind q l (feed q h 256 (modSeq q (fun x =>
      { x with handles := adj h (fun d => { d with serial := n }) x.handles }) s1))

/-- A restored PC that is not a bundle start raises 0x0B at the first resumed bundle, after a barrier that holds the
task (R285). -/
def badStart (q : Nat) (s : State) : State :=
  let x := seqAt q s
  match targetFault q x.pc s with
  | some (0x0B, v) => modSeq q (fun x =>
      if x.hold = .none then { x with hold := .trap 0x0B v x.pc } else { x with uhold := .trap 0x0B v x.pc }) s
  | _ => s

/-- Where pieces of a record lie, those that follow one another joined. -/
def spans : List (Nat × List Byte) → List (Nat × Nat)
  | [] => []
  | (o, b) :: l => match spans l with
    | (e, n) :: r => if o + b.length = e then (o, b.length + n) :: r else (o, b.length) :: (e, n) :: r
    | [] => [(o, b.length)]

/-- A restore reads of its area what a save of the restored task writes (R259, R284). -/
def imageSeen (q : Nat) (t : Task) (s : State) : State :=
  (spans (imagePieces q (seqAt q s).pc t.live s)).foldl (fun s p =>
    agentSeen t.sag 0 (areaAt t.sag t.ctx s + p.1) p.2 s) s

/-- A saved task resumes on a sequencer: an acquire at sy, then the image (R285); an interrupt that has come to the
sequencer while it ran nothing is pending, and its event bit set (R362). -/
def resumeTask (tn q : Nat) (s : State) : State :=
  match find tn s.tasks with
  | none => s
  | some t =>
    let vdev := match find t.launch s.launches with
      | some l => l.vdev
      | none => 0
    let s1 := acquire (q / 2) 3 s
    let x := seqFrom (areaReader t s1) t tn vdev s1
    let s2 := modCore (q / 2) (fun c => { c with vfile := filesFrom (areaReader t s1) t x c.vfile }) s1
    let s3 := imageSeen q t (modSeq q (fun y => Seq.choose { x with
      pirq := t.pirq ||| y.pirq, evt := if y.pirq = 0 then x.evt else x.evt ||| 4#3 }) s2)
    let s4 := modTask tn (fun t =>
      { t with on := some q, yielded := false, live := none, lanes := [], uhold := .none, mfault := [], fed := []
               pirq := 0 }) s3
    badStart q (rebind q (x.handles.map (·.1)) s4)

/-- The kiln restores a saved task: the decision has its record (R327). -/
def restoreTask (tn q : Nat) (s : State) : State :=
  match find tn s.tasks with
  | none => s
  | some t =>
    let lc := if t.stage.isSome then t.sid / 2 else logCluster t.sag (q / 16) s * 8 + q / 2 % 8
    trace t.sag 1 0 (taskTag t s) noCore lc 0 ((find t.launch s.launches).bind fun l => tickOf l s) (resumeTask tn q s)

/-- CONTEXT_RESTORE. -/
def dueContextRestore (tn q : Nat) (s : State) : Option State :=
  if !mayRestore tn q s || outranked tn q s then none
  else some (restoreTask tn q s)

/-- CONTEXT_RESTORE. -/
def execContextRestore (tn q : Nat) (s : State) :
    Host.Outcome State Fault Refusal :=
  happens (dueContextRestore tn q s) s

/-! ## Delivery to stages (R286, R307, R310) -/

/-- The core of a consumer for an element: a consumer that the stage has lost still runs those below its bound
(R309). -/
def consumerCore (st : Stage) (i sn : Nat) : Option Nat :=
  match st.olds.find? fun o => o.1 == i && decide (sn < o.2.1) with
  | some o => o.2.2
  | none => nth none i st.cores

/-- The core of a consumer that can take an element: it has come, it runs no task and is not to be moved, its device's
slot is in force. -/
def consumerIdle (pn st i sn : Nat) (s : State) : Option Nat :=
  let p := pipeAt pn s
  match consumerCore (nth Stage.none_ st p.stages) i sn with
  | none => none
  | some c =>
    if coreBusy pn c s || (seqAt (2 * physCore p.sag c s) s).run != .off ||
        (sagAt p.sag s).moving.any (fun m => m.1 == physCore p.sag c s / 8) ||
        !slotAllows p.sag (p.vdev s) (c / 8) s then none
    else some c

/-- The consumer of an element: e mod k(m), once k(m) is fixed; in free mode the first idle one. -/
def consumerOf (pn st sn : Nat) (s : State) : Option (Nat × Nat) :=
  let p := pipeAt pn s
  let x := nth Stage.none_ st p.stages
  if p.det then match x.kAt (sn / 16) with
    | none => none
    | some k => (consumerIdle pn st (sn % k) sn s).map fun c => (sn % k, c)
  else (List.range x.k).findSome? fun i => (consumerIdle pn st i sn s).map fun c => (i, c)

/-- The element that a stage's queue delivers next: its place, the consumer, the consumer's core. In
deterministic mode the lowest element of each consumer; in free mode the head only. -/
def nextElement (pn st : Nat) (s : State) : Option (Nat × Nat × Nat) :=
  let p := pipeAt pn s
  let l := (queueAt pn (nth Stage.none_ st p.stages).qin s).elems
  let l := if p.det then l else l.take 1
  l.zipIdx.findSome? fun e => (consumerOf pn st e.1.sn s).map fun c => (e.2, c.1, c.2)

/-- ELEMENT_DELIVERY: the element leaves its queue and a stage task starts with it. -/
def dueElementDelivery (pn st : Nat) (s : State) : Option State :=
  let p := pipeAt pn s
  let x := nth Stage.none_ st p.stages
  match find pn s.pipes, nextElement pn st s, find p.launch s.launches, freeAreas p.sag 1 s with
  | some _, some (i, ci, core), some l, a :: _ =>
    let e := nth ⟨0, [], none⟩ i (queueAt pn x.qin s).elems
    let (tn, s1) := fresh (modQueue pn x.qin (fun q => { q with elems := q.elems.eraseIdx i }) s)
    let t : Task :=
      { sag := p.sag, launch := p.launch, inst := tn, grp := 0, idx := ci, sid := 2 * core, on := none, bars := []
        ctx := a, ended := false, yielded := false, live := none, lanes := [], uhold := .none, mfault := []
        fed := [], pirq := 0, stage := some ⟨pn, st, ci, e.sn, e.data, false⟩ }
    let regs := [BitVec.ofNat 64 (queueAt pn x.qin s).va, BitVec.ofNat 64 (queueAt pn x.qout s).va,
      BitVec.ofNat 64 ci, BitVec.ofNat 64 e.sn] ++ paramWords l 12 s
    some (placeTask l tn t (2 * physCore p.sag core s) x.entry regs (placeSeen l s1))
  | _, _, _, _ => none

/-- ELEMENT_DELIVERY. -/
def execElementDelivery (pn st : Nat) (s : State) :
    Host.Outcome State Fault Refusal :=
  happens (dueElementDelivery pn st s) s

/-- FREE_MODE_REBALANCE: the rule of R308 on COUNTs; a donor's consumer takes no further element. -/
def dueFreeModeRebalance (pn : Nat) (s : State) : Option State :=
  match find pn s.pipes with
  | none => none
  | some p =>
    if p.det then none
    else some (rebalance pn 0 (some p.tick) s)

/-- FREE_MODE_REBALANCE. -/
def execFreeModeRebalance (pn : Nat) (s : State) :
    Host.Outcome State Fault Refusal :=
  happens (dueFreeModeRebalance pn s) s

/-! ## Probes (R311, R312) -/

/-- The queues, with their pipelines, that a probe at the tasks of a stage forwards to, `below` a sequence number where
one is given. A task that waits for order forwards to the tasks whose end it awaits. -/
def forwards (pn u : Nat) (s : State) : Nat → Option Nat → List (Nat × Nat)
  | 0, _ => []
  | f + 1, below =>
    let ts := s.tasks.filter fun p => !p.2.ended && (match p.2.stage with
      | some x => x.pipe == pn && x.stage == u && (match below with
        | some n => decide (x.sn < n)
        | none => true)
      | none => false)
    (ts.map fun p => match p.2.on, p.2.stage with
      | some q, some x => match (seqAt q s).wait with
        | .qpush pn' y order _ _ => if order then forwards pn u s f (some x.sn) else [(pn', y)]
        | _ => []
      | _, _ => []).flatten

/-- The queues that a probe at a queue goes on to. -/
def probeNext (s : State) (x : Nat × Nat) : List (Nat × Nat) :=
  match (pipeAt x.1 s).sink x.2 with
  | none => []
  | some u => forwards x.1 u s 64 none

/-- Whether a probe at some of the queues `l` reaches queue `y`. -/
def reaches (y : Nat × Nat) (s : State) : Nat → List (Nat × Nat) → Bool
  | 0, _ => false
  | f + 1, l =>
    let m := ((l.map (probeNext s)).flatten).eraseDups
    m.contains y || reaches y s f m

/-- The number of queues of live pipelines, which no path without a repetition exceeds. -/
def queueCount (s : State) : Nat := (s.pipes.map fun p => p.2.queues.length).sum

/-- PROBE_SEND: after 4,096 cycles on a full queue, and every 4,096 after that. Its branches go as the tasks stand at that
moment: a task that runs ends its branch (R311, log entry 42). -/
def dueProbeSend (q : Nat) (s : State) : Option State :=
  match (seqAt q s).wait with
  | .qpush pn y false false n =>
    if n < 4096 then none
    else
      let tag := match find (seqAt q s).task s.tasks with
        | some t => taskTag t s
        | none => noTask
      let s1 := modSeq q (fun x => { x with wait := .qpush pn y false false 0 }) s
      let s2 := { s1 with probes := s1.probes ++ [⟨pn, y, q, 0, reaches (pn, y) s (queueCount s) [(pn, y)]⟩] }
      some (trace (pipeAt pn s).sag 6 0 tag noCore noCore (queueAt pn y s).va (some (pipeAt pn s).tick) s2)
  | _ => none

/-- PROBE_SEND. -/
def execProbeSend (q : Nat) (s : State) :
    Host.Outcome State Fault Refusal :=
  happens (dueProbeSend q s) s

/-- Whether a queue's reserve entry is free: it holds no element, and is granted to no one. -/
def reserveFree (pn y : Nat) (s : State) : Bool :=
  decide ((queueAt pn y s).count ≤ (queueAt pn y s).cap) && !s.seqs.any fun p => match p.2.wait with
    | .qpush a b _ granted _ => a == pn && b == y && granted
    | _ => false

/-- PROBE_RETURN: a branch has come back; the free reserve entry of a queue that is still full is granted to the push that still waits. -/
def dueProbeReturn (n : Nat) (s : State) : Option State :=
  match s.probes[n]? with
  | none => none
  | some p =>
    if !p.back then none
    else
      let s1 := { s with probes := s.probes.eraseIdx n }
      match (seqAt p.q s).wait with
      | .qpush pn y false false _ =>
        if pn = p.pipe ∧ y = p.queue ∧ reserveFree pn y s ∧ (queueAt pn y s).cap ≤ (queueAt pn y s).count then
          some (modSeq p.q (fun x => { x with wait := .qpush pn y false true 0 }) s1)
        else some s1
      | _ => some s1

/-- PROBE_RETURN. -/
def execProbeReturn (n : Nat) (s : State) :
    Host.Outcome State Fault Refusal :=
  happens (dueProbeReturn n s) s

/-- PROBE_DROP: a probe older than 65,536 cycles. -/
def dueProbeDrop (n : Nat) (s : State) : Option State :=
  match s.probes[n]? with
  | none => none
  | some p =>
    if p.age < 65536 then none
    else some { s with probes := s.probes.eraseIdx n }

/-- PROBE_DROP. -/
def execProbeDrop (n : Nat) (s : State) :
    Host.Outcome State Fault Refusal :=
  happens (dueProbeDrop n s) s

/-! ## Commands (R330, R331) -/

/-- The command a saggar's kiln has been given. -/
def kilnCmd (sag : Nat) (s : State) : Nat := if (sagAt sag s).kcb = 0 then 0 else kcbWord sag 56 s % 256

/-- A command is done: CMDSTAT, then CMD cleared. -/
def cmdDone (sag result : Nat) (s : State) : State := kcbPut sag 56 0 (kcbPut sag 72 (2 ^ 63 + result) s)

/-- Every stream is read again, but those whose BROKEN still stands. -/
def rescan (sag : Nat) (s : State) : State :=
  let bs := (List.range (nqcb sag s)).filter fun i => bit (agentWord sag 0 (qcbOf sag i s + 40) s) 63
  modSag sag (fun g => { g with broken := bs }) s

/-- KILN_RESCAN_STREAMS: command 1; a number that is no command has result 2. -/
def dueKilnRescanStreams (sag : Nat) (s : State) : Option State :=
  match kilnCmd sag s with
  | 0 => none
  | 1 => some (cmdDone sag 0 (rescan sag s))
  | 2 => none
  | 3 => none
  | 4 => none
  | _ => some (cmdDone sag 2 s)

/-- KILN_RESCAN_STREAMS. -/
def execKilnRescanStreams (sag : Nat) (s : State) :
    Host.Outcome State Fault Refusal :=
  happens (dueKilnRescanStreams sag s) s

/-- The live launch of a record: the newest, where the record has been used again (log entry 45). -/
def launchAt (sag va : Nat) (s : State) : Option (Nat × Launch) :=
  (s.launches.filter fun p => p.2.sag == sag && p.2.va == va && !p.2.dead).getLast?

/-- The live pipeline that a command stream's record at an address has made (R286): one still open first. -/
def streamPipe (sag va : Nat) (s : State) : Option Nat :=
  let l := s.launches.filterMap fun p =>
    if p.2.sag == sag && p.2.va == va && !p.2.dead && p.2.stream then p.2.pipe else none
  (l.find? fun pn => !(pipeAt pn s).closed) <|> l.head?

/-- Cancel a launch and every task of it. -/
def cancelLaunch (ln reason : Nat) (s : State) : State :=
  let ts := s.tasks.filter fun p => p.2.launch == ln && !p.2.ended
  let s1 := killLaunch ln reason s
  ts.foldl (fun s p => endTask p.1 false s) s1

/-- KILN_CANCEL_LAUNCH: command 2; an ARG that names no live launch has result 2. -/
def dueKilnCancelLaunch (sag : Nat) (s : State) : Option State :=
  if kilnCmd sag s ≠ 2 then none
  else match launchAt sag (kcbWord sag 64 s) s with
    | none => some (cmdDone sag 2 s)
    | some (ln, l) =>
      let s1 := trace sag 9 0 (l.seqno % 2 ^ 24 * 256) noCore noCore 0 (tickOf l s) s
      some (cmdDone sag 0 (cancelLaunch ln 2 s1))

/-- KILN_CANCEL_LAUNCH. -/
def execKilnCancelLaunch (sag : Nat) (s : State) :
    Host.Outcome State Fault Refusal :=
  happens (dueKilnCancelLaunch sag s) s

/-- KILN_CLOSE_PIPELINE: command 4. -/
def dueKilnClosePipeline (sag : Nat) (s : State) : Option State :=
  if kilnCmd sag s ≠ 4 then none
  else match streamPipe sag (kcbWord sag 64 s) s with
    | none => some (cmdDone sag 2 s)
    | some pn => some (cmdDone sag 0 (settlePipes (modPipe pn (fun p => { p with closed := true }) s)))

/-- KILN_CLOSE_PIPELINE. -/
def execKilnClosePipeline (sag : Nat) (s : State) :
    Host.Outcome State Fault Refusal :=
  happens (dueKilnClosePipeline sag s) s

/-! ### Signatures and measurement (R353, R354) -/

/-- Whether both signatures of an image's digest verify under a key (R354). -/
def imageOk (key : Nat) (i : Image) : Bool :=
  let d := sha384 i.data
  ecdsaValid (Config.ecdsaKey key) d i.ecdsa && lmsValid (Config.lmsKey key) (leBytes 48 d.toNat) i.lms

/-- Extend measurement register `n` with bytes (R353). -/
def extend (n : Nat) (x : List Byte) (s : State) : State :=
  let old := look 0 n s.rot.regs
  { s with rot := { s.rot with regs := put 0 n (sha384 (leBytes 48 old.toNat ++ x)) s.rot.regs } }

/-- The digest of an image, as bytes. -/
def digestOf (i : Image) : List Byte := sha384Bytes i.data

/-- KILN_RELOAD_MICROCODE: command 3. -/
def dueKilnReloadMicrocode (sag : Nat) (s : State) : Option State :=
  if kilnCmd sag s ≠ 3 then none
  else
    let a := kcbWord sag 64 s
    match agentRead sag 0 a 64 s with
    | none => some (cmdDone sag 2 s)
    | some h =>
      let n := Config.imageSize h
      if 256 * 1024 < n then some (cmdDone sag 3 s)
      else match agentRead sag 0 a n s with
        | none => some (cmdDone sag 2 s)
        | some b =>
          let (d, v, o) := Config.imageParts b
          let ok := (s.rot.owner && imageOk Config.vendorKey ⟨d, v.1, v.2⟩ && imageOk Config.ownerKey ⟨d, o.1, o.2⟩) ||
            (s.rot.research && imageOk Config.researchKey ⟨d, o.1, o.2⟩)
          let s1 := agentSeen sag 0 a n s
          if ok then some (cmdDone sag 0 (rescan sag (extend 3 (sha384Bytes d) s1)))
          else some (cmdDone sag 1 s1)

/-- KILN_RELOAD_MICROCODE. -/
def execKilnReloadMicrocode (sag : Nat) (s : State) :
    Host.Outcome State Fault Refusal :=
  happens (dueKilnReloadMicrocode sag s) s

/-! ## SLOT_END (R233, R344) -/

/-- GRIDPOS of each stream of a device: the next gang of its head launch. -/
def savePositions (sag vdev : Nat) : List Nat → State → State
  | [], s => s
  | i :: l, s =>
    let r := ringAt sag i s
    if r.vdev ≠ vdev then savePositions sag vdev l s
    else match (byRank sag s).find? fun p =>
        p.2.qcb == r.qcb && p.2.pipe.isNone && !(nextGangs p.2).isEmpty with
      | none => savePositions sag vdev l s
      | some (_, x) =>
        savePositions sag vdev l (agentPut sag 0 (r.qcb + 56) (((nextGangs x).headD (0, none)).1) s)

/-- Interrupt source 0 on each sequencer that still runs a device's task. -/
def irqDevice (sag vdev : Nat) (s : State) : State :=
  (s.seqs.filter fun p => p.2.run == .running && p.2.sagid.toNat == sag && p.2.vdev == vdev).foldl
    (fun s p => raiseIrq p.1 0 s) s

/-- SLOT_END: the next valid entry, which may be the same one again; the outgoing device's streams keep their positions,
its running tasks are interrupted. -/
def dueSlotEnd (sag : Nat) (s : State) : Option State :=
  match curSlot sag s, slotFrom sag (sagAt sag s).slot s with
  | some (d, _, _), some i =>
    match slotFrom sag (i + 1) s with
    | none => none
    | some j =>
      let s1 := modSag sag (fun g => { g with slot := j }) s
      some (trace sag 2 6 noTask noCore noCore 0 none
        (irqDevice sag d (savePositions sag d (List.range (nqcb sag s)) s1)))
  | _, _ => none

/-- SLOT_END. -/
def execSlotEnd (sag : Nat) (s : State) :
    Host.Outcome State Fault Refusal :=
  happens (dueSlotEnd sag s) s

end Sys2Proof.Machine
end

