-- ==== Sys2Proof/Machine/Events.lean ====
section
/-! DEFINITION. What happens to a sequencer and its core outside its bundles: traps held back, interrupts
and pre-emption (R234, R370), invalidations (R279), the writes of BANKROLE, VWB and TCAUSE, the L1, results
that arrive (R226), the merge with the sibling (R34). -/

namespace Sys2Proof.Machine

/-- SEQUENCER_1_STARVATION_ISSUE: refused 16 times, sequencer 1 issues alone in its core's next turn, for which
sequencer 0 is held (R34). -/
def dueSequencer1StarvationIssue (core : Nat) (s : State) : Option State :=
  if (coreAt core s).refused < 16 ∨ mayDispatch (2 * core + 1) s = false then
    none
  else some (modCore core (fun c => { c with refused := 0, starved := true }) s)

/-- SEQUENCER_1_STARVATION_ISSUE. -/
def execSequencer1StarvationIssue (core : Nat) (s : State) :
    Host.Outcome State Fault Refusal :=
  happens (dueSequencer1StarvationIssue core s) s

/-- PAUSE_HOLD_END: the rest of a PAUSE's cycles have passed (R79). -/
def duePauseHoldEnd (q : Nat) (s : State) : Option State :=
  if (seqAt q s).pause = 0 then none else some (modSeq q (fun x => { x with pause := 0 }) s)

/-- PAUSE_HOLD_END (R79). -/
def execPauseHoldEnd (q : Nat) (s : State) :
    Host.Outcome State Fault Refusal :=
  happens (duePauseHoldEnd q s) s

/-! ## Traps (R265) -/

/-- The trap that a sequencer is to take now, with its TADDR: one that has waited for a matrix call, one that a
slot of its bundle has found, or one found at dispatch; each held while a matrix call is in the unit. -/
def trapDue (q : Nat) (s : State) : Option (Nat × Word × Word) :=
  let x := seqAt q s
  if x.run != .running || x.mrow.busy then none
  else match x.hold with
    | .trap c v a => some (c, v, a)
    | _ => match x.bun.words, x.bun.trapped with
      | _ :: _, some (c, v) => some (c, v, x.bun.addr)
      | _, _ =>
        if mayDispatch q s then match dispatch q s with
          | .error e => let (c, v) := trapCause q e.1 e.2 s
            some (c, v, x.pc)
          | .ok _ => none
        else none

/-- TRAP_ENTRY; one found at dispatch leaves what the bundle's fetches do. -/
def dueTrapEntry (q cause : Nat) (tval : Word) (s : State) : Option State :=
  match trapDue q s with
  | some (c, v, a) =>
    if c = cause ∧ v = tval then
      some (trapEntry q c v a { (if mayDispatch q s then fetched q s else s) with cur := q })
    else none
  | none => none

/-- TRAP_ENTRY. -/
def execTrapEntry (q cause : Nat) (tval : Word) (s : State) :
    Host.Outcome State Fault Refusal :=
  happens (dueTrapEntry q cause tval s) s

/-! ## Pre-emption and interrupts (R233, R234, R370) -/

/-- The TASK field of a sequencer's task. -/
def tagOf (q : Nat) (s : State) : Nat :=
  match find (seqAt q s).task s.tasks with
  | some t => taskTag t s
  | none => noTask

/-- PREEMPTION_REQUEST: one that arrives while one is pending merges with it. The landing bundle is chosen
now, in K mode at the return (Table 12.6). -/
def duePreemptionRequest (q : Nat) (s : State) : Option State :=
  let x := seqAt q s
  if x.run ≠ .running then none
  else if x.preq then some s
  else some (trace x.sagid.toNat 2 7 (tagOf q s) (x.seqid.toNat / 2) noCore 0 (taskTick x.task s)
    (modSeq q Seq.request s))

/-- PREEMPTION_REQUEST. -/
def execPreemptionRequest (q : Nat) (s : State) :
    Host.Outcome State Fault Refusal :=
  happens (duePreemptionRequest q s) s

/-- INTERRUPT: a source becomes pending. -/
def dueInterrupt (q src : Nat) (s : State) : Option State :=
  if 2 < src then none else some (raiseIrq q src s)

/-- INTERRUPT. -/
def execInterrupt (q src : Nat) (s : State) :
    Host.Outcome State Fault Refusal :=
  happens (dueInterrupt q src s) s

/-- Whether a sequencer stands where a pending item may be taken as a trap: in U mode, its landing bundle committed, no
matrix call of its own in the unit (R230). -/
def atBoundary (q : Nat) (s : State) : Bool :=
  let x := seqAt q s
  x.run == .running && x.mode == .u && x.bun.words.isEmpty && !x.mrow.busy && (x.hold == .none || x.hold.isBar) &&
    x.land == .now

/-- Take the item that a landing serves: the request, else the lowest source. -/
def land (q : Nat) (s : State) : State :=
  let x := seqAt q s
  if x.preq then
    let s1 := modSeq q (fun x => { x with preq := false, freeze := 0 }) s
    let s2 := match find x.task s1.tasks with
      | none => s1
      | some t => match find t.launch s1.launches with
        | none => s1
        | some l => qcbCount l 96 1 s1
    trapEntry q 0x20 0 x.pc s2
  else
    let src := if x.pirq.getLsbD 0 then 0 else if x.pirq.getLsbD 1 then 1 else 2
    trapEntry q 0x21 (BitVec.ofNat 64 src) x.pc
      (modSeq q (fun x => { x with pirq := x.pirq &&& ~~~BitVec.ofNat 3 (2 ^ src) }) s)

/-- PREEMPTION_LANDING: not while the task is to be moved to another cluster (R339). -/
def duePreemptionLanding (q : Nat) (s : State) : Option State :=
  let x := seqAt q s
  if atBoundary q s && !x.halt && (x.preq || x.pirq != 0) then some (land q s) else none

/-- PREEMPTION_LANDING. -/
def execPreemptionLanding (q : Nat) (s : State) :
    Host.Outcome State Fault Refusal :=
  happens (duePreemptionLanding q s) s

/-- PREEMPTION_FREEZE: 65,536 U-mode cycles after the request was taken, the newest bundle dispatched is L: the last
one committed, or one that waits where no landing is (log entry 79). -/
def duePreemptionFreeze (q : Nat) (s : State) : Option State :=
  let x := seqAt q s
  match x.land with
  | .loop _ =>
    if x.mode = .u ∧ 65536 ≤ x.freeze then
      some (modSeq q (fun x => { x with land := if x.wait = .busy then .next else .now }) s)
    else none
  | _ => none

/-- PREEMPTION_FREEZE. -/
def execPreemptionFreeze (q : Nat) (s : State) :
    Host.Outcome State Fault Refusal :=
  happens (duePreemptionFreeze q s) s

/-! ## Invalidations (R160, R279) -/

/-- Whether every copy started before an invalidation is complete. -/
def Inval.settled (i : Inval) (s : State) : Bool :=
  i.marks.all fun m => idReached (look Chan.init m.2.1 (coreAt m.1 s).chans).done m.2.2

/-- Every access that a saggar's sequencers have dispatched is performed (R279). -/
def drainSaggar (sag : Nat) (s : State) : State :=
  ((s.seqs.filter fun p => p.2.sagid.toNat == sag).map (·.1)).foldl (fun s q => drain q s) s

/-- TLB_INVALIDATION_ACK: the oldest invalidation whose accesses have been performed. -/
def dueTlbInvalidationAck (sag : Nat) (s : State) : Option State :=
  let l := (sagAt sag s).invals
  match l.findIdx? fun i => i.settled s with
  | none => none
  | some n =>
    let s1 := modSag sag (fun g => { g with invals := g.invals.eraseIdx n }) (drainSaggar sag s)
    match (nth ⟨none, []⟩ n l).q with
    | none => some s1
    | some q => some (modSeq q (fun x => { x with tlb := false }) s1)

/-- TLB_INVALIDATION_ACK. -/
def execTlbInvalidationAck (sag : Nat) (s : State) :
    Host.Outcome State Fault Refusal :=
  happens (dueTlbInvalidationAck sag s) s

/-- STAGE2_INVALIDATION: its markers enter the channels of the saggar. -/
def execStage2Invalidation (sag : Nat) (s : State) : Host.Outcome State Fault Refusal :=
  .next (modSag sag (fun g => { g with invals := g.invals ++ [⟨none, markers sag s⟩] }) s)

/-! ## Control-register writes with an effect of their own (R152, R267, R272) -/

/-- Whether the bundle in execution on sequencer `q` writes `v` to a control register. -/
def writesCsr (q idx : Nat) (v : Word) (s : State) : Bool :=
  let x := seqAt q s
  match x.bun.ctl with
  | .csr i op r => i == idx && csrNew op (csrVal idx x (coreAt (q / 2) s)) r == v
  | _ => false

/-- BANKROLE_WRITE: once no copy of the cluster is running. -/
def dueBankroleWrite (core : Nat) (v : Word) (s : State) : Option State :=
  if (writesCsr (2 * core) 0x040 v s || writesCsr (2 * core + 1) 0x040 v s) && rolesOk v && !copiesRun core s
  then some (setBankrole core v s)
  else none

/-- BANKROLE_WRITE. -/
def execBankroleWrite (core : Nat) (v : Word) (s : State) :
    Host.Outcome State Fault Refusal :=
  happens (dueBankroleWrite core v s) s

/-- VWB_WRITE: the window moves, or the fault of R272. -/
def dueVwbWrite (q : Nat) (v : Word) (s : State) : Option State :=
  if !writesCsr q 0x012 v s then none
  else if vwbOk q v s then some (modSeq q (fun x => { x with vwb := v.setWidth 12 }) s)
  else some (takeTrap 0x0C v { s with cur := q })

/-- VWB_WRITE. -/
def execVwbWrite (q : Nat) (v : Word) (s : State) :
    Host.Outcome State Fault Refusal :=
  happens (dueVwbWrite q v s) s

/-- TCAUSE_LATCH_DISCARD: a write that leaves LATCH clear. -/
def dueTcauseLatchDiscard (q : Nat) (s : State) : Option State :=
  let x := seqAt q s
  match x.bun.ctl with
  | .csr 0x021 op r =>
    if (csrNew op (tcauseWord x) r).getLsbD 62 then none
    else some (modSeq q (fun x => { x with latches := [] }) s)
  | _ => none

/-- TCAUSE_LATCH_DISCARD. -/
def execTcauseLatchDiscard (q : Nat) (s : State) :
    Host.Outcome State Fault Refusal :=
  happens (dueTcauseLatchDiscard q s) s

/-! ## The L1, and results that arrive -/

/-- L1_WRITE_BACK_OR_DROP: dirty bytes go home, and the line stays where it is whole; or a clean line goes (R180,
R184). -/
def dueL1WriteBackOrDrop (core line : Nat) (back : Bool) (s : State) : Option State :=
  match find line (coreAt core s).l1 with
  | none => none
  | some l =>
    if back then
      let left := fun (m : Map Line) =>
        if l.have_ = BitVec.allOnes 128 then adj line (fun l => { l with dirty := 0 }) m else del line m
      some (modCore core (fun c => { c with l1 := left c.l1 }) (homeward core [(line, l)] s))
    else if l.dirty = 0 then some (modCore core (fun c => { c with l1 := del line c.l1 }) s)
    else none

/-- L1_WRITE_BACK_OR_DROP. -/
def execL1WriteBackOrDrop (core line : Nat) (back : Bool) (s : State) :
    Host.Outcome State Fault Refusal :=
  happens (dueL1WriteBackOrDrop core line back s) s

/-- Whether a write to one destination changes what a write to another leaves: the same register or entry, or a part of
it (R92). -/
def Dest.meets : Dest → Dest → Bool
  | .v e, .vlane f _ => e == f
  | .vlane e _, .v f => e == f
  | .p n, .pquarter k _ => n == k
  | .pquarter n _, .p k => n == k
  | a, b => a == b

/-- The first interlocked result on its way before which no write that meets its destination is due. -/
def arrival : List Pend → List Pend → Option (Pend × List Pend)
  | _, [] => none
  | seen, p :: l =>
    if p.lock && !seen.any (fun x => x.dest.meets p.dest && decide (x.left ≤ 1)) then some (p, seen ++ l)
    else arrival (seen ++ [p]) l

/-- ACCESS_PERFORMED: an interlocked result arrives before the next bundle needs it (R226). -/
def dueAccessPerformed (q : Nat) (s : State) : Option State :=
  match arrival [] (seqAt q s).inflight with
  | none => none
  | some (p, rest) => some (landOne q p (modSeq q (fun x => { x with inflight := rest }) s))

/-- ACCESS_PERFORMED. -/
def execAccessPerformed (q : Nat) (s : State) :
    Host.Outcome State Fault Refusal :=
  happens (dueAccessPerformed q s) s

end Sys2Proof.Machine
end

