-- ==== Sys2Proof/Machine/Saggars.lean ====
section
/-! DEFINITION. Saggars: start and stop, the resize records, migration, bandwidth registers (R332 to R342,
R357). -/

namespace Sys2Proof.Machine

/-! ## Resources (Tables 19.1 and 19.3) -/

def clusterState (p : Nat) (s : State) : RState := look .neutral p s.clState
def quadState (q : Nat) (s : State) : RState := look .neutral q s.quadSt
def groupState (g : Nat) (s : State) : RState := look .neutral g s.groupSt

def setCluster (st : RState) (p : Nat) (s : State) : State := { s with clState := put .neutral p st s.clState }
def setQuad (st : RState) (q : Nat) (s : State) : State := { s with quadSt := put .neutral q st s.quadSt }
def setGroup (st : RState) (g : Nat) (s : State) : State := { s with groupSt := put .neutral g st s.groupSt }

/-- Set many. -/
def setAll (f : Nat → State → State) (l : List Nat) (s : State) : State := l.foldl (fun s x => f x s) s

/-- A cluster scrubbed: its cores and sequencers as at saggar start (R336). -/
def scrubCluster (p : Nat) (s : State) : State :=
  { s with seqs := s.seqs.filter fun x => x.1 / 16 ≠ p, cores := s.cores.filter fun x => x.1 / 8 ≠ p }

/-- The keys of a map of resources in a state. -/
def inState (st : RState) (m : Map RState) : List Nat := (m.filter fun p => p.2 == st).map (·.1)

/-- The slice groups that a saggar owns. -/
def groupsOf (sag : Nat) (s : State) : List Nat := inState (.owned sag) s.groupSt

/-- Quads scrubbed: zero bits in every page. -/
def scrubQuads (qs : List Nat) (s : State) : State :=
  { s with mem := s.mem.filter fun c => !qs.contains (Config.quadOf c.1) }

/-- Neutral slice groups of a die, 48 to a die, lowest first. -/
def neutralGroups (die : Nat) (s : State) : List Nat :=
  ((List.range 48).map (48 * die + ·)).filter fun g => groupState g s == .neutral

/-- `per` groups on the die of each cluster, or none where a die has too few. -/
def pickGroups (per : Nat) (s : State) : List Nat → List Nat → Option (List Nat)
  | [], got => some got
  | p :: l, got =>
    let fr := ((neutralGroups (p / 16) s).filter fun g => !got.contains g).take per
    if fr.length = per then pickGroups per s l (got ++ fr) else none

/-- The groups of a start request: the default is three for each cluster; without a cluster, the lowest one. -/
def startGroups (r : StartReq) (s : State) : Option (List Nat) :=
  if r.clusters.isEmpty then
    some (((List.range 1536).filter fun g => groupState g s == .neutral).take 1)
  else pickGroups (if r.groups = 0 then 3 else r.groups) s r.clusters []

/-- `per` of a saggar's groups for each leaving cluster, the highest on its die first. -/
def releaseGroups (per : Nat) (mine : List Nat) : List Nat → List Nat → List Nat
  | [], got => got
  | p :: l, got =>
    let rest := (mine.filter fun g => !got.contains g).reverse
    let here := rest.filter fun g => g / 48 == p / 16
    releaseGroups per mine l (got ++ (here ++ rest.filter fun g => g / 48 != p / 16).take per)

/-- The stage-2 leaves under a table of level 3 − k: the place of each, its entry, log2 of its size. -/
def leavesAt (m : List Host.Cell) : Nat → Nat → List (Nat × Nat × Nat)
  | 0, _ => []
  | k + 1, base =>
    ((List.range 512).map fun i =>
      let a := base + 8 * i
      let e := word8 m a
      if entryBad true e then []
      else if isPointer e then (if pointerBad e then [] else leavesAt m k (frame e))
      else match leafSize m (3 - k) a e with
        | none => []
        | some sz => [(a, e, sz)]).flatten

/-- The tables of stage 2 under one of them. -/
def tablesAt (m : List Host.Cell) : Nat → Nat → List Nat
  | 0, _ => []
  | k + 1, base => base :: ((List.range 512).map fun i =>
      let e := word8 m (base + 8 * i)
      if entryBad true e || !isPointer e || pointerBad e then [] else tablesAt m k (frame e)).flatten

/-- The bytes of stage-2 address space that a root maps; the entries of a 64 KiB page map 4 KiB each. -/
def mappedBytes (root : Nat) (s : State) : Nat :=
  ((leavesAt s.mem 4 root).map fun l => if l.2.2 = 16 then 4096 else 2 ^ l.2.2).sum

/-- Whether a saggar may hold `n` quads: one for each 4 GiB that it maps, the last in part, and one at least (R332, log
entry 49). -/
def quadsOk (root n : Nat) (s : State) : Bool := decide (n ≤ max 1 ((mappedBytes root s + 2 ^ 32 - 1) / 2 ^ 32))

/-- Neutral channel quads, 1,024 in the module, lowest first. -/
def neutralQuads (n : Nat) (s : State) : List Nat :=
  ((List.range 1024).filter fun q => quadState q s == .neutral).take n

/-! ## SAGGAR_START, and what a stop takes (R332, R333, R357) -/

/-- Whether an image verifies: under the vendor's keys, or the owner's once they are enrolled (R354). -/
def osOk (i : Image) (s : State) : Bool :=
  imageOk Config.vendorKey i || (s.rot.owner && imageOk Config.ownerKey i)

/-- Whether every item of a list differs from those before it. -/
def distinct : List Nat → Bool
  | [] => true
  | x :: l => !l.contains x && distinct l

/-- Whether the resources of a start request are neutral, and the bounds of R332 are met. -/
def startOk (r : StartReq) (s : State) : Bool :=
  decide (r.num < 16) && (find r.num s.sags).isNone && distinct r.clusters && distinct r.quads &&
    r.clusters.all (fun p => decide (p < 512) && clusterState p s == .neutral) &&
    r.quads.all (fun q => decide (q < 1024) && quadState q s == .neutral) &&
    r.ports.all (fun p => decide (p < 16) && (portAt p s).owner.isNone) &&
    r.stewards.all (fun k => decide (k < 128) && !s.sags.any fun g => g.2.stewards.contains k) &&
    !(s.sags.any fun g => g.2.ns == r.ns && g.2.nsPort == r.nsPort) &&
    !r.quads.isEmpty && !r.ports.isEmpty && !r.stewards.isEmpty &&
    (match startGroups r s with
      | some gs => !gs.isEmpty
      | none => false)

/-- The OS of a saggar is measured: register 6 + number up to 14, with the number before it from 9 on. -/
def measureOs (n : Nat) (i : Image) (s : State) : State :=
  extend (min (6 + n) 14) ((if 9 ≤ n then leBytes 1 n else []) ++ digestOf i) s

/-- A fresh memory key. -/
def drawKey (s : State) : Nat × State :=
  (s.rot.keys, { s with rot := { s.rot with keys := s.rot.keys + 1 } })

/-- The saggar of a start request, with its key, at a physical cycle. -/
def newSaggar (r : StartReq) (key cyc : Nat) : Saggar :=
  { Saggar.none_ with
    clusters := r.clusters, quads := r.quads, s2root := r.s2root, cyc0 := cyc
    s1roots := r.vdevs.foldl (fun m v => put 0 v.1 v.2.1 m) []
    tbases := r.vdevs.foldl (fun m v => put 0 v.1 v.2.2 m) []
    stopPol := r.stopPol, kcb := r.kcb, slotTab := r.slotTab, key := key, keyed := true
    ns := r.ns, nsPort := r.nsPort, stewards := r.stewards, loads := r.loads }

/-- The steps of R333: the resources and the key, the measured OS, the root and the kiln control block; its bandwidth
registers count from now (R342). -/
def startSaggar (r : StartReq) (s : State) : State :=
  let s1 := setAll (setGroup (.owned r.num)) ((startGroups r s).getD []) (setAll (setQuad (.owned r.num)) r.quads
    (setAll (setCluster (.owned r.num)) r.clusters (r.clusters.foldl (fun s p => scrubCluster p s) s)))
  let s2 := setAll (fun p => modPort p fun x => { x with owner := some r.num }) r.ports s1
  let (key, s3) := drawKey s2
  let s4 := measureOs r.num r.os s3
  { s4 with sags := upd r.num (newSaggar r key s4.phys) s4.sags
            bw := s4.bw.filter fun b => b.1 % 16 ≠ r.num }

/-- SAGGAR_START: on the manager's request, for a number from 1 to 15 not in use, with no more quads than its stage-2
root maps. -/
def dueSaggarStart (r : StartReq) (s : State) : Option State :=
  if s.rot.boot ≠ .up ∨ r.num = 0 ∨ s.pcBusy ≠ none ∨ startOk r s = false ∨ osOk r.os s = false ∨
      quadsOk r.s2root r.quads.length s = false then none
  else some (startSaggar r s)

/-- SAGGAR_START. -/
def execSaggarStart (r : StartReq) (s : State) :
    Host.Outcome State Fault Refusal :=
  happens (dueSaggarStart r s) s

/-- Everything of a saggar's work is forgotten. -/
def dropWork (sag : Nat) (s : State) : State :=
  { s with tasks := s.tasks.filter (fun p => p.2.sag ≠ sag)
           launches := s.launches.filter (fun p => p.2.sag ≠ sag)
           pipes := s.pipes.filter (fun p => p.2.sag ≠ sag)
           probes := s.probes.filter (fun x => match find x.pipe s.pipes with
             | some p => p.sag ≠ sag
             | none => false)
           flows := s.flows.filter (fun f => f.2.rsag ≠ sag) }

/-- The resources of a kind that are a saggar's. -/
def ofSaggar (sag : Nat) (m : Map RState) : List Nat :=
  inState (.owned sag) m ++ inState (.leaving sag) m ++ inState (.joining sag) m

/-- The resources of a saggar are scrubbed and neutral. -/
def freeResources (sag : Nat) (s : State) : State :=
  let mine := ofSaggar sag
  let s1 := (mine s.clState).foldl (fun s p => setCluster .neutral p (scrubCluster p s)) s
  let s2 := setAll (setQuad .neutral) (mine s.quadSt) (scrubQuads (mine s.quadSt) s1)
  let s3 := setAll (setGroup .neutral) (mine s.groupSt) s2
  let ps := (s.ports.filter fun p => p.2.owner == some sag).map (·.1)
  setAll (fun p => modPort p fun x => { Port.init with lanes := x.lanes, sent := x.sent }) ps s3

/-! ## Resize records (Table 19.2) -/

def zOp (b : List Byte) : Nat := wordAt b 0 % 256
def zSag (b : List Byte) : Nat := bits (wordAt b 0) 11 8
def zNcl (b : List Byte) : Nat := bits (wordAt b 0) 31 16
def zList (b : List Byte) : Nat := wordAt b 1 % 2 ^ 48
def zGroups (b : List Byte) : Nat := if wordAt b 2 % 65536 = 0 then 3 else wordAt b 2 % 65536
def zQuads (b : List Byte) : Nat := bits (wordAt b 2) 31 16

/-- A record's bytes in saggar 0's memory. -/
def resizeRcd (rcd : Nat) (s : State) : List Byte := (agentRead 0 0 rcd 64 s).getD []

/-- Whether a record is valid, and its saggar exists. -/
def resizeOk (rcd : Nat) (b : List Byte) (s : State) : Bool :=
  decide (rcd % 64 = 0) && decide (b.length = 64) && (zOp b == 1 || zOp b == 2) &&
    decide (bits (wordAt b 0) 15 12 = 0) && decide (wordAt b 0 / 2 ^ 32 = 0) &&
    decide (wordAt b 1 / 2 ^ 48 = 0) && (zOp b == 1 || decide (zList b = 0)) &&
    decide (wordAt b 2 / 2 ^ 32 = 0) && decide (wordAt b 3 = 0) && decide (leNat (b.drop 32) = 0) &&
    decide (zSag b ≠ 0) && (find (zSag b) s.sags).isSome

/-- The controller completes a record: DONE with RESULT and the last phase, by its row in Table 19.3. -/
def finishRecord (rcd result row : Nat) (s : State) : State :=
  let w := 2 ^ 63 + (Config.phaseCode row).toNat * 256 + result
  { agentPut 0 0 (rcd + 24) w s with pcBusy := none }

/-- A record that arrives while another is in progress (R334). -/
def refuseBusy (rcd row : Nat) (s : State) : State :=
  agentPut 0 0 (rcd + 24) (2 ^ 63 + (Config.phaseCode row).toNat * 256 + 3) s

/-- The physical clusters that a grow record lists. -/
def listed (b : List Byte) (s : State) : Option (List Nat) :=
  match agentRead 0 0 (zList b) (2 * zNcl b) s with
  | none => none
  | some l => some ((List.range (zNcl b)).map fun i => leNat ((l.drop (2 * i)).take 2))

/-- The tick of a resize's trace record: the oldest live deterministic pipeline's (R327). -/
def oldestTick (sag : Nat) (s : State) : Option Nat :=
  ((s.pipes.filter fun p => p.2.sag == sag && p.2.det).head?).map fun p => p.2.tick

/-- A new hash generation over a changed slice set (R337). -/
def newGeneration (sag : Nat) (s : State) : State :=
  modSag sag (fun g => { g with gen := g.gen + 1, sweep := true }) s

/-- The first step of a grow: the record's checks, then its neutral resources are joining (Table 19.3); a record that
adds nothing is done. -/
def growStart (rcd : Nat) (b : List Byte) (s : State) : State :=
  if !resizeOk rcd b s then finishRecord rcd 1 3 s
  else match listed b s with
    | none => finishRecord rcd 1 3 s
    | some cl =>
      let sag := zSag b
      let qs := neutralQuads (zQuads b) s
      let free := cl.all fun p => decide (p < 512) && clusterState p s == .neutral
      match pickGroups (zGroups b) s cl [] with
      | none => finishRecord rcd 2 3 s
      | some gs =>
        if !free || !distinct cl || qs.length < zQuads b then finishRecord rcd 2 3 s
        else if zQuads b ≠ 0 ∧ quadsOk (sagAt sag s).s2root ((sagAt sag s).quads.length + zQuads b) s = false then
          finishRecord rcd 4 3 s
        else
          let s1 := cl.foldl (fun s p => setCluster (.joining sag) p (scrubCluster p s)) (scrubQuads qs s)
          let s2 := setAll (setGroup (.joining sag)) gs (setAll (setQuad (.joining sag)) qs s1)
          if cl.isEmpty ∧ qs.isEmpty then finishRecord rcd 0 4 s else { s2 with pcBusy := some (rcd, true) }

/-- The record is complete once nothing is joining. -/
def growDone (rcd sag : Nat) (s : State) : State :=
  if (inState (.joining sag) s.clState).isEmpty then finishRecord rcd 0 4 s else s

/-- RESIZE_GROW: neutral resources are joining; then the hash generation is installed, and quads and slice groups are
owned (R334 to R337); with no cluster among them the record is complete. -/
def dueResizeGrow (rcd : Nat) (s : State) : Option State :=
  let b := resizeRcd rcd s
  let sag := zSag b
  let gs := inState (.joining sag) s.groupSt
  let qs := inState (.joining sag) s.quadSt
  if zOp b = 2 then none
  else if s.pcBusy = some (rcd, false) then
    some (growStart rcd b (agentSeen 0 0 (zList b) (2 * zNcl b) (agentSeen 0 0 rcd 64 s)))
  else if s.pcBusy ≠ some (rcd, true) ∨ (gs.isEmpty ∧ qs.isEmpty) then none
  else
    let s1 := setAll (setGroup (.owned sag)) gs (setAll (setQuad (.owned sag)) qs s)
    some (growDone rcd sag (newGeneration sag (modSag sag (fun g => { g with quads := g.quads ++ qs }) s1)))

/-- RESIZE_GROW. -/
def execResizeGrow (rcd : Nat) (s : State) :
    Host.Outcome State Fault Refusal :=
  happens (dueResizeGrow rcd s) s

/-- The lowest logical number of a saggar that no cluster has or answers to; 512 stands in the list for no cluster. -/
def nextNumber (g : Saggar) : Nat :=
  ((List.range (g.clusters.length + g.answers.length + 1)).find? fun n =>
    nth 512 n g.clusters == 512 && (find n g.answers).isNone).getD 0

/-- CLUSTER_JOIN: the next free logical number, once the new generation is installed (R338); the last one completes
the record. -/
def dueClusterJoin (sag p : Nat) (s : State) : Option State :=
  let g := sagAt sag s
  let n := nextNumber g
  if clusterState p s ≠ .joining sag ∨ !(inState (.joining sag) s.groupSt).isEmpty then none
  else
    let s1 := setCluster (.owned sag) p (modSag sag (fun g => { g with clusters := setPad 512 n p g.clusters }) s)
    let s2 := settlePipes (trace sag 5 4 noTask noCore (8 * n) 0 (oldestTick sag s) s1)
    match s2.pcBusy with
    | some (rcd, _) => some (growDone rcd sag s2)
    | none => some s2

/-- CLUSTER_JOIN. -/
def execClusterJoin (sag p : Nat) (s : State) :
    Host.Outcome State Fault Refusal :=
  happens (dueClusterJoin sag p s) s

/-! ## Page copies (R340, R341) -/

/-- The base of a leaf's page. -/
def pageBase (e sz : Nat) : Nat := frame e / 2 ^ sz * 2 ^ sz

/-- The stage-2 mappings of the machine: the leaves of every saggar, a shared page's among them (R357); the leaves that
queued and running copies work under (R160); the tables. -/
structure Mapping where
  leaves : List (Nat × Nat × Nat)
  olds   : List (Nat × Nat × Nat)
  tables : List Nat
  deriving DecidableEq, Repr

/-- The copies that channels hold. -/
def heldCopies (s : State) : List Copy :=
  (s.cores.map fun c => (c.2.chans.map fun h => h.2.queue ++ (h.2.run.map (·.copy)).toList).flatten).flatten

def mappingOf (s : State) : Mapping where
  leaves := (s.sags.map fun g => leavesAt s.mem 4 g.2.s2root).flatten
  olds := ((heldCopies s).map fun c => leavesAt c.tmem 4 (sagAt c.sag s).s2root).flatten
  tables := (s.sags.map fun g => tablesAt s.mem 4 g.2.s2root).flatten

/-- Whether a page of 2^sz bytes at `a` overlaps a mapped page or a table. -/
def Mapping.taken (m : Mapping) (a sz : Nat) : Bool :=
  (m.leaves ++ m.olds).any (fun l => overlaps a (2 ^ sz) (pageBase l.2.1 l.2.2) (2 ^ l.2.2)) ||
    m.tables.any fun t => overlaps a (2 ^ sz) t 4096

/-- Whether any leaf maps a page in some quads. -/
def Mapping.uses (m : Mapping) (qs : List Nat) : Bool :=
  (m.leaves ++ m.olds).any fun l => qs.contains (Config.quadOf (pageBase l.2.1 l.2.2))

/-- The lowest free page of a size in quads. -/
def Mapping.free (m : Mapping) (qs : List Nat) (sz : Nat) : Option Nat :=
  qs.findSome? fun q => ((List.range (2 ^ (32 - sz))).map fun i => q * 2 ^ 32 + i * 2 ^ sz).find? fun a => !m.taken a sz

/-- The leaf word with another page. -/
def leafFrame (e a : Nat) : Nat := e - bits e 51 12 * 4096 + a

/-- A page on its way: from, to, log2 of its size, and the leaves that map it or a part of it: where each stands, log2 of
its size. -/
structure PageMove where
  src    : Nat
  dst    : Nat
  sz     : Nat
  leaves : List (Nat × Nat)
  deriving DecidableEq, Repr

/-- Where a byte of memory is after a move. -/
def PageMove.at_ (p : PageMove) (a : Nat) : Nat := if p.src ≤ a ∧ a < p.src + 2 ^ p.sz then a - p.src + p.dst else a

/-- A leaf as it is in some memory, with its new page, where it maps the page or a part of it there. -/
def PageMove.leafIn (p : PageMove) (m : List Host.Cell) (l : Nat × Nat) : Option Nat :=
  let e := word8 m l.1
  let b := pageBase e l.2
  if entryBad true e || isPointer e || decide (b < p.src) || decide (p.src + 2 ^ p.sz < b + 2 ^ l.2) then none
  else some (leafFrame e (p.at_ b))

/-- The bytes of a page copied, and its leaves changed. -/
def PageMove.cells (p : PageMove) (m : List Host.Cell) : List Host.Cell :=
  let inside := fun (b : Nat) (c : Host.Cell) => decide (b ≤ c.1) && decide (c.1 < b + 2 ^ p.sz)
  let m1 := (m.filter (inside p.src)).foldl (fun m c => put 0 (p.at_ c.1) c.2 m) (m.filter fun c => !inside p.dst c)
  p.leaves.foldl (fun m l => match p.leafIn m l with
    | some e => writeCells l.1 (leBytes 8 e) m
    | none => m) m1

/-- The tables that a copy works under: changed where they map the page, else as they were (R160). -/
def PageMove.tables (p : PageMove) (m : List Host.Cell) : List Host.Cell :=
  if p.leaves.any fun l => (p.leafIn m l).isSome then p.cells m else m

/-- The next page that moves: the first of the largest in leaving quads that finds a free page in the others; one that
finds none waits. -/
def nextMove (gone left : List Nat) (m : Mapping) : Option PageMove :=
  [30, 21, 16, 12].findSome? fun sz =>
    (m.leaves.filter fun l => l.2.2 == sz && gone.contains (Config.quadOf (pageBase l.2.1 sz))).findSome? fun l =>
      let src := pageBase l.2.1 sz
      let inside := fun (k : Nat × Nat × Nat) => decide (src ≤ pageBase k.2.1 k.2.2) &&
        decide (pageBase k.2.1 k.2.2 + 2 ^ k.2.2 ≤ src + 2 ^ sz)
      let across := fun (k : Nat × Nat × Nat) => overlaps src (2 ^ sz) (pageBase k.2.1 k.2.2) (2 ^ k.2.2) && !inside k
      if m.leaves.any across then none
      else (m.free left sz).map fun d => ⟨src, d, sz, (m.leaves.filter inside).map fun k => (k.1, k.2.2)⟩

/-- What a core holds of a page or of its new frame: nothing after a move, the page's dirty bytes having gone home. -/
def PageMove.core (p : PageMove) (c : Core) : Core :=
  let out := fun (a : Nat) => [p.src, p.dst].all fun b => decide (a < b) || decide (b + 2 ^ p.sz ≤ a)
  let copy := fun (x : Copy) => { x with tmem := p.tables x.tmem }
  { c with
    l1 := c.l1.filter fun l => out (128 * l.1)
    icache := c.icache.filter fun w => out (4 * w.1)
    chans := c.chans.map fun h => (h.1, h.2.mapCopies copy) }

/-- The effects that a bundle holds in a page. -/
def PageMove.bun (p : PageMove) (b : Bun) : Bun :=
  { b with
    stores := b.stores.map fun s => match s.place with
      | .phys a k => { s with place := .phys (p.at_ a) k }
      | _ => s
    publish := b.publish.map fun l => (p.at_ l.1, l.2) }

/-- What a sequencer has under way in a page goes on in the new frame: a parked FWAIT, the held effects of its
bundles. -/
def PageMove.seq (p : PageMove) (x : Seq) : Seq :=
  { x with
    wait := match x.wait with
      | .future a w => .future (p.at_ a) w
      | w => w
    bun := p.bun x.bun
    flight := x.flight.map p.bun }

/-- What every core holds of some lines goes home. -/
def allHome (f : Nat → Nat × Line → Bool) (s : State) : State :=
  s.cores.foldl (fun s c => homeward c.1 (c.2.l1.filter (f c.1)) s) s

/-- A page as it is read to be copied: what cores hold of it has gone home, and the errors of its lines are met; those of
the frame that is written are gone (R178). -/
def PageMove.collect (p : PageMove) (s : State) : State :=
  let in_ := fun (b ln : Nat) => decide (b ≤ 128 * ln) && decide (128 * ln < b + 2 ^ p.sz)
  let s1 := allHome (fun _ l => p.at_ (128 * l.1) != 128 * l.1) s
  let l := (s1.upsets.map (·.line)).eraseDups
  dropUpsets (l.filter (in_ p.dst)) (healLines none (l.filter (in_ p.src)) s1)

/-- A page is copied and its leaves are changed as one event, with an invalidation to be acknowledged in every saggar
that one of them belongs to (R340). -/
def movePage (p : PageMove) (s : State) : State :=
  let s := p.collect s
  let s1 : State := { s with
    mem := p.cells s.mem
    cores := s.cores.map fun c => (c.1, p.core c.2)
    seqs := s.seqs.map fun x => (x.1, p.seq x.2) }
  let maps := fun (g : Saggar) => (leavesAt s.mem 4 g.s2root).any fun l => p.leaves.contains (l.1, l.2.2)
  { s1 with sags := s.sags.map fun g =>
      (g.1, if maps g.2 then { g.2 with invals := g.2.invals ++ [⟨none, markers g.1 s1⟩] } else g.2) }

/-! ## RESIZE_SHRINK and CLUSTER_MIGRATION (R334, R339) -/

/-- Whether a cluster holds a task, or a pipeline's core. -/
def clusterBusy (sag p : Nat) (s : State) : Bool :=
  let c := logCluster sag p s
  (List.range 16).any (fun i => (seqAt (p * 16 + i) s).run != .off) ||
    (physCluster sag c s == p && (List.range 8).any (fun i => inPipe sag (c * 8 + i) s))

/-- Whether a cluster's copies are complete and its matrix units idle. -/
def clusterQuiet (p : Nat) (s : State) : Bool :=
  (List.range 8).all fun i =>
    let c := coreAt (p * 8 + i) s
    c.mrun.isNone && c.mq.isEmpty && c.chans.all fun h => h.2.run.isNone && h.2.queue.isEmpty

/-- The first step of a shrink: the last clusters, and quads and groups, are leaving; a new hash generation spans the
remaining slices. -/
def shrinkStart (rcd : Nat) (b : List Byte) (s : State) : State :=
  let sag := zSag b
  let g := sagAt sag s
  let held := g.clusters.filter (· < 512)
  let gone := held.drop (held.length - zNcl b)
  let keep := g.quads.length - zQuads b
  let gs := releaseGroups (zGroups b) (groupsOf sag s) gone []
  let s1 := setAll (setQuad (.leaving sag)) (g.quads.drop keep)
    (setAll (setGroup (.leaving sag)) gs (setAll (setCluster (.leaving sag)) gone s))
  let s2 := modSag sag (fun g =>
    { g with leaving := gone, quads := g.quads.take keep, quadsOut := g.quads.drop keep }) s1
  { newGeneration sag s2 with pcBusy := some (rcd, true) }

/-- Whether everything that leaves a saggar has been moved: no leaving cluster is in use, no page of any saggar and of
any copy lies in a leaving quad, every change of a leaf is acknowledged, the sweep is over. -/
def shrinkReady (sag : Nat) (s : State) : Bool :=
  let g := sagAt sag s
  !g.sweep && s.sags.all (fun x => x.2.invals.all fun i => i.q.isSome) &&
    g.leaving.all (fun p => !clusterBusy sag p s && clusterQuiet p s) && !(mappingOf s).uses g.quadsOut

/-- Write-back: what every core still holds of some quads, and what the cores of some clusters hold, goes home (R335). -/
def writeBack (qs cls : List Nat) (s : State) : State :=
  let s1 := (s.seqs.map (·.1)).foldl (fun s q => drain q s) s
  let goes := fun (k : Nat) (l : Nat × Line) => cls.contains (k / 8) || qs.contains (Config.quadOf (128 * l.1))
  let s2 := allHome goes s1
  { s2 with cores := s2.cores.map fun c => (c.1, { c.2 with
              l1 := c.2.l1.filter fun l => !goes c.1 l
              icache := c.2.icache.filter fun w => !qs.contains (Config.quadOf (4 * w.1)) }) }

/-- What leaves is written back and then scrubbing: no saggar sees it. -/
def shrinkScrub (sag : Nat) (s : State) : State :=
  setAll (setQuad .scrubbing) (inState (.leaving sag) s.quadSt)
    (setAll (setCluster .scrubbing) (inState (.leaving sag) s.clState)
      (writeBack (sagAt sag s).quadsOut (sagAt sag s).leaving s))

/-- The last step: what is scrubbing is cleared and neutral, with a trace record for each cluster. -/
def shrinkEnd (rcd sag : Nat) (s : State) : State :=
  let g := sagAt sag s
  let s1 := g.leaving.foldl (fun s p =>
    trace sag 5 5 noTask (8 * (g.clusters.findIdx? (· == p)).getD 0) noCore 0 (oldestTick sag s)
      (setCluster .neutral p (scrubCluster p s))) s
  let s2 := setAll (setQuad .neutral) g.quadsOut (scrubQuads g.quadsOut s1)
  let s3 := setAll (setGroup .neutral) (inState .scrubbing s.groupSt) s2
  finishRecord rcd 0 3 (modSag sag (fun g =>
    { g with clusters := (g.clusters.reverse.dropWhile fun p => p == 512 || g.leaving.contains p).reverse
             leaving := [], quadsOut := [] }) s3)

/-- The checks of a shrink record, then its first step. -/
def shrinkCheck (rcd : Nat) (b : List Byte) (s : State) : State :=
  let g := sagAt (zSag b) s
  let ng := (groupsOf (zSag b) s).length
  if !resizeOk rcd b s then finishRecord rcd 1 0 s
  else if (g.clusters.filter (· < 512)).length < zNcl b ∨ g.quads.length < zQuads b ∨ ng < zGroups b * zNcl b then
    finishRecord rcd 2 0 s
  else if g.quads.length = zQuads b ∨ ng = zGroups b * zNcl b then finishRecord rcd 4 0 s
  else shrinkStart rcd b s

/-- RESIZE_SHRINK: the record's checks and its first step; then page by page; then, once everything has left, the scrub
and the end of the record (Table 19.3). -/
def dueResizeShrink (rcd : Nat) (s : State) : Option State :=
  let b := resizeRcd rcd s
  let sag := zSag b
  let g := sagAt sag s
  if zOp b ≠ 2 then none
  else if s.pcBusy = some (rcd, false) then some (shrinkCheck rcd b (agentSeen 0 0 rcd 64 s))
  else if s.pcBusy ≠ some (rcd, true) then none
  else match if g.quadsOut.isEmpty then none else nextMove g.quadsOut g.quads (mappingOf s) with
    | some p => some (movePage p s)
    | none =>
      if !shrinkReady sag s then none
      else if (inState (.leaving sag) s.clState).isEmpty ∧ (inState (.leaving sag) s.quadSt).isEmpty then
        some (shrinkEnd rcd sag s)
      else some (shrinkScrub sag s)

/-- RESIZE_SHRINK. -/
def execResizeShrink (rcd : Nat) (s : State) :
    Host.Outcome State Fault Refusal :=
  happens (dueResizeShrink rcd s) s

/-- HASH_SWEEP_COMPLETE: the old generation is retired; leaving slice groups hold no line, and are scrubbed. -/
def dueHashSweepComplete (sag : Nat) (s : State) : Option State :=
  if !(sagAt sag s).sweep then none
  else some (setAll (setGroup .scrubbing) (inState (.leaving sag) s.groupSt)
    (modSag sag (fun g => { g with sweep := false }) s))

/-- HASH_SWEEP_COMPLETE. -/
def execHashSweepComplete (sag : Nat) (s : State) :
    Host.Outcome State Fault Refusal :=
  happens (dueHashSweepComplete sag s) s

/-- The core state that moves (R339, step 3), the vector file with it, so that no task observes the move; the receiving
core fetches its code anew. -/
def moveCore (src dst : Nat) (s : State) : State :=
  let s1 := release src 2 s
  let c := coreAt src s1
  let sram := c.sram.filter fun x => roleOf c (x.1 / 65536) != 0
  let kept := fun (h : Chan) => { Chan.init with done := h.done, last := h.last, scopes := h.scopes }
  let chans := c.chans.map fun h => (h.1, kept h.2)
  modCore src (fun c => { c with l1 := [] }) (modCore dst (fun d =>
    { d with bands := c.bands, acc := c.acc, glaze := c.glaze, fronts := c.fronts, sram := sram
             vfile := c.vfile, bankrole := c.bankrole, chans := chans, errcnt := c.errcnt, icache := [] }) s1)

/-- The interrupts pending on sequencer `p`, to which the number of sequencer `q` moves, are kept for its own number; those of
an idle `q` move to it (R339, R362). -/
def moveIrqs (sag q p : Nat) (s : State) : State :=
  let idle := decide ((seqAt q s).run = .off)
  let a := (seqAt q s).pirq
  let b := (seqAt p s).pirq
  let s1 := if b = 0 then s
    else modSeq p (fun y => { y with pirq := 0 }) (modSag sag (fun g => { g with irqs := upd p b g.irqs }) s)
  if idle && a != 0 then
    modSeq q (fun x => { x with pirq := 0 }) (modSeq p (fun y => { y with pirq := a, evt := y.evt ||| 4#3 }) s1)
  else s1

/-- Move the tasks of a cluster, sequencer by sequencer; a pending request stays pending, and the trap registers, which
no image holds, go with the task: it observes no change. -/
def moveTasks (sag src dst : Nat) : List Nat → State → State
  | [], s => s
  | i :: l, s =>
    let q := src * 16 + i
    let x := seqAt q s
    let s := moveIrqs sag q (dst * 16 + i) s
    if x.run = .off then moveTasks sag src dst l s
    else
      let s1 := resumeTask x.task (dst * 16 + i) (saveTask q (unpark q s))
      moveTasks sag src dst l (modSeq (dst * 16 + i) (fun y =>
        Seq.choose { y with
          tvec := x.tvec, tpk := x.tpk, tcause := x.tcause, taddr := x.taddr, tval := x.tval, tscr := x.tscr
          preq := x.preq, freeze := x.freeze, land := .none }) s1)

/-- Whether the cluster `p` is a free one of the remaining saggar. -/
def clusterFree (sag p : Nat) (s : State) : Bool :=
  let g := sagAt sag s
  g.clusters.contains p && !g.leaving.contains p && !g.answers.any (fun a => a.2 == p) &&
    !clusterBusy sag p s && clusterQuiet p s

/-- Whether every task of a cluster stands at its landing. -/
def clusterLands (p : Nat) (s : State) : Bool :=
  (List.range 16).all fun i => (seqAt (p * 16 + i) s).run == .off || atBoundary (p * 16 + i) s

/-- Each task of a cluster is to stop where a pre-emption lands (R339, step 1). -/
def haltCluster (p : Nat) (s : State) : State :=
  (List.range 16).foldl (fun s i =>
    if (seqAt (p * 16 + i) s).run = .running then
      modSeq (p * 16 + i) (fun x =>
        Seq.choose { x with halt := true, freeze := if x.preq then x.freeze else 0 }) s
    else s) s

/-- Every bundle that a cluster's queues hold commits. -/
def drainCluster (p : Nat) (s : State) : State := (List.range 16).foldl (fun s i => drain (p * 16 + i) s) s

/-- CLUSTER_MIGRATION: first the tasks are to stop; once they stand and every copy and call is complete, core c moves
to core c, and the receiving cluster answers to the number moved (R339). -/
def dueClusterMigration (sag src dst : Nat) (s : State) : Option State :=
  let g := sagAt sag s
  let s := if g.moving.isNone then s else drainCluster src s
  match g.moving with
  | none =>
    if !g.leaving.contains src || !clusterBusy sag src s || !clusterFree sag dst s then none
    else some (haltCluster src (modSag sag (fun g => { g with moving := some (src, dst) }) s))
  | some m =>
    if m ≠ (src, dst) ∨ !clusterQuiet src s ∨ !clusterLands src s then none
    else
      let c := logCluster sag src s
      let s1 := (List.range 8).foldl (fun s i => moveCore (src * 8 + i) (dst * 8 + i) s) s
      let s2 := moveTasks sag src dst (List.range 16) s1
      some (trimAnswers sag (modSag sag (fun g => { g with answers := upd c dst g.answers, moving := none }) s2))

/-- CLUSTER_MIGRATION. -/
def execClusterMigration (sag src dst : Nat) (s : State) :
    Host.Outcome State Fault Refusal :=
  happens (dueClusterMigration sag src dst s) s

/-! ## SAGGAR_STOP (R332, R335, R336) -/

/-- Whether a page of a quad of a saggar is mapped by another, or by a copy of one (R335): a window that both share. -/
def sharesQuads (sag : Nat) (s : State) : Bool :=
  let m := { s with sags := del sag s.sags
                    cores := s.cores.map fun c => (c.1, { c.2 with chans := c.2.chans.map fun h => (h.1, { h.2 with
                      queue := h.2.queue.filter fun x => x.sag ≠ sag
                      run := h.2.run.filter fun r => r.copy.sag ≠ sag }) }) }
  (mappingOf m).uses (ofSaggar sag s.quadSt)

/-- The end of a saggar: its tasks cancelled, its key zeroized; what cores hold of its memory, and its cores of any, goes
home, and its resources are scrubbed. -/
def stopSaggar (sag : Nat) (s : State) : State :=
  let s1 := freeResources sag (writeBack (ofSaggar sag s.quadSt) (ofSaggar sag s.clState) (dropWork sag s))
  { s1 with sags := del sag s1.sags }

/-- SAGGAR_STOP: once no other saggar maps a page of its quads, so that no state lets two saggars see one (R335, log entry
87). -/
def dueSaggarStop (sag : Nat) (s : State) : Option State :=
  if sag = 0 ∨ (find sag s.sags).isNone ∨ s.pcBusy ≠ none ∨ sharesQuads sag s = true then none
  else some (stopSaggar sag s)

/-- SAGGAR_STOP. -/
def execSaggarStop (sag : Nat) (s : State) :
    Host.Outcome State Fault Refusal :=
  happens (dueSaggarStop sag s) s

/-! ## Bandwidth registers (R342, Table 19.4) -/

/-- The registers of a die and saggar. -/
def bwKey (die sag : Nat) : Nat := die * 16 + sag

def bwAt (k : Nat) (s : State) : Bw := look ⟨0, 0, 0, 0⟩ k s.bw

/-- The part of a charge that the window still takes: the request that reaches CAP is the last, `past` the part of its
charge that lies past CAP; the rest waits for the next window (R342). -/
def Bw.room (b : Bw) (u past : Nat) : Nat :=
  let left := b.cap.toNat - b.cur.toNat
  if b.cap = 0 then u
  else if left = 0 then 0
  else if u < left then u
  else left + min past (u - left)

/-- What a saggar's requests on a die have cost since the last count is charged (R342). -/
def chargeBw (die sag : Nat) (s : State) : State :=
  let (n, s1) := freeNext s
  let (acts, turns, bursts) := Config.dramUse n
  let b := bwAt (bwKey die sag) s1
  let u := b.room (24 * acts + 6 * turns + bursts) (Config.dramLast n)
  let b1 := { b with cur := b.cur + BitVec.ofNat 32 u, tot := b.tot + BitVec.ofNat 64 u }
  { s1 with bw := put ⟨0, 0, 0, 0⟩ (bwKey die sag) b1 s1.bw }

/-- What a read of the registers of a die and saggar finds. -/
def bwRead (die sag : Nat) (s : State) : Bw × State :=
  let s1 := chargeBw die sag s
  (bwAt (bwKey die sag) s1, s1)

/-- The window of one saggar ends. -/
def endWindow (die sag : Nat) (s : State) : State :=
  let (b, s1) := bwRead die sag s
  { s1 with bw := put ⟨0, 0, 0, 0⟩ (bwKey die sag) { b with cur := 0, last := b.cur } s1.bw }

/-- BANDWIDTH_WINDOW_END. -/
def dueBandwidthWindowEnd (die : Nat) (s : State) : Option State :=
  if 32 ≤ die then none
  else some ((s.sags.map (·.1)).foldl (fun s g => endWindow die g s) s)

/-- BANDWIDTH_WINDOW_END. -/
def execBandwidthWindowEnd (die : Nat) (s : State) :
    Host.Outcome State Fault Refusal :=
  happens (dueBandwidthWindowEnd die s) s

/-- One write of the bandwidth registers: BWTOT (0 clears the total, log entry 50) or BWCAP, of 32 bits. -/
def Bw.write (b : Bw) : BwWrite → Bw
  | .tot v => { b with tot := v }
  | .cap v => { b with cap := v.setWidth 32 }

/-- BWTOT_WRITE, by the manager. -/
def dueBwtotWrite (die sag : Nat) (w : BwWrite) (s : State) : Option State :=
  if 32 ≤ die ∨ (find sag s.sags).isNone then none
  else some { s with bw := put ⟨0, 0, 0, 0⟩ (bwKey die sag) ((bwAt (bwKey die sag) s).write w) s.bw }

/-- BWTOT_WRITE. -/
def execBwtotWrite (die sag : Nat) (w : BwWrite) (s : State) :
    Host.Outcome State Fault Refusal :=
  happens (dueBwtotWrite die sag w s) s

end Sys2Proof.Machine
end

