-- ==== Sys2Proof/Machine/Platform.lean ====
section
/-! DEFINITION. The platform: boot and measurement, attestation, debug unlock, droop and the power cap, host
doorbells, the steward-core registers, the Ethernet rings, NVMe and PCIe (R345, R349 to R368). -/

namespace Sys2Proof.Machine

/-! ## Boot (R352 to R355, R368) -/

/-- Whether an image is a module configuration (Table 20.8). -/
def cfgOk (b : List Byte) : Bool :=
  decide (b.length = 4096) && decide (wordAt b 0 % 2 ^ 32 = 0x4746434D) && decide (bits (wordAt b 0) 47 32 = 1) &&
    decide (bits (wordAt b 1) 63 52 = 0) && decide (wordAt b 3 / 65536 = 0) && decide (leNat (b.drop 32) = 0) &&
    decide (((List.range 4).filter fun i => bit (wordAt b 1) (48 + i)).length ≤ 2)

/-- The default power cap, in units of 100 W: 190, or the lower value given. -/
def cfgCap (b : List Byte) : Nat := if wordAt b 3 % 65536 = 0 then 190 else min 190 (wordAt b 3 % 65536)

/-- Put a configuration in force. -/
def configure (b : List Byte) (s : State) : State :=
  let lanes := BitVec.ofNat 16 (bits (wordAt b 0) 63 48)
  let s1 := { s with
    cfg := ⟨BitVec.ofNat 48 (wordAt b 1), lanes, BitVec.ofNat 4 (bits (wordAt b 1) 51 48), BitVec.ofNat 64 (wordAt b 2)⟩
    cap := cfgCap b }
  (List.range 16).foldl (fun s p => modPort p (fun x => { x with lanes := lanes.getLsbD p }) s) s1

/-- Stop the boot: no port, no doorbell. -/
def bootStop (s : State) : State := { s with rot := { s.rot with boot := .failed } }

/-- The alias key of this boot, certified with both identity keys; the HSS state, of 2^30 one-time keys, is advanced
first: none where that fails (R355). -/
def aliasKeyed (can : Bool) (s : State) : Option State :=
  if !can ∨ 2 ^ 30 ≤ s.rot.hss then none
  else
    let n := s.rot.hss + 1
    some { s with rot := { s.rot with
      hss := n, aliasKey := n, cert := Config.certify n, cert2 := Config.certifyHss n } }

/-- Measure each image that verifies, in order; the boot stops at the first that does not. -/
def bootImages : List (Nat × Image × (State → Bool)) → State → Bool × State
  | [], s => (true, s)
  | (n, i, ok) :: l, s => if ok s then bootImages l (extend n (digestOf i) s) else (false, s)

/-- Whether an image carries the vendor's signatures. -/
def vendorOk (i : Image) : State → Bool := fun _ => imageOk Config.vendorKey i

/-- Whether a kiln image may be loaded at boot: the research enrolment may stand alone. -/
def kilnOk (i : Image) : State → Bool :=
  fun s => imageOk Config.vendorKey i || (s.rot.research && imageOk Config.researchKey i)

/-- Steps 2 to 6 of Table 20.2. -/
def bootList (f : Flash) : List (Nat × Image × (State → Bool)) :=
  [(1, f.cfg, fun s => vendorOk f.cfg s && cfgOk f.cfg.data), (2, f.pc, vendorOk f.pc), (3, f.kiln, kilnOk f.kiln),
   (4, f.stew, vendorOk f.stew), (5, f.man, osOk f.man)]

/-- The boot from its second step. -/
def bootRest (f : Flash) (s : State) : State :=
  match aliasKeyed f.hss s with
  | none => bootStop s
  | some s1 => match bootImages (bootList f) s1 with
    | (false, s2) => bootStop s2
    | (true, s2) =>
      if osOk f.sag0.os s2 then
        startSaggar f.sag0 (configure f.cfg.data { s2 with rot := { s2.rot with boot := .up } })
      else bootStop s2

/-- POWER_ON_BOOT: the images of Table 20.2 in order; the last starts saggar 0. -/
def duePowerOnBoot (f : Flash) (s : State) : Option State :=
  if s.rot.boot ≠ .off ∨ f.sag0.num ≠ 0 ∨ startOk f.sag0 s = false then none
  else if vendorOk f.rot s then some (bootRest f (extend 0 (digestOf f.rot) s))
  else some (bootStop s)

/-- POWER_ON_BOOT. -/
def execPowerOnBoot (f : Flash) (s : State) :
    Host.Outcome State Fault Refusal :=
  happens (duePowerOnBoot f s) s

/-! ## Droop and the power cap (R359, R360) -/

/-- A die's clock, 4.0 GHz nominal (R3). -/
def clkAt (die : Nat) (s : State) : DieClk := look ⟨4000, false⟩ die s.clks

def modClk (die : Nat) (f : DieClk → DieClk) (s : State) : State :=
  { s with clks := put ⟨4000, false⟩ die (f (clkAt die s)) s.clks }

/-- DROOP_DETECTED. -/
def dueDroopDetected (die : Nat) (s : State) : Option State :=
  if 32 ≤ die ∨ (clkAt die s).droop then none
  else some (modClk die (fun c => { c with droop := true }) s)

/-- DROOP_DETECTED. -/
def execDroopDetected (die : Nat) (s : State) :
    Host.Outcome State Fault Refusal :=
  happens (dueDroopDetected die s) s

/-- DROOP_CLEARED. -/
def dueDroopCleared (die : Nat) (s : State) : Option State :=
  if 32 ≤ die ∨ (clkAt die s).droop = false then none
  else some (modClk die (fun c => { c with droop := false }) s)

/-- DROOP_CLEARED. -/
def execDroopCleared (die : Nat) (s : State) :
    Host.Outcome State Fault Refusal :=
  happens (dueDroopCleared die s) s

/-- POWER_CAP_SET, in units of 100 W: never above 19 kW. -/
def duePowerCapSet (cap : Nat) (s : State) : Option State :=
  if s.rot.boot ≠ .up ∨ cap = 0 ∨ 190 < cap then none
  else some { s with cap := cap }

/-- POWER_CAP_SET. -/
def execPowerCapSet (cap : Nat) (s : State) :
    Host.Outcome State Fault Refusal :=
  happens (duePowerCapSet cap s) s

/-- POWER_CAP_CLOCK_CHANGE: no architectural state but the clock's rate. -/
def duePowerCapClockChange (die mhz : Nat) (s : State) : Option State :=
  if s.rot.boot ≠ .up ∨ 32 ≤ die ∨ mhz = 0 ∨ 4000 < mhz ∨ mhz % 100 ≠ 0 then
    none
  else some (modClk die (fun c => { c with mhz := mhz }) s)

/-- POWER_CAP_CLOCK_CHANGE. -/
def execPowerCapClockChange (die mhz : Nat) (s : State) :
    Host.Outcome State Fault Refusal :=
  happens (duePowerCapClockChange die mhz s) s

/-! ## Attestation, debug unlock, lifecycle (R354, R356, R358) -/

/-- All 16 measurement registers, as one snapshot. -/
def allRegs (s : State) : List (BitVec 384) := (List.range 16).map fun n => look 0 n s.rot.regs

/-- The report of a request. -/
def reportFor (sag : Nat) (nonce : BitVec 384) (s : State) : Report :=
  let d := sha384 (Config.reportBytes Config.deviceId s.rot.life nonce sag (allRegs s))
  ⟨Config.deviceId, s.rot.life, nonce, sag, allRegs s, Config.sign s.rot.aliasKey d, s.rot.cert, s.rot.cert2⟩

/-- ATTESTATION_REQUEST. -/
def dueAttestationRequest (sag : Nat) (nonce : BitVec 384) (s : State) : Option State :=
  if s.rot.boot ≠ .up ∨ (find sag s.sags).isNone then none
  else some { s with rot := { s.rot with reports := s.rot.reports ++ [reportFor sag nonce s] } }

/-- ATTESTATION_REQUEST. -/
def execAttestationRequest (sag : Nat) (nonce : BitVec 384) (s : State) :
    Host.Outcome State Fault Refusal :=
  happens (dueAttestationRequest sag nonce s) s

/-- DEBUG_NONCE_REQUEST: an earlier nonce lapses. -/
def dueDebugNonceRequest (s : State) : Option State :=
  if s.rot.boot ≠ .up then none
  else some { s with rot := { s.rot with nonce := some (Config.nonce s.rot.nonces), nonces := s.rot.nonces + 1 } }

/-- DEBUG_NONCE_REQUEST. -/
def execDebugNonceRequest (s : State) :
    Host.Outcome State Fault Refusal :=
  happens (dueDebugNonceRequest s) s

/-- Step 2 of Table 20.3: the fuses and the issued nonce. -/
def tokenMatches (t : DebugToken) (s : State) : Bool :=
  t.device == Config.deviceId && t.life == s.rot.life && s.rot.nonce == some t.nonce

/-- Step 3: both signatures. -/
def tokenSigned (t : DebugToken) (s : State) : Bool :=
  osOk ⟨Config.tokenBytes t.device t.life t.nonce t.perm, t.ecdsa, t.lms⟩ s

/-- A port scrubbed: its registers as at reset. -/
def Port.scrub (x : Port) : Port := { Port.init with owner := x.owner, lanes := x.lanes, sent := x.sent }

/-- Step 4: every task cancelled, every key zeroized, every resource scrubbed; host memory is none of them (R367). -/
def scrubAll (s : State) : State :=
  { s with mem := s.mem.filter (fun c => hostRange c.1)
           seqs := [], cores := [], tasks := [], launches := [], pipes := [], probes := [], flows := []
           ports := s.ports.map (fun p => (p.1, p.2.scrub))
           sags := s.sags.map (fun g => (g.1, { g.2 with
             keyed := false, key := 0, invals := [], windows := [], moving := none, answers := [] })) }

/-- Steps 5 and 6: the event is measured, then the port opens; the nonce has served. -/
def openDebug (perm : BitVec 32) (s : State) : State :=
  let s1 := extend 15 Config.unlockEvent s
  { s1 with rot := { s1.rot with nonce := none, debug := some perm } }

/-- DEBUG_UNLOCK: it waits for a resize record in progress; a token refused changes nothing. -/
def dueDebugUnlock (t : DebugToken) (s : State) : Option State :=
  if s.rot.boot ≠ .up ∨ s.pcBusy ≠ none then none
  else if tokenMatches t s && tokenSigned t s then some (openDebug t.perm (scrubAll s))
  else some s

/-- DEBUG_UNLOCK. -/
def execDebugUnlock (t : DebugToken) (s : State) :
    Host.Outcome State Fault Refusal :=
  happens (dueDebugUnlock t s) s

/-- LIFECYCLE_CHANGE: production enrols the owner's keys; a research enrolment the key of R331. -/
def dueLifecycleChange (l : Lifecycle) (s : State) : Option State :=
  if s.rot.boot ≠ .up ∨ l = s.rot.life then none
  else
    let r := { s.rot with
      life := l, owner := s.rot.owner || l == .production, research := s.rot.research || l == .research }
    some (extend 15 (Config.lifeEvent l) { s with rot := r })

/-- LIFECYCLE_CHANGE. -/
def execLifecycleChange (l : Lifecycle) (s : State) :
    Host.Outcome State Fault Refusal :=
  happens (dueLifecycleChange l s) s

/-! ## Doorbells and signals (R349, R350, R361, R362, R366) -/

/-- The endpoint ports, lowest first. -/
def endpoints (s : State) : List Nat := (List.range 4).filter fun p => s.cfg.pcieEp.getLsbD p

def pcieAt (p : Nat) (s : State) : PPort := look PPort.init p s.pcie

def modPcie (p : Nat) (f : PPort → PPort) (s : State) : State :=
  { s with pcie := put PPort.init p (f (pcieAt p s)) s.pcie }

/-- The sequencer that a SEQID of a saggar names (R362), one of a moved cluster among them (R339). -/
def namedSeq (sag sid : Nat) (s : State) : Option Nat :=
  if physCluster sag (sid / 16) s < 512 then some (seqOf sag sid s) else none

/-- The sequencer whose own number a SEQID is, while its cluster answers to another (R339). -/
def ownSeq (sag sid : Nat) (s : State) : Option Nat :=
  let p := nth 512 (sid / 16) (sagAt sag s).clusters
  if p < 512 then some (p * 16 + sid % 16) else none

/-- Raise a source on the sequencer that a register's value names with [63] set. One whose cluster answers to another
number runs no task under its own: there the source is held pending (R362). -/
def raiseNamed (sag src : Nat) (v : Word) (s : State) : State :=
  if v.getLsbD 63 then
    match namedSeq sag (v.toNat % 2 ^ 13) s, ownSeq sag (v.toNat % 2 ^ 13) s with
    | some q, _ => raiseIrq q src s
    | none, some q => modSag sag (fun g =>
        { g with irqs := upd q (look 0 q g.irqs ||| BitVec.ofNat 3 (2 ^ src)) g.irqs }) s
    | none, none => s
  else s

/-- HOST_DOORBELL_WRITE, at an offset of the endpoint's window: the doubleword at +0 of the page of a saggar that exists
is its doorbell; the rest ignores writes (R349, R350). -/
def dueHostDoorbellWrite (port off : Nat) (v : Word) (s : State) : Option State :=
  let page := off / 4096
  if s.rot.boot ≠ .up ∨ !(endpoints s).contains port ∨ (pcieAt port s).width = 0 ∨ 65536 ≤ off then none
  else if (find page s.sags).isNone ∨ off % 4096 ≠ 0 then some s
  else
    let first := (endpoints s).head? == some port
    let s1 := modSag page (fun g => if first then { g with dbell0 := v } else { g with dbell1 := v }) s
    some (raiseNamed page 2 (sagAt page s).dbtgt s1)

/-- What a host reads in the window: zero, but for the doorbell word of a saggar that exists, of which the spec says
nothing (R350). -/
def hostPageRead (off : Nat) (s : State) : Option (BitVec 32) :=
  if off % 4096 < 8 ∧ (find (off / 4096) s.sags).isSome then none else some 0

/-- HOST_DOORBELL_WRITE. -/
def execHostDoorbellWrite (port off : Nat) (v : Word) (s : State) :
    Host.Outcome State Fault Refusal :=
  happens (dueHostDoorbellWrite port off v s) s

/-- SIGNAL_WRITE. -/
def dueSignalWrite (sag : Nat) (v : Word) (s : State) : Option State :=
  if (find sag s.sags).isNone then none else some (raiseNamed sag 1 v s)

/-- SIGNAL_WRITE. -/
def execSignalWrite (sag : Nat) (v : Word) (s : State) :
    Host.Outcome State Fault Refusal :=
  happens (dueSignalWrite sag v s) s

/-- Whether MSI-X is enabled on a port (R366; the PCI specification's message control, log entry 73). -/
def PPort.msixOn (x : PPort) : Bool := x.msix.getLsbD 15

/-- A doubleword pair of the MSI-X table: each vector is masked at first. -/
def PPort.vector (k : Nat) (x : PPort) : Word := look (if k % 2 = 1 then 2 ^ 32 else 0) k x.mtab

/-- Whether a vector may not be sent now: the whole function is masked, or the vector. -/
def PPort.masked (n : Nat) (x : PPort) : Bool := x.msix.getLsbD 14 || (x.vector (2 * n + 1)).getLsbD 32

/-- A vector is sent, or pends while it is masked; nothing where the host has not enabled MSI-X. -/
def PPort.send (n : Nat) (x : PPort) : PPort :=
  if !x.msixOn || x.width == 0 then x
  else if x.masked n then { x with pba := x.pba ||| BitVec.ofNat 16 (2 ^ n) }
  else { x with sent := x.sent ++ [n] }

/-- Pending vectors that are no longer masked are sent. -/
def PPort.flush (x : PPort) : PPort :=
  (List.range 16).foldl (fun x n =>
    if x.pba.getLsbD n && x.msixOn && !x.masked n then
      { x with pba := x.pba &&& ~~~BitVec.ofNat 16 (2 ^ n), sent := x.sent ++ [n] }
    else x) x

/-- HOSTIRQ_WRITE: the saggar's vector on every endpoint port whose host has enabled it. -/
def dueHostirqWrite (sag : Nat) (s : State) : Option State :=
  if (find sag s.sags).isNone then none
  else some ((endpoints s).foldl (fun s p => modPcie p (PPort.send sag) s) s)

/-- HOSTIRQ_WRITE. -/
def execHostirqWrite (sag : Nat) (s : State) :
    Host.Outcome State Fault Refusal :=
  happens (dueHostirqWrite sag s) s

/-! ## The Ethernet ports' registers (Tables 20.4 and 20.5) -/

/-- The bits of a register that are kept. -/
def keep (mask : Nat) (v : Word) : Word := v &&& BitVec.ofNat 64 mask

/-- Entries of the transmit and receive rings (R363). -/
def Port.txLen (x : Port) : Nat := 2 ^ (x.ringLen.toNat % 32)
def Port.rxLen (x : Port) : Nat := 2 ^ bits x.ringLen.toNat 12 8

/-- A TAIL too far ahead of HEAD stops its ring. -/
def Port.txOver (x : Port) : Bool := decide (x.txLen < (x.txTail - x.txHead).toNat)
def Port.rxOver (x : Port) : Bool := decide (x.rxLen < (x.rxTail - x.rxHead).toNat)

/-- RINGERR is set by a ring that is overfilled. -/
def Port.checkRings (x : Port) : Port := { x with ringErr := x.ringErr || x.txOver || x.rxOver }

/-- A write of a port register with no event of its own; a shorter ring may be overfilled at once (R363); read-only
offsets change nothing. -/
def portWrite (off : Nat) (v : Word) (x : Port) : Port :=
  match off with
  | 0x10 => { x with ipLo := v }
  | 0x18 => { x with ipHi := v }
  | 0x20 => { x with ktpTab := keep 0xFFFFFFFFFFE0 v }
  | 0x28 => { x with ktpN := keep 0x1FFFF v }
  | 0x30 => { x with txBase := keep 0xFFFFFFFFFFF0 v }
  | 0x48 => { x with rxBase := keep 0xFFFFFFFFFFF0 v }
  | 0x60 => Port.checkRings { x with ringLen := keep 0x1F1F v }
  | _ => x

/-- The port register that an offset of the window names, where the saggar owns the port. -/
def portReg (sag off : Nat) (s : State) : Option (Nat × Nat) :=
  let p := (off - 0x1000) / 0x100
  if 0x1000 ≤ off ∧ p < 16 ∧ off % 8 = 0 ∧ (portAt p s).owner = some sag then some (p, off % 0x100) else none

/-- What a port register reads as. -/
def portRead (off p : Nat) (s : State) : Word :=
  let x := portAt p s
  match off with
  | 0x00 => BitVec.ofNat 64 (x.en.toNat + 2 * x.lanes.toNat + 4 * x.ringErr.toNat + 65536 * x.ktpPort.toNat)
  | 0x08 => (macOf p s).setWidth 64
  | 0x10 => x.ipLo
  | 0x18 => x.ipHi
  | 0x20 => x.ktpTab
  | 0x28 => x.ktpN
  | 0x30 => x.txBase
  | 0x38 => x.txTail
  | 0x40 => x.txHead
  | 0x48 => x.rxBase
  | 0x50 => x.rxTail
  | 0x58 => x.rxHead
  | 0x60 => x.ringLen
  | 0x68 => x.rxErr
  | 0x70 => x.rxDrop
  | _ => 0

/-- What an aligned doubleword of the platform window reads as: zero at an offset not in the tables. -/
def platformRead (sag off : Nat) (s : State) : Word :=
  let g := sagAt sag s
  match off with
  | 0x00 => g.dbell0
  | 0x08 => g.dbell1
  | 0x10 => g.dbtgt
  | 0x30 => if s.pcBusy.isSome then 1 else 0
  | 0x38 => g.ns.setWidth 64 ||| BitVec.ofNat 64 (g.nsPort % 4 * 2 ^ 32)
  | _ => match portReg sag off s with
    | some (p, o) => portRead o p s
    | none => 0

/-- A doorword to the partition controller, from saggar 0: one record at a time (R334). -/
def pcDoor (v : Nat) (s : State) : State :=
  match s.pcBusy with
  | none => { s with pcBusy := some (v, false) }
  | some _ => refuseBusy v (if zOp (resizeRcd v s) = 2 then 0 else 3) s

/-- The offsets whose writes are events of their own: SIGNAL, HOSTIRQ, and PCTL, TXTAIL and RXTAIL of a port. -/
def ownEvent (sag off : Nat) (s : State) : Bool :=
  off == 0x18 || off == 0x20 || (match portReg sag off s with
    | some (_, o) => o == 0x00 || o == 0x38 || o == 0x50
    | none => false)

/-- PLATFORM_REGISTER_WRITE: DBTGT, PCDOOR and the ports' plain registers; elsewhere nothing changes. -/
def duePlatformRegisterWrite (sag off : Nat) (v : Word) (s : State) : Option State :=
  if (find sag s.sags).isNone ∨ ownEvent sag off s then none
  else if off = 0x10 then some (modSag sag (fun g => { g with dbtgt := keep 0x8000000000001FFF v }) s)
  else if off = 0x28 then some (if sag = 0 then pcDoor v.toNat s else s)
  else match portReg sag off s with
    | some (p, o) => some (modPort p (portWrite o v) s)
    | none => some s

/-- PLATFORM_REGISTER_WRITE. -/
def execPlatformRegisterWrite (sag off : Nat) (v : Word) (s : State) :
    Host.Outcome State Fault Refusal :=
  happens (duePlatformRegisterWrite sag off v s) s

/-- Whether a saggar's write reaches a port's registers. -/
def owns (sag p : Nat) (s : State) : Bool := decide (p < 16) && (portAt p s).owner == some sag

/-- PCTL_WRITE; ignored where the saggar does not own the port. -/
def duePctlWrite (sag p : Nat) (v : Word) (s : State) : Option State :=
  if (find sag s.sags).isNone then none
  else if owns sag p s then
    some (modPort p (fun x => { x with
      en := v.getLsbD 0, ringErr := x.ringErr && !v.getLsbD 2, ktpPort := v.extractLsb' 16 16 }) s)
  else some s

/-- PCTL_WRITE; ignored where the saggar does not own the port. -/
def execPctlWrite (sag p : Nat) (v : Word) (s : State) :
    Host.Outcome State Fault Refusal :=
  happens (duePctlWrite sag p v s) s

/-! ## The descriptor rings (R363, Table 20.6) -/

/-- TXTAIL_WRITE. -/
def dueTxtailWrite (sag p : Nat) (v : Word) (s : State) : Option State :=
  if (find sag s.sags).isNone then none
  else if owns sag p s then some (modPort p (fun x => Port.checkRings { x with txTail := v }) s)
  else some s

/-- TXTAIL_WRITE. -/
def execTxtailWrite (sag p : Nat) (v : Word) (s : State) :
    Host.Outcome State Fault Refusal :=
  happens (dueTxtailWrite sag p v s) s

/-- RXTAIL_WRITE. -/
def dueRxtailWrite (sag p : Nat) (v : Word) (s : State) : Option State :=
  if (find sag s.sags).isNone then none
  else if owns sag p s then some (modPort p (fun x => Port.checkRings { x with rxTail := v }) s)
  else some s

/-- RXTAIL_WRITE. -/
def execRxtailWrite (sag p : Nat) (v : Word) (s : State) :
    Host.Outcome State Fault Refusal :=
  happens (dueRxtailWrite sag p v s) s

/-! ### Checksums (R345: the IPv4 header's and UDP's; IPv6's header has none) -/

/-- Insert the IPv4 header's checksum. -/
def insertL3 (b : List Byte) : List Byte :=
  let o := netOff b
  if at16 b (o - 2) ≠ 0x0800 then b
  else
    let z := put16 (o + 10) 0 b
    put16 (o + 10) (inetSum (sum16 ((z.drop o).take (4 * (leNat ((b.drop o).take 1) % 16))))) z

/-- Whether a frame has an IPv4 header whose checksum is good. -/
def goodL3 (b : List Byte) : Bool :=
  let o := netOff b
  at16 b (o - 2) == 0x0800 && inetSum (sum16 ((b.drop o).take (4 * (leNat ((b.drop o).take 1) % 16)))) == 0

/-- Whether a frame has a UDP checksum, and it is good. -/
def goodL4 (b : List Byte) : Bool :=
  match udpAt b with
  | none => false
  | some (u, addrs) => at16 b (u + 6) != 0 && decide (8 ≤ at16 b (u + 4)) && decide (u + at16 b (u + 4) ≤ b.length) &&
      inetSum (udpSum u addrs b) == 0

/-- The frame of a transmit descriptor, from its second word and its buffer. -/
def txFrame (w : Nat) (b : List Byte) : List Byte :=
  let b1 := if bit w 32 then insertL3 b else b
  if bit w 33 then insertL4 b1 else b1

/-- The frame of the transmit descriptor at an address, with the buffer's place and its bytes; none for a length outside
60 to 9,212, or a buffer that cannot be read. -/
def txDescriptor (sag d : Nat) (s : State) : Option (Nat × Nat × List Byte) :=
  let w := iaWord sag (d + 8) s
  let n := w % 2 ^ 14
  let a := iaWord sag d s % 2 ^ 48
  if 60 ≤ n ∧ n ≤ 9212 then (iaBytes sag a n s).map fun b => (a, n, txFrame w b) else none

/-- TX_DESCRIPTOR_DONE: the frame is sent, DONE written, HEAD advanced; a descriptor without a frame sends nothing. The
ring waits while the frame's class is paused, since descriptors are finished in order. -/
def dueTxDescriptorDone (p : Nat) (s : State) : Option State :=
  let x := portAt p s
  let sag := x.owner.getD 0
  let d := x.txBase.toNat + 16 * (x.txHead.toNat % x.txLen)
  let f := txDescriptor sag d s
  if !portOpen p s || x.txOver || x.txHead == x.txTail || f.any (fun f => x.stalls s.phys f.2.2) then none
  else
    let s0 := iaSeen sag d 16 s
    let s1 := match f with
      | some (a, n, b) => sendOn p b (iaSeen sag a n s0)
      | none => s0
    let s2 := iaPut sag (d + 8) (leBytes 8 (iaWord sag (d + 8) s ||| 2 ^ 63)) s1
    some (modPort p (fun x => { x with txHead := x.txHead + 1 }) s2)

/-- TX_DESCRIPTOR_DONE. -/
def execTxDescriptorDone (p : Nat) (s : State) :
    Host.Outcome State Fault Refusal :=
  happens (dueTxDescriptorDone p s) s

/-! ### Reception -/

/-- The KTP segment in a frame, where it is a UDP datagram on IPv6 to the port's address and KTPPORT (R364). -/
def ktpOf (x : Port) (b : List Byte) : Option KtpSeg :=
  let o := netOff b
  let f := fun i n => beNat ((b.drop (o + i)).take n)
  if at16 b (o - 2) = 0x86DD ∧ f 6 1 = 17 ∧ f 24 8 = x.ipHi.toNat ∧ f 32 8 = x.ipLo.toNat ∧
      f 42 2 = x.ktpPort.toNat then
    some (segFrom (BitVec.ofNat 128 (f 8 16)) ((b.drop (o + 48)).take (f 44 2 - 8)))
  else none

/-- The event that a segment is: one that is bad is counted by any of the three. -/
def segRun (p : Nat) (g : KtpSeg) (s : State) : Option State :=
  if segBad g then dueKtpDataSegment p g s
  else if g.type = 2#8 then dueKtpAckSegment p g s
  else if g.type = 3#8 then dueKtpErrorSegment p g s
  else dueKtpDataSegment p g s

/-- A frame into the next posted buffer. -/
def fillBuffer (p : Nat) (x : Port) (b : List Byte) (s : State) : State :=
  let sag := x.owner.getD 0
  let d := x.rxBase.toNat + 16 * (x.rxHead.toNat % x.rxLen)
  let s1 := iaPut sag (iaWord sag d s % 2 ^ 48) b (iaSeen sag d 16 s)
  let w := 2 ^ 63 + (goodL4 b).toNat * 2 ^ 33 + (goodL3 b).toNat * 2 ^ 32 + b.length
  modPort p (fun x => { x with rxHead := x.rxHead + 1 }) (iaPut sag (d + 8) (leBytes 8 w) s1)

/-- FRAME_RECEIVED: a bad FCS is counted; a priority-flow-control frame pauses classes; a KTP segment is taken as such;
any other frame goes to the ring, or is dropped and counted. -/
def dueFrameReceived (p : Nat) (fr : Frame) (s : State) : Option State :=
  let x := portAt p s
  if !portOpen p s || decide (9212 < fr.bytes.length) then none
  else if !fr.fcsOk then some (countErr p s)
  else if isPfc fr.bytes then some (modPort p (fun x => (x.pause s.phys fr.bytes).unpause s.phys) s)
  else match ktpOf x fr.bytes with
    | some g => segRun p g s
    | none =>
      if x.rxOver || x.rxHead == x.rxTail then
        some (modPort p (fun x => { x with rxDrop := x.rxDrop + 1 }) s)
      else some (fillBuffer p x fr.bytes s)

/-- FRAME_RECEIVED. -/
def execFrameReceived (p : Nat) (fr : Frame) (s : State) :
    Host.Outcome State Fault Refusal :=
  happens (dueFrameReceived p fr s) s

/-! ## NVMe and PCIe (R349, R366) -/

/-- NVME_COMMAND: issued for the saggar's own namespace on its root port; another is refused by the port. -/
def dueNvmeCommand (sag p : Nat) (ns : BitVec 32) (cmd : List Byte) (s : State) : Option State :=
  if (find sag s.sags).isNone ∨ 4 ≤ p ∨ s.cfg.pcieEp.getLsbD p ∨ (pcieAt p s).width = 0 then
    none
  else if (sagAt sag s).ns = ns ∧ (sagAt sag s).nsPort = p then
    some (modPcie p (fun x => { x with nvme := x.nvme ++ [(ns, cmd)] }) s)
  else some s

/-- NVME_COMMAND. -/
def execNvmeCommand (sag p : Nat) (ns : BitVec 32) (cmd : List Byte) (s : State) :
    Host.Outcome State Fault Refusal :=
  happens (dueNvmeCommand sag p ns cmd s) s

/-! ### The endpoint's configuration and its second window (R366; offsets and fields of the PCI specifications, log
entry 73) -/

/-- The writable bits of the command register: memory space, bus master, parity, SERR, interrupt disable. -/
def cmdMask : BitVec 16 := 0x0546

/-- A doubleword of an endpoint's configuration header, at its byte offset: identity, two 64-bit memory BARs, and the
power-management, MSI-X, PCI Express and error reporting capabilities. -/
def configHeader (p off : Nat) (s : State) : BitVec 32 :=
  let x := pcieAt p s
  match off with
  | 0x00 => s.cfg.ids.extractLsb' 0 32
  | 0x04 => 0x00100000#32 ||| x.cmd.setWidth 32
  | 0x08 => 0x12000000#32 ||| Config.stepping.setWidth 32
  | 0x10 => x.bar0.extractLsb' 0 32 ||| 4
  | 0x14 => x.bar0.extractLsb' 32 32
  | 0x18 => x.bar2.extractLsb' 0 32 ||| 4
  | 0x1C => x.bar2.extractLsb' 32 32
  | 0x2C => s.cfg.ids.extractLsb' 32 32
  | 0x34 => 0x40
  | 0x40 => 0x00035001
  | 0x50 => 0x000F6011#32 ||| (x.msix.setWidth 32 <<< 16)
  | 0x54 => 2
  | 0x58 => 0x2002
  | 0x60 => 0x00020010
  | 0x100 => 0x00020001
  | _ => 0

/-- A doubleword of the second window: the MSI-X table, and its pending bits at 0x2000. -/
def bar2Read (off : Nat) (x : PPort) : BitVec 32 :=
  if off < 256 then ((x.vector (off / 8)) >>> (8 * (off / 4 % 2 * 4))).setWidth 32
  else if off = 0x2000 then x.pba.setWidth 32
  else 0

/-- One half of a 64-bit value replaced. -/
def half (high : Bool) (v : BitVec 32) (w : Word) : Word :=
  if high then (w &&& 0xFFFFFFFF#64) ||| (v.setWidth 64 <<< 32) else (w &&& ~~~0xFFFFFFFF#64) ||| v.setWidth 64

/-- A host's write of a doubleword. -/
def PPort.write (w : HostWrite) (x : PPort) : PPort :=
  if w.bar2 then
    if w.off < 256 ∧ w.off % 4 = 0 then
      { x with mtab := upd (w.off / 8) (half (w.off / 4 % 2 == 1) w.v (x.vector (w.off / 8))) x.mtab }
    else x
  else match w.off with
    | 0x04 => { x with cmd := w.v.setWidth 16 &&& cmdMask }
    | 0x10 => { x with bar0 := half false w.v x.bar0 &&& ~~~0xFFFF#64 }
    | 0x14 => { x with bar0 := half true w.v x.bar0 }
    | 0x18 => { x with bar2 := half false w.v x.bar2 &&& ~~~0x3FFF#64 }
    | 0x1C => { x with bar2 := half true w.v x.bar2 }
    | 0x50 => { x with msix := w.v.extractLsb' 16 16 &&& 0xC000 }
    | _ => x

/-- A link comes up, or goes down; a port whose link was down, or goes down, has its registers as at reset. -/
def PPort.train (width rate : Nat) (x : PPort) : PPort :=
  if x.width = 0 ∨ width = 0 then { PPort.init with width := width, rate := rate, sent := x.sent, nvme := x.nvme }
  else { x with width := width, rate := rate }

/-- PCIE_LINK_TRAINING: a width of x16 or lower and a rate of PCIe 1.0 to 7.0, or neither where the partner has
gone; what a host then writes to an endpoint (R366). -/
def duePcieLinkTraining (p width rate : Nat) (writes : List HostWrite) (s : State) : Option State :=
  let up := [1, 2, 4, 8, 16].contains width && decide (1 ≤ rate ∧ rate ≤ 7)
  let host := up && (endpoints s).contains p
  if s.rot.boot ≠ .up ∨ 4 ≤ p ∨ !(up || (width == 0 && rate == 0)) ∨ (!host && !writes.isEmpty) then none
  else some (modPcie p (fun x => writes.foldl (fun x w => (x.write w).flush) (x.train width rate)) s)

/-- PCIE_LINK_TRAINING. -/
def execPcieLinkTraining (p width rate : Nat) (writes : List HostWrite) (s : State) :
    Host.Outcome State Fault Refusal :=
  happens (duePcieLinkTraining p width rate writes s) s

end Sys2Proof.Machine
end

