-- ==== Sys2Proof/Machine/Dispatch.lean ====
section
/-! DEFINITION. One arm per instruction: the one meaning it has. -/

namespace Sys2Proof.Machine

/-- What an instruction does. -/
def exec (i : Instr) (s : State) : Host.Outcome State Fault Refusal :=
  match i with
  | .nop => Sys2Proof.Machine.execNop s
  | .sync g m => Sys2Proof.Machine.execSync g m s
  | .slack g n => Sys2Proof.Machine.execSlack g n s
  | .pause => Sys2Proof.Machine.execPause s
  | .br g n => Sys2Proof.Machine.execBr g n s
  | .call g n => Sys2Proof.Machine.execCall g n s
  | .brp g p o n => Sys2Proof.Machine.execBrp g p o n s
  | .jr g a => Sys2Proof.Machine.execJr g a s
  | .jalr g d a => Sys2Proof.Machine.execJalr g d a s
  | .ret g => Sys2Proof.Machine.execRet g s
  | .loop g a n => Sys2Proof.Machine.execLoop g a n s
  | .lend => Sys2Proof.Machine.execLend s
  | .lendr => Sys2Proof.Machine.execLendr s
  | .lbrk g => Sys2Proof.Machine.execLbrk g s
  | .lidx g d l => Sys2Proof.Machine.execLidx g d l s
  | .csrr g c x => Sys2Proof.Machine.execCsrr g c x s
  | .csrw g c x => Sys2Proof.Machine.execCsrw g c x s
  | .csrs g c x => Sys2Proof.Machine.execCsrs g c x s
  | .csrc g c x => Sys2Proof.Machine.execCsrc g c x s
  | .trap g c => Sys2Proof.Machine.execTrap g c s
  | .eret g => Sys2Proof.Machine.execEret g s
  | .waitev g c => Sys2Proof.Machine.execWaitev g c s
  | .brkpt g c => Sys2Proof.Machine.execBrkpt g c s
  | .tlbinv g c x => Sys2Proof.Machine.execTlbinv g c x s
  | .icinv g x => Sys2Proof.Machine.execIcinv g x s
  | .exit g => Sys2Proof.Machine.execExit g s
  | .yield g => Sys2Proof.Machine.execYield g s
  | .add g d a b => Sys2Proof.Machine.execAdd g d a b s
  | .sub g d a b => Sys2Proof.Machine.execSub g d a b s
  | .and g d a b => Sys2Proof.Machine.execAnd g d a b s
  | .or g d a b => Sys2Proof.Machine.execOr g d a b s
  | .xor g d a b => Sys2Proof.Machine.execXor g d a b s
  | .andn g d a b => Sys2Proof.Machine.execAndn g d a b s
  | .shl g d a b => Sys2Proof.Machine.execShl g d a b s
  | .shr g d a b => Sys2Proof.Machine.execShr g d a b s
  | .sra g d a b => Sys2Proof.Machine.execSra g d a b s
  | .rot g d a b => Sys2Proof.Machine.execRot g d a b s
  | .min g d a b => Sys2Proof.Machine.execMin g d a b s
  | .max g d a b => Sys2Proof.Machine.execMax g d a b s
  | .minu g d a b => Sys2Proof.Machine.execMinu g d a b s
  | .maxu g d a b => Sys2Proof.Machine.execMaxu g d a b s
  | .sel g d a b => Sys2Proof.Machine.execSel g d a b s
  | .mul g d a b => Sys2Proof.Machine.execMul g d a b s
  | .mulh g d a b => Sys2Proof.Machine.execMulh g d a b s
  | .mulhu g d a b => Sys2Proof.Machine.execMulhu g d a b s
  | .div g d a b => Sys2Proof.Machine.execDiv g d a b s
  | .divu g d a b => Sys2Proof.Machine.execDivu g d a b s
  | .rem g d a b => Sys2Proof.Machine.execRem g d a b s
  | .remu g d a b => Sys2Proof.Machine.execRemu g d a b s
  | .clz g d a => Sys2Proof.Machine.execClz g d a s
  | .ctz g d a => Sys2Proof.Machine.execCtz g d a s
  | .popc g d a => Sys2Proof.Machine.execPopc g d a s
  | .brev g d a => Sys2Proof.Machine.execBrev g d a s
  | .sh1add g d a b => Sys2Proof.Machine.execSh1add g d a b s
  | .sh2add g d a b => Sys2Proof.Machine.execSh2add g d a b s
  | .sh3add g d a b => Sys2Proof.Machine.execSh3add g d a b s
  | .rngh g d a b => Sys2Proof.Machine.execRngh g d a b s
  | .addi g d a n => Sys2Proof.Machine.execAddi g d a n s
  | .andi g d a n => Sys2Proof.Machine.execAndi g d a n s
  | .ori g d a n => Sys2Proof.Machine.execOri g d a n s
  | .xori g d a n => Sys2Proof.Machine.execXori g d a n s
  | .tsti g p a n => Sys2Proof.Machine.execTsti g p a n s
  | .shli g d a k => Sys2Proof.Machine.execShli g d a k s
  | .shri g d a k => Sys2Proof.Machine.execShri g d a k s
  | .srai g d a k => Sys2Proof.Machine.execSrai g d a k s
  | .roti g d a k => Sys2Proof.Machine.execRoti g d a k s
  | .movw g d n => Sys2Proof.Machine.execMovw g d n s
  | .movh g d n => Sys2Proof.Machine.execMovh g d n s
  | .scmp g p a b c => Sys2Proof.Machine.execScmp g p a b c s
  | .pand g d a b => Sys2Proof.Machine.execPand g d a b s
  | .por g d a b => Sys2Proof.Machine.execPor g d a b s
  | .pxor g d a b => Sys2Proof.Machine.execPxor g d a b s
  | .pandn g d a b => Sys2Proof.Machine.execPandn g d a b s
  | .pnot g d a => Sys2Proof.Machine.execPnot g d a s
  | .psetw g d w x => Sys2Proof.Machine.execPsetw g d w x s
  | .pcnt g d p w => Sys2Proof.Machine.execPcnt g d p w s
  | .pfirst g d p w => Sys2Proof.Machine.execPfirst g d p w s
  | .scmpi g c p a h n => Sys2Proof.Machine.execScmpi g c p a h n s
  | .xsv g d a w => Sys2Proof.Machine.execXsv g d a w s
  | .xsvl g d a b => Sys2Proof.Machine.execXsvl g d a b s
  | .xsp g p a b => Sys2Proof.Machine.execXsp g p a b s
  | .xmp g m a => Sys2Proof.Machine.execXmp g m a s
  | .xvs g d a b => Sys2Proof.Machine.execXvs g d a b s
  | .xps g d p b => Sys2Proof.Machine.execXps g d p b s
  | .xpm g d m => Sys2Proof.Machine.execXpm g d m s
  | .lds g d b z x n => Sys2Proof.Machine.execLds g d b z x n s
  | .sts g d b z n => Sys2Proof.Machine.execSts g d b z n s
  | .vld g d b n => Sys2Proof.Machine.execVld g d b n s
  | .vst g d b n => Sys2Proof.Machine.execVst g d b n s
  | .vlds g d a b => Sys2Proof.Machine.execVlds g d a b s
  | .vsts g d a b => Sys2Proof.Machine.execVsts g d a b s
  | .vgath g d a b => Sys2Proof.Machine.execVgath g d a b s
  | .vscat g d a b => Sys2Proof.Machine.execVscat g d a b s
  | .pref g a b => Sys2Proof.Machine.execPref g a b s
  | .hbind g h a => Sys2Proof.Machine.execHbind g h a s
  | .hadv g h a => Sys2Proof.Machine.execHadv g h a s
  | .hwait g h a => Sys2Proof.Machine.execHwait g h a s
  | .hprod g h a => Sys2Proof.Machine.execHprod g h a s
  | .hstat g d h => Sys2Proof.Machine.execHstat g d h s
  | .hunbind g h => Sys2Proof.Machine.execHunbind g h s
  | .twait g a b => Sys2Proof.Machine.execTwait g a b s
  | .tstat g d a => Sys2Proof.Machine.execTstat g d a s
  | .twptr g d a => Sys2Proof.Machine.execTwptr g d a s
  | .publish g a => Sys2Proof.Machine.execPublish g a s
  | .atadd o c z d a b => Sys2Proof.Machine.execAtadd o c z d a b s
  | .atand o c z d a b => Sys2Proof.Machine.execAtand o c z d a b s
  | .ator o c z d a b => Sys2Proof.Machine.execAtor o c z d a b s
  | .atxor o c z d a b => Sys2Proof.Machine.execAtxor o c z d a b s
  | .atmin o c z d a b => Sys2Proof.Machine.execAtmin o c z d a b s
  | .atmax o c z d a b => Sys2Proof.Machine.execAtmax o c z d a b s
  | .atminu o c z d a b => Sys2Proof.Machine.execAtminu o c z d a b s
  | .atmaxu o c z d a b => Sys2Proof.Machine.execAtmaxu o c z d a b s
  | .atswp o c z d a b => Sys2Proof.Machine.execAtswp o c z d a b s
  | .atcas o c z d a b => Sys2Proof.Machine.execAtcas o c z d a b s
  | .atld o c z d a => Sys2Proof.Machine.execAtld o c z d a s
  | .atst o c z a b => Sys2Proof.Machine.execAtst o c z a b s
  | .vadd g d a b f n o => Sys2Proof.Machine.execVadd g d a b f n o s
  | .vsub g d a b f n o => Sys2Proof.Machine.execVsub g d a b f n o s
  | .vmul g d a b f n o => Sys2Proof.Machine.execVmul g d a b f n o s
  | .vfma g d a b f n o => Sys2Proof.Machine.execVfma g d a b f n o s
  | .vfnma g d a b f n o => Sys2Proof.Machine.execVfnma g d a b f n o s
  | .vminf g d a b f n o => Sys2Proof.Machine.execVminf g d a b f n o s
  | .vmaxf g d a b f n o => Sys2Proof.Machine.execVmaxf g d a b f n o s
  | .vfcmp g c p a b f n => Sys2Proof.Machine.execVfcmp g c p a b f n s
  | .vrcp g d a f n o => Sys2Proof.Machine.execVrcp g d a f n o s
  | .vrsq g d a f n o => Sys2Proof.Machine.execVrsq g d a f n o s
  | .vsqrt g d a f n o => Sys2Proof.Machine.execVsqrt g d a f n o s
  | .vexp2 g d a f n o => Sys2Proof.Machine.execVexp2 g d a f n o s
  | .vlog2 g d a f n o => Sys2Proof.Machine.execVlog2 g d a f n o s
  | .vabsf g d a f n o => Sys2Proof.Machine.execVabsf g d a f n o s
  | .vnegf g d a f n o => Sys2Proof.Machine.execVnegf g d a f n o s
  | .vfloor g d a f n o => Sys2Proof.Machine.execVfloor g d a f n o s
  | .vfrac g d a f n o => Sys2Proof.Machine.execVfrac g d a f n o s
  | .vred g d a r f n o => Sys2Proof.Machine.execVred g d a r f n o s
  | .viadd g d a b w => Sys2Proof.Machine.execViadd g d a b w s
  | .visub g d a b w => Sys2Proof.Machine.execVisub g d a b w s
  | .vimul g d a b w => Sys2Proof.Machine.execVimul g d a b w s
  | .vimulh g d a b w => Sys2Proof.Machine.execVimulh g d a b w s
  | .vand g d a b w => Sys2Proof.Machine.execVand g d a b w s
  | .vor g d a b w => Sys2Proof.Machine.execVor g d a b w s
  | .vxor g d a b w => Sys2Proof.Machine.execVxor g d a b w s
  | .vandn g d a b w => Sys2Proof.Machine.execVandn g d a b w s
  | .vshl g d a b w => Sys2Proof.Machine.execVshl g d a b w s
  | .vshr g d a b w => Sys2Proof.Machine.execVshr g d a b w s
  | .vsra g d a b w => Sys2Proof.Machine.execVsra g d a b w s
  | .vrot g d a b w => Sys2Proof.Machine.execVrot g d a b w s
  | .vimin g d a b w => Sys2Proof.Machine.execVimin g d a b w s
  | .vimax g d a b w => Sys2Proof.Machine.execVimax g d a b w s
  | .viminu g d a b w => Sys2Proof.Machine.execViminu g d a b w s
  | .vimaxu g d a b w => Sys2Proof.Machine.execVimaxu g d a b w s
  | .vicmp g p a b w c => Sys2Proof.Machine.execVicmp g p a b w c s
  | .vperm g d a b w => Sys2Proof.Machine.execVperm g d a b w s
  | .vshuf g d a b w => Sys2Proof.Machine.execVshuf g d a b w s
  | .vsel g d a b w => Sys2Proof.Machine.execVsel g d a b w s
  | .viota g d w => Sys2Proof.Machine.execViota g d w s
  | .vcvt g d a x r n o => Sys2Proof.Machine.execVcvt g d a x r n o s
  | .vmxsc g d a e => Sys2Proof.Machine.execVmxsc g d a e s
  | .vmxq g d a e => Sys2Proof.Machine.execVmxq g d a e s
  | .vmxdq g d a e => Sys2Proof.Machine.execVmxdq g d a e s
  | .vtern g d a b => Sys2Proof.Machine.execVtern g d a b s
  | .vpack g d a w => Sys2Proof.Machine.execVpack g d a w s
  | .vunpack g d a x h w => Sys2Proof.Machine.execVunpack g d a x h w s
  | .vmov g d a => Sys2Proof.Machine.execVmov g d a s
  | .vbcastl g d a b => Sys2Proof.Machine.execVbcastl g d a b s
  | .vscan g d a r f => Sys2Proof.Machine.execVscan g d a r f s
  | .mcall g n => Sys2Proof.Machine.execMcall g n s
  | .mwait g => Sys2Proof.Machine.execMwait g s
  | .mgload g a b => Sys2Proof.Machine.execMgload g a b s
  | .mgsave g a b => Sys2Proof.Machine.execMgsave g a b s
  | .mprog g d => Sys2Proof.Machine.execMprog g d s
  | .mresume g => Sys2Proof.Machine.execMresume g s
  | .aalloc g d a => Sys2Proof.Machine.execAalloc g d a s
  | .afree g a b => Sys2Proof.Machine.execAfree g a b s
  | .aclr g a b => Sys2Proof.Machine.execAclr g a b s
  | .aband g a b => Sys2Proof.Machine.execAband g a b s
  | .aown g d a => Sys2Proof.Machine.execAown g d a s
  | .abstat g d => Sys2Proof.Machine.execAbstat g d s
  | .aread g v a b f o => Sys2Proof.Machine.execAread g v a b f o s
  | .awrite g v a b f o => Sys2Proof.Machine.execAwrite g v a b f o s
  | .adrain g d a c f => Sys2Proof.Machine.execAdrain g d a c f s
  | .aacc g v a b f => Sys2Proof.Machine.execAacc g v a b f s
  | .dadd g d a b x => Sys2Proof.Machine.execDadd g d a b x s
  | .dsub g d a b x => Sys2Proof.Machine.execDsub g d a b x s
  | .dle g a b x => Sys2Proof.Machine.execDle g a b x s
  | .dlt g a b x => Sys2Proof.Machine.execDlt g a b x s
  | .deq g a b x => Sys2Proof.Machine.execDeq g a b x s
  | .dne g a b x => Sys2Proof.Machine.execDne g a b x s
  | .dmulk g d a k x => Sys2Proof.Machine.execDmulk g d a k x s
  | .dalld g d c x => Sys2Proof.Machine.execDalld g d c x s
  | .dsets g d x => Sys2Proof.Machine.execDsets g d x s
  | .dsetv g d x => Sys2Proof.Machine.execDsetv g d x s
  | .drem g d x => Sys2Proof.Machine.execDrem g d x s
  | .dlo g d x => Sys2Proof.Machine.execDlo g d x s
  | .dhi g d x => Sys2Proof.Machine.execDhi g d x s
  | .dsize g d x => Sys2Proof.Machine.execDsize g d x s
  | .dckpt g x => Sys2Proof.Machine.execDckpt g x s
  | .drest g x => Sys2Proof.Machine.execDrest g x s
  | .ddrop g => Sys2Proof.Machine.execDdrop g s
  | .dprop g => Sys2Proof.Machine.execDprop g s
  | .dclrs g => Sys2Proof.Machine.execDclrs g s
  | .dmemb g d p x => Sys2Proof.Machine.execDmemb g d p x s
  | .fcfg g f x => Sys2Proof.Machine.execFcfg g f x s
  | .fclr g f => Sys2Proof.Machine.execFclr g f s
  | .fins g f v x => Sys2Proof.Machine.execFins g f v x s
  | .fmerge g f a => Sys2Proof.Machine.execFmerge g f a s
  | .fread g a v x => Sys2Proof.Machine.execFread g a v x s
  | .fcnt g a x => Sys2Proof.Machine.execFcnt g a x s
  | .frej g a x => Sys2Proof.Machine.execFrej g a x s
  | .fstat g a x => Sys2Proof.Machine.execFstat g a x s
  | .fence g o c k => Sys2Proof.Machine.execFence g o c k s
  | .bar g o c => Sys2Proof.Machine.execBar g o c s
  | .fwait g d a => Sys2Proof.Machine.execFwait g d a s
  | .ffill g a b => Sys2Proof.Machine.execFfill g a b s
  | .fpoll g d a => Sys2Proof.Machine.execFpoll g d a s
  | .launch g d a => Sys2Proof.Machine.execLaunch g d a s
  | .cwait g d a => Sys2Proof.Machine.execCwait g d a s
  | .qpush g v a => Sys2Proof.Machine.execQpush g v a s
  | .qpop g v a => Sys2Proof.Machine.execQpop g v a s
  | .qpeek g v a => Sys2Proof.Machine.execQpeek g v a s
  | .qstat g d a => Sys2Proof.Machine.execQstat g d a s
  | .logmark g a => Sys2Proof.Machine.execLogmark g a s
  | .bundleDispatch q => Sys2Proof.Machine.execBundleDispatch q s
  | .bundleCommit q => Sys2Proof.Machine.execBundleCommit q s
  | .sequencer1StarvationIssue core => Sys2Proof.Machine.execSequencer1StarvationIssue core s
  | .pauseHoldEnd q => Sys2Proof.Machine.execPauseHoldEnd q s
  | .trapEntry q cause tval => Sys2Proof.Machine.execTrapEntry q cause tval s
  | .preemptionRequest q => Sys2Proof.Machine.execPreemptionRequest q s
  | .interrupt q src => Sys2Proof.Machine.execInterrupt q src s
  | .preemptionLanding q => Sys2Proof.Machine.execPreemptionLanding q s
  | .preemptionFreeze q => Sys2Proof.Machine.execPreemptionFreeze q s
  | .matrixCallStart core => Sys2Proof.Machine.execMatrixCallStart core s
  | .glazeStep core => Sys2Proof.Machine.execGlazeStep core s
  | .matrixCallComplete core => Sys2Proof.Machine.execMatrixCallComplete core s
  | .matrixFaultDelivery q => Sys2Proof.Machine.execMatrixFaultDelivery q s
  | .copyStart core ch => Sys2Proof.Machine.execCopyStart core ch s
  | .addOnWritePass core ch collides => Sys2Proof.Machine.execAddOnWritePass core ch collides s
  | .copyComplete core ch => Sys2Proof.Machine.execCopyComplete core ch s
  | .streamFillComplete core ch => Sys2Proof.Machine.execStreamFillComplete core ch s
  | .tlbInvalidationAck sag => Sys2Proof.Machine.execTlbInvalidationAck sag s
  | .stage2Invalidation sag => Sys2Proof.Machine.execStage2Invalidation sag s
  | .bankroleWrite core v => Sys2Proof.Machine.execBankroleWrite core v s
  | .vwbWrite q v => Sys2Proof.Machine.execVwbWrite q v s
  | .tcauseLatchDiscard q => Sys2Proof.Machine.execTcauseLatchDiscard q s
  | .streamRecordAccept sag stream => Sys2Proof.Machine.execStreamRecordAccept sag stream s
  | .gangPlacement sag launch inst => Sys2Proof.Machine.execGangPlacement sag launch inst s
  | .backfillReservation sag launch inst => Sys2Proof.Machine.execBackfillReservation sag launch inst s
  | .contextRestore task q => Sys2Proof.Machine.execContextRestore task q s
  | .elementDelivery pipe stage => Sys2Proof.Machine.execElementDelivery pipe stage s
  | .freeModeRebalance pipe => Sys2Proof.Machine.execFreeModeRebalance pipe s
  | .probeSend q => Sys2Proof.Machine.execProbeSend q s
  | .probeReturn probe => Sys2Proof.Machine.execProbeReturn probe s
  | .probeDrop probe => Sys2Proof.Machine.execProbeDrop probe s
  | .kilnRescanStreams sag => Sys2Proof.Machine.execKilnRescanStreams sag s
  | .kilnCancelLaunch sag => Sys2Proof.Machine.execKilnCancelLaunch sag s
  | .kilnReloadMicrocode sag => Sys2Proof.Machine.execKilnReloadMicrocode sag s
  | .kilnClosePipeline sag => Sys2Proof.Machine.execKilnClosePipeline sag s
  | .slotEnd sag => Sys2Proof.Machine.execSlotEnd sag s
  | .saggarStart req => Sys2Proof.Machine.execSaggarStart req s
  | .saggarStop sag => Sys2Proof.Machine.execSaggarStop sag s
  | .resizeGrow rec => Sys2Proof.Machine.execResizeGrow rec s
  | .resizeShrink rec => Sys2Proof.Machine.execResizeShrink rec s
  | .hashSweepComplete sag => Sys2Proof.Machine.execHashSweepComplete sag s
  | .clusterJoin sag cluster => Sys2Proof.Machine.execClusterJoin sag cluster s
  | .clusterMigration sag src dst => Sys2Proof.Machine.execClusterMigration sag src dst s
  | .bandwidthWindowEnd die => Sys2Proof.Machine.execBandwidthWindowEnd die s
  | .bwtotWrite die sag w => Sys2Proof.Machine.execBwtotWrite die sag w s
  | .powerOnBoot flash => Sys2Proof.Machine.execPowerOnBoot flash s
  | .droopDetected die => Sys2Proof.Machine.execDroopDetected die s
  | .droopCleared die => Sys2Proof.Machine.execDroopCleared die s
  | .powerCapSet cap => Sys2Proof.Machine.execPowerCapSet cap s
  | .attestationRequest sag nonce => Sys2Proof.Machine.execAttestationRequest sag nonce s
  | .debugNonceRequest => Sys2Proof.Machine.execDebugNonceRequest s
  | .debugUnlock token => Sys2Proof.Machine.execDebugUnlock token s
  | .hostDoorbellWrite port off v => Sys2Proof.Machine.execHostDoorbellWrite port off v s
  | .signalWrite sag v => Sys2Proof.Machine.execSignalWrite sag v s
  | .hostirqWrite sag => Sys2Proof.Machine.execHostirqWrite sag s
  | .platformRegisterWrite sag off v => Sys2Proof.Machine.execPlatformRegisterWrite sag off v s
  | .pctlWrite sag port v => Sys2Proof.Machine.execPctlWrite sag port v s
  | .txtailWrite sag port v => Sys2Proof.Machine.execTxtailWrite sag port v s
  | .rxtailWrite sag port v => Sys2Proof.Machine.execRxtailWrite sag port v s
  | .txDescriptorDone port => Sys2Proof.Machine.execTxDescriptorDone port s
  | .frameReceived port frame => Sys2Proof.Machine.execFrameReceived port frame s
  | .ktpDataSegment port seg => Sys2Proof.Machine.execKtpDataSegment port seg s
  | .ktpAckSend flow => Sys2Proof.Machine.execKtpAckSend flow s
  | .ktpAckSegment port seg => Sys2Proof.Machine.execKtpAckSegment port seg s
  | .ktpErrorSegment port seg => Sys2Proof.Machine.execKtpErrorSegment port seg s
  | .ktpRetransmitTimeout core ch segno => Sys2Proof.Machine.execKtpRetransmitTimeout core ch segno s
  | .nvmeCommand sag port ns cmd => Sys2Proof.Machine.execNvmeCommand sag port ns cmd s
  | .l1WriteBackOrDrop core line back => Sys2Proof.Machine.execL1WriteBackOrDrop core line back s
  | .accessPerformed q => Sys2Proof.Machine.execAccessPerformed q s
  | .copyElementDelivery core ch => Sys2Proof.Machine.execCopyElementDelivery core ch s
  | .powerCapClockChange die mhz => Sys2Proof.Machine.execPowerCapClockChange die mhz s
  | .lifecycleChange life => Sys2Proof.Machine.execLifecycleChange life s
  | .pcieLinkTraining port width rate writes => Sys2Proof.Machine.execPcieLinkTraining port width rate writes s

end Sys2Proof.Machine
end

