-- ==== Sys2Proof/Machine/Turn.lean ====
section
/-! DEFINITION. What one step of the machine is: an event of the outside world, else an event that is due
inside, else one core's turn: the next bundle of sequencer 0, of sequencer 1, or of both (R34), each of them whole. -/

namespace Sys2Proof.Machine

/-! ## The slots of a bundle -/

/-- Whether a slot is an atomic, which the access queue executes last (R188). -/
def isAtomic : Instr → Bool
  | .atadd _ _ _ _ _ _ | .atand _ _ _ _ _ _ | .ator _ _ _ _ _ _ | .atxor _ _ _ _ _ _ | .atmin _ _ _ _ _ _
  | .atmax _ _ _ _ _ _ | .atminu _ _ _ _ _ _ | .atmaxu _ _ _ _ _ _ | .atswp _ _ _ _ _ _ | .atcas _ _ _ _ _ _
  | .atld _ _ _ _ _ | .atst _ _ _ _ _ => true
  | _ => false

/-- Whether a slot is an atomic that only reads. -/
def onlyReads : Instr → Bool
  | .atld _ _ _ _ _ => true
  | _ => false

/-- The order in which slots execute here: control, the scalar queue, the others; of the atomics and futures, which take
one order each of whose members reads what the one before it left (R188, R194), ATLD first, which so reads what stood
before the bundle (R29), futures, fences and barriers, then the atomics that write; last those whose effects the spec puts
at the commit, so that no slot of the bundle finds them (R29, R69): LAUNCH to LOGMARK. -/
def rank (w : Slot) (i : Instr) : Nat :=
  if isAtomic i then (if onlyReads i then 3 else 5)
  else if classOf w = .q then (if queueOfSlot w = .access then 4 else 6)
  else if classOf w = .c then 0 else if scalarQueue w then 1 else 2

/-- The slots of a bundle with their positions. -/
def slotsOf (ws : List Slot) : List (Nat × Slot × Instr) :=
  ws.zipIdx.filterMap fun p => (slotInstr p.1).map fun i => (p.2, p.1, i)

/-- The slots in the order they execute. -/
def slotOrder (ws : List Slot) : List (Nat × Instr) :=
  ([0, 1, 2, 3, 4, 5, 6].map fun r => ((slotsOf ws).filter fun x => rank x.2.1 x.2.2 == r).map fun x => (x.1, x.2.2)).flatten

/-- The state a slot at position `n` executes in. -/
def atPos (n : Nat) (s : State) : State :=
  modMe (fun x => { x with bun := { x.bun with pos := n, trapped := none, park := none } }) s

/-- The trap taken of two: the one at the lower position (R229). -/
def firstTrap (f : Option (Nat × Nat × Word)) (n c : Nat) (v : Word) : Option (Nat × Nat × Word) :=
  match f with
  | some (m, d, w) => if n < m then some (n, c, v) else some (m, d, w)
  | none => some (n, c, v)

/-- The state that a slot leaves, or the one before it. -/
def Res.left (s : State) : Res → State
  | .ok t => t
  | _ => s

/-- What the reads leave that a slot which traps has completed before its trap: a record or a cell that it refuses, the
lanes before the one that fails (R159). -/
def trapReads (i : Instr) (s : State) : State :=
  let read := fun (a n : Nat) => match load a n s with
    | .ok (_, t) => t
    | .error _ => s
  let cell := fun (a : BitVec 6) =>
    if (sreg a s).toNat % 16 ≠ 0 then s
    else match place (viewOf s.cur s) s true true false false (sreg a s).toNat with
      | .ok (.phys pa k, ms) => if k = .io ∨ homeStops s.cur (.phys pa k) 16 s then s else noted false ms [] s
      | _ => s
  match i with
  | .hbind _ _ a => if (sreg a s).toNat % 32 = 0 then read (sreg a s).toNat 32 else s
  | .fwait _ _ a | .ffill _ a _ | .fpoll _ _ a => cell a
  | .vlds _ d a b => match strided a b s with
    | some (w, l) => (withDest d s fun _ s => .ok (lanesRead w l s)).left s
    | none => s
  | .vgath _ d a b => (withVec b s fun v s => withDest d s fun _ s => .ok (lanesRead 4 (indexed a v s) s)).left s
  | .mcall _ i => if (me s).mrow.busy || (me s).mrow.pend then s else callReads i.toNat (params s) s
  | .mresume _ => if (me s).mrow.busy || !(me s).mrow.pend then s else callReads (me s).mrow.idx.toNat (me s).record s
  | .mgload _ a b => match glazeArgs (sreg b s).toNat with
    | some (false, n, _) => if (sreg a s).toNat % 32 = 0 ∧ !unitBusy (myK s) s then read (sreg a s).toNat (32 * n) else s
    | _ => s
  | _ => s

/-- What the slots of a bundle come to: the state, the trap to take with its position, the wait, the leaves that the
accesses of a slot that traps or waits have passed. -/
structure Ran where
  state : State
  trap  : Option (Nat × Nat × Word)
  park  : Option Park
  seen  : List (Nat × Bool)
  deriving DecidableEq, Repr

/-- Execute slots, each by its one meaning; a slot that traps or must wait leaves nothing. -/
def runSlots : List (Nat × Instr) → Ran → Ran
  | [], r => r
  | (n, i) :: l, r =>
    match exec i (atPos n r.state) with
    | .next t => match (me t).bun.trapped, (me t).bun.park with
      | some (c, v), _ => runSlots l { r with
          trap := firstTrap r.trap n c v, seen := r.seen ++ (me (trapReads i (atPos n r.state))).bun.seen }
      | none, some k => runSlots l { r with park := some (r.park.getD k), seen := r.seen ++ (me t).bun.seen }
      | none, none => runSlots l { r with state := t }
    | _ => runSlots l r

/-! ## Ends of a bundle -/

/-- A discarded pop's element is kept for its sequencer (R266). -/
def keepPopped (q : Nat) (p : Option (Nat × Nat × Nat)) (s : State) : State :=
  match p with
  | none => s
  | some (pn, qi, i) => modQueue pn qi (fun oq =>
      { oq with elems := oq.elems.zipIdx.map fun e => if e.2 = i then { e.1 with rsvd := some q } else e.1 }) s

/-- The bundle is discarded and its trap taken; the entry waits for a matrix call of the sequencer in the unit
(R68, R230). -/
def bundleTrap (q c : Nat) (v addr : Word) (p : Option (Nat × Nat × Nat)) (s : State) : State :=
  let s1 := keepPopped q p (drain q s)
  if matrixBusy q s1 then modSeq q (Seq.held (.trap c v addr)) s1 else trapEntry q c v addr s1

/-- A wait that another wait of the same bundle does not replace: a value or a grant has come. -/
def Wait.served : Wait → Bool
  | .future _ (some _) => true
  | .qpush _ _ _ granted _ => granted
  | _ => false

/-- The wait that a bundle is in after it must wait again; a QPUSH counts its cycles from the moment it waits for
room. -/
def Wait.again (k : Park) (w : Wait) : Wait :=
  match k with
  | .retry => if w.served then w else .retry
  | .busy => if w.served then w else .busy
  | .future pa => .future pa Option.none
  | .cwait rcd => .cwait rcd
  | .qpush pn y order => match w with
    | .qpush a b o g c => if a = pn ∧ b = y ∧ o = order then .qpush pn y order g c else .qpush pn y order false 0
    | _ => .qpush pn y order false 0

/-- The bundle is discarded and its sequencer waits; the bundles before it commit. An element that it has popped is kept for
it (R266). -/
def bundlePark (q : Nat) (k : Park) (p : Option (Nat × Nat × Nat)) (s : State) : State :=
  let s := keepPopped q p (drain q s)
  let w := (seqAt q s).wait
  let set := fun (s : State) => if w.again k = w then s else modSeq q (fun y => { y with wait := w.again k }) s
  match k with
  | .future pa => if w = .future pa none then s else joinFuture pa (flushRange (q / 2) pa 16 s)
  | .cwait _ => settlePipes (set s)
  | _ => set s

/-- What is left of a discarded bundle in execution: the marks of the reads that its slots have completed, those of a slot
that traps among them, and those of a parked FWAIT (R159). -/
def Ran.leaves (q : Nat) (r : Ran) (s : State) : State :=
  remark (((seqAt q r.state).bun.seen.filter fun p => !p.2) ++ r.seen) { s with cur := q }

/-- The bundle in execution: executed slot by slot and committed; or discarded as a whole, to the state `s` before
it. -/
def runSlotsOf (q : Nat) (s t : State) : State :=
  let b := (seqAt q t).bun
  let r := runSlots (slotOrder b.words) ⟨t, none, none, []⟩
  match r.trap, r.park with
  | some (_, c, v), _ => bundleTrap q c v b.addr (seqAt q r.state).bun.popped (r.leaves q s)
  | none, some k => bundlePark q k (seqAt q r.state).bun.popped (r.leaves q s)
  | none, none => retire q (modSeq q (fun x => { x with wait := .none }) (dropProbes q { r.state with cur := q }))

/-- The bundle at the program counter of a sequencer: fetched, dispatched, executed. -/
def runBundle (q : Nat) (s : State) : State :=
  if mayDispatch q s then
    let s1 := fetched q s
    let t := dispatched q s1
    if (seqAt q t).bun.words.isEmpty then t else runSlotsOf q s1 t
  else s

/-! ## A turn -/

/-- Whether a sequencer is parked at a future that nothing has filled. -/
def asleep (x : Seq) : Bool :=
  match x.wait with
  | .future _ none => true
  | _ => false

/-- Whether a sequencer has a bundle ready. -/
def ready (q : Nat) (s : State) : Bool := mayDispatch q s && !asleep (seqAt q s)

/-- The slots of a sequencer's next bundle. -/
def nextSlots (q : Nat) (s : State) : List Slot :=
  match fetchBundle q (seqAt q s).pc.toNat s with
  | .ok (ws, _) => upToStop ws
  | .error _ => []

/-- Whether two bundles together hold no more slots of a class than Table 2.2 allows (R34). -/
def merges (a b : List Slot) : Bool :=
  [Cls.c, .s, .xin, .xout, .a, .v, .m, .d, .f, .q].all fun k =>
    decide (((a ++ b).filter fun w => classOf w == k).length ≤ k.limit)

/-- The refusals in a row of a core's sequencer 1. -/
def setRefused (k n : Nat) (s : State) : State :=
  if (coreAt k s).refused = n then s else modCore k (fun c => { c with refused := n }) s

/-- Sequencer 1 of a core beside sequencer 0, which had the turn in `s0` and has left `s` (R34): its bundle issues too
where sequencer 0's did not, or where the two merge; else it is refused. -/
def besides (k : Nat) (s0 s : State) : State :=
  let q := 2 * k + 1
  if !ready q s0 || !ready q s then setRefused k 0 s
  else if (seqAt (2 * k) s).wait != .none || merges (nextSlots (2 * k) s0) (nextSlots q s0) then
    runBundle q (setRefused k 0 s)
  else setRefused k ((coreAt k s).refused + 1) s

/-- A core's turn: its sequencer 0's bundle and what its sequencer 1 may issue beside it; sequencer 1 alone where
sequencer 0 has no bundle ready, or is held for it (R34). -/
def turn (k : Nat) (s : State) : State :=
  let q := 2 * k + 1
  if (coreAt k s).starved && ready q s then runBundle q (modCore k (fun c => { c with starved := false }) s)
  else if ready (2 * k) s then besides k s (runBundle (2 * k) s)
  else if ready q s then runBundle q (setRefused k 0 s)
  else setRefused k 0 s

/-- The running sequencers. -/
def runners (s : State) : List Nat := (s.seqs.filter fun p => p.2.run == .running).map (·.1)

/-- The core that has the turn after core `k`, wrapping. -/
def after (k : Nat) (s : State) : Option Nat :=
  (match (runners s).find? (fun n => decide (k < n / 2)) with
    | some n => some n
    | none => (runners s).head?).map fun n => n / 2

/-- Whose turn it is. -/
def turnOf (s : State) : Option Nat :=
  if (runners s).any (fun n => n / 2 == s.turn) then some s.turn else after s.turn s

/-- What a cycle does to a sequencer: a PAUSE runs down, a QPUSH that waits and a pending request grow older. -/
def tickSeq (x : Seq) : Seq :=
  { x with
    pause := x.pause - 1
    wait := match x.wait with
      | .qpush p y o g n => .qpush p y o g (n + 1)
      | w => w
    freeze := if (x.preq || x.halt) && x.mode == .u then x.freeze + 1 else x.freeze }

/-- Every 65,536 kiln cycles, 2^18 of these, free-mode pipelines are rebalanced (R310). -/
def tickPipes (s : State) : State :=
  if s.cycle % 2 ^ 18 = 0 then
    (s.pipes.map (·.1)).foldl (fun s pn => (dueFreeModeRebalance pn s).getD s) s
  else s

/-- A cycle passes; the kilns have read what they watch (log entry 14). -/
def tick (s : State) : State :=
  tickPipes (s.sags.foldl (fun s g => kilnSeen g.1 s) { s with
    cycle := s.cycle + 1
    phys := s.phys + 1
    ports := s.ports.map (fun p => (p.1, p.2.unpause (s.phys + 1)))
    probes := s.probes.map (fun p => { p with age := p.age + 1 })
    seqs := s.seqs.map (fun p => (p.1, tickSeq p.2)) })

/-- The end of a turn: barriers that are complete let go, the turn passes on; once every core has had its turn, a cycle
has passed. -/
def endTurn (k : Nat) (s : State) : State :=
  let s1 := settleBars s
  let n := (after k s1).getD k
  let s2 := { s1 with turn := n }
  if n ≤ k then tick s2 else s2

/-- A whole turn. -/
def fullTurn (k : Nat) (s : State) : State := endTurn k (turn k s)

/-! ## Events that are due -/

/-- A channel's next event. -/
def channelEvent (k ch : Nat) (s : State) : Option State :=
  let pass := match (look Chan.init ch (coreAt k s).chans).run with
    | none => false
    | some r => unitWrites (accBank k r.tmpl).1 (accBank k r.tmpl).2 (tPhase r.tmpl) s
  dueCopyStart k ch s <|> dueAddOnWritePass k ch pass s <|> dueCopyComplete k ch s <|>
    dueStreamFillComplete k ch s <|> dueCopyElementDelivery k ch s

/-- A core's: sequencer 1 no longer held back, its matrix unit, its channels. -/
def coreEventDue (k : Nat) (c : Core) (s : State) : Option State :=
  dueSequencer1StarvationIssue k s <|> dueMatrixCallStart k s <|>
    dueMatrixCallComplete k s <|> dueGlazeStep k s <|>
    (c.chans.map (·.1)).findSome? fun ch => channelEvent k ch s

/-- What waits for the end of the sequencer's matrix call (R80, R230, R281, R282). -/
def releaseHold (q : Nat) (s : State) : Option State :=
  let x := seqAt q s
  if x.mrow.busy then none
  else if x.sync then some (modSeq q (fun x => { x with sync := false }) s)
  else match x.hold with
    | .trap c v _ => dueTrapEntry q c v s
    | .exit => some (doExit q s)
    | .yield => some (saveTask q s)
    | _ => none

/-- A sequencer's: the end of a hold, a pending item that lands, a matrix fault, a probe. -/
def seqEventDue (q : Nat) (s : State) : Option State :=
  releaseHold q s <|> duePreemptionLanding q s <|> duePreemptionFreeze q s <|> dueMatrixFaultDelivery q s <|>
    dueProbeSend q s

/-- A restore of a yielded task on the lowest sequencer that may take it. -/
def restoreDue (sag : Nat) (s : State) : Option State :=
  let qs := ((sagAt sag s).clusters.map fun p => (List.range 16).map (p * 16 + ·)).flatten
  ((s.tasks.filter fun t => t.2.sag == sag && t.2.yielded).map (·.1)).findSome? fun tn =>
    qs.findSome? fun q => dueContextRestore tn q s

/-- A saggar's: invalidations, commands, restores, placements, stream records. -/
def sagEventDue (sag : Nat) (s : State) : Option State :=
  dueTlbInvalidationAck sag s <|> dueHashSweepComplete sag s <|>
    dueKilnRescanStreams sag s <|> dueKilnCancelLaunch sag s <|>
    dueKilnReloadMicrocode sag s <|> dueKilnClosePipeline sag s <|> restoreDue sag s <|>
    (match nextPlacement sag s with
      | some (.gang ln i _ _) => dueGangPlacement sag ln i s
      | some (.core ln _ _ _ _) => dueGangPlacement sag ln 0 s
      | none => none) <|>
    (match nextReservation sag s with
      | some (ln, i, _) => dueBackfillReservation sag ln i s
      | none => none) <|>
    (List.range (nqcb sag s)).findSome? fun i => dueStreamRecordAccept sag i s

/-- The pipelines', and the probes'. -/
def pipeEventDue (s : State) : Option State :=
  (s.pipes.findSome? fun p => (List.range p.2.stages.length).findSome? fun st =>
    dueElementDelivery p.1 st s) <|>
  (List.range s.probes.length).findSome? fun n => dueProbeReturn n s <|> dueProbeDrop n s

/-- The partition controller's (R334, R338, R339). -/
def resizeDue (s : State) : Option State :=
  match s.pcBusy with
  | none => none
  | some (rcd, _) =>
    dueResizeGrow rcd s <|> dueResizeShrink rcd s <|>
      (s.sags.findSome? fun g =>
        (s.clState.findSome? fun c => dueClusterJoin g.1 c.1 s) <|>
        g.2.leaving.findSome? fun src => g.2.clusters.findSome? fun dst =>
          dueClusterMigration g.1 src dst s)

/-- The first event that is due, in this model's order. -/
def eventDue (s : State) : Option State :=
  (s.cores.findSome? fun c => coreEventDue c.1 c.2 s) <|> ((runners s).findSome? fun q => seqEventDue q s) <|>
    pipeEventDue s <|> (s.sags.findSome? fun g => sagEventDue g.1 s) <|>
    (s.flows.findSome? fun f => dueKtpAckSend f.1 s) <|> resizeDue s

/-- A push that has been granted the reserve entry of its queue releases its element there at once (R312). -/
def runGranted (s : State) : State :=
  match s.seqs.find? fun p => match p.2.wait with
    | .qpush _ _ _ granted _ => granted && ready p.1 s
    | _ => false with
  | some p => runBundle p.1 s
  | none => s

/-- What happens next where the outside world does nothing: an event that is due, else a turn, else a cycle. -/
def advance (s : State) : State :=
  match eventDue s with
  | some t => runGranted t
  | none => match turnOf s with
    | some k => fullTurn k s
    | none => tick s

/-- One step. An event of the outside world comes first; BUNDLE_DISPATCH among them gives the sequencer's core the turn. A
module whose boot has stopped does nothing more. -/
def oneStep (s : State) : Host.Outcome State Fault Refusal :=
  if s.rot.boot = .failed then .fault .bootStopped
  else match s.agenda with
    | [] => .next (advance s)
    | .bundleDispatch q :: l => .next (fullTurn (q / 2) { s with agenda := l })
    | e :: l => match exec e { s with agenda := l } with
      | .next t => .next (runGranted t)
      | r => r

end Sys2Proof.Machine
end

