-- ==== Sys2Proof/Machine/Step.lean ====
section
/-! DEFINITION. The step, and where it finds its next instruction. -/

namespace Sys2Proof.Machine

/-- One step of the machine. -/
def step (s : State) : Host.Outcome State Fault Refusal := oneStep s

/-- The bundle that holds one slot word: first, with three NOPs after it; last where it carries STOP. -/
def oneSlot (w : Nat) : List Byte :=
  if bit w 31 then leBytes 12 0 ++ leBytes 4 w else leBytes 4 w ++ leBytes 8 0 ++ leBytes 4 (2 ^ 31)

/-- Sequencer 0 about to dispatch a bundle at 0x1_0000 in U mode, whatever it did before. -/
def readySeq (x : Seq) : Seq :=
  { x with run := .running, sagid := 0, vdev := 0, pc := 0x10000, mode := .u, tvec := 0x20000, loops := []
           preq := false, land := .none, halt := false, accLag := 0, exLag := 0, flight := [], pause := 0
           sync := false, tlb := false, hold := .none, wait := .none, bun := Bun.none }

/-- The word stored where `step` fetches next. The state is that of a module that has booted, in which a kiln
has started a task of saggar 0: translation tables at 0x1000 map the first GiB to itself at both stages, the
bundle lies at 0x1_0000, and sequencer 0 has the turn. -/
def State.withFetchWord (s : State) (_nbits w : Nat) : State :=
  let g := sagAt 0 s
  let m := writeCells 0x2000 (leBytes 8 0xD8F) (writeCells 0x1000 (leBytes 8 0x2001) s.mem)
  let s1 := { s with
    cur := 0, turn := 0, agenda := .bundleDispatch 0 :: s.agenda, skews := [], rot := { s.rot with boot := .up }
    mem := writeCells 0x10000 (oneSlot w) m
    sags := upd 0 { g with
      clusters := [0], keyed := true, s2root := 0x1000, s1roots := put 0 0 0x1000 g.s1roots } s.sags }
  modSeq 0 readySeq (modCore 0 (fun c => { c with icache := [], starved := false }) s1)

end Sys2Proof.Machine
end

