-- ==== Sys2Proof/Safety.lean ====
section
/-! DEFINITION. The terms that claims use: memory in its one form, runs that go on, the forms and operands of
slots. -/

namespace Sys2Proof.Machine

/-- The memory of a state has its one form. -/
def State.memOk (s : State) : Prop := Memory.wf s.mem = true

/-- Every state that `n` steps reach from `s`, and each of those steps, goes on. -/
def goesOn : Nat → State → Prop
  | 0, _ => True
  | n + 1, s => ∃ t, step s = .next t ∧ goesOn n t

/-- What a vector operand reads now (R176): the entry of a window name; a bound handle's head entry, consumed at
the commit, or its ring's entry at the offset; nothing where there is none to read. -/
def srcOf (v : BitVec 6) (s : State) : Option (VWord × State) :=
  match handleOf v with
  | none => some (vfileAt ((me s).ventry v.toNat) s, s)
  | some h => match find h (me s).handles with
    | none => none
    | some d =>
      if d.ring then
        if d.off < d.filled then some (vfileAt (d.base + (d.head + d.off) % d.len) s, s) else none
      else if 0 < d.filled then
        some (vfileAt (d.base + d.head) s, if hopDone (.consume h) s then s else addHop (.consume h) s)
      else none

/-- Vector operands in order. -/
def srcsOf : List (BitVec 6) → State → Option (List VWord × State)
  | [], s => some ([], s)
  | v :: l, s => match srcOf v s with
    | none => none
    | some (x, t) => match srcsOf l t with
      | none => none
      | some (xs, u) => some (x :: xs, u)

/-- The entry a vector destination writes now (R176): of a window name, or of a bound handle that does not feed and
has room. -/
def destOf (v : BitVec 6) (s : State) : Option (Nat × State) :=
  match handleOf v with
  | none => some ((me s).ventry v.toNat, s)
  | some h => match find h (me s).handles with
    | none => none
    | some d =>
      if d.feed = false ∧ d.filled < d.len then
        some (d.base + (d.head + d.filled) % d.len, addHop (.produce h) s)
      else none

/-- The guard, the vector sources and the vector destination of an instruction that computes one vector. -/
def vectorForm : Instr → Option (BitVec 3 × List (BitVec 6) × BitVec 6)
  | .vadd g d a b _ _ _ | .vsub g d a b _ _ _ | .vmul g d a b _ _ _ | .vminf g d a b _ _ _
  | .vmaxf g d a b _ _ _ => some (g, [a, b], d)
  | .vfma g d a b _ _ _ | .vfnma g d a b _ _ _ => some (g, [a, b, d], d)
  | .vrcp g d a _ _ _ | .vrsq g d a _ _ _ | .vsqrt g d a _ _ _ | .vexp2 g d a _ _ _ | .vlog2 g d a _ _ _
  | .vabsf g d a _ _ _ | .vnegf g d a _ _ _ | .vfloor g d a _ _ _ | .vfrac g d a _ _ _ => some (g, [a], d)
  | .vred g d a _ _ _ _ => some (g, [a], d)
  | .vscan g d a _ _ => some (g, [a], d)
  | .viadd g d a b _ | .visub g d a b _ | .vimul g d a b _ | .vimulh g d a b _ | .vand g d a b _
  | .vor g d a b _ | .vxor g d a b _ | .vandn g d a b _ | .vshl g d a b _ | .vshr g d a b _ | .vsra g d a b _
  | .vrot g d a b _ | .vimin g d a b _ | .vimax g d a b _ | .viminu g d a b _ | .vimaxu g d a b _
  | .vperm g d a b _ => some (g, [a, b], d)
  | .vshuf g d a b _ => some (g, [a, b, d], d)
  | .viota g d _ => some (g, [], d)
  | .vcvt g d a _ _ _ _ => some (g, [a], d)
  | .vmxsc g d a _ | .vmxq g d a _ | .vmxdq g d a _ => some (g, [a], d)
  | .vtern g d a b => some (g, [a, b, d], d)
  | .vpack g d a _ => some (g, [a], d)
  | .vunpack g d a _ _ _ => some (g, [a], d)
  | .vmov g d a => some (g, [a], d)
  | .vbcastl g d a _ => some (g, [a], d)
  | .xsv g d _ _ => some (g, [], d)
  | .xsvl g d _ _ => some (g, [], d)
  | _ => none

/-- The guard and the vector sources of an instruction whose slot looks at these before anything else that can stop it
(R176). -/
def vectorSources : Instr → Option (BitVec 3 × List (BitVec 6))
  | .vfcmp g _ _ a b _ _ | .vicmp g _ a b _ _ => some (g, [a, b])
  | .xvs g _ a _ => some (g, [a])
  | i => (vectorForm i).map fun f => (f.1, f.2.1)

/-- The destination of a write that leaves `e`, the whole entry or one lane of it. -/
def entryOf : Dest → Option Nat
  | .v e => some e
  | .vlane e _ => some e
  | _ => none

/-- The guard of a slot that has no effect where its guard is false. -/
def guardOf : Instr → Option (BitVec 3)
  | .sync g _ | .slack g _ | .br g _ | .call g _ | .brp g _ _ _ | .jr g _ | .jalr g _ _ | .ret g | .loop g _ _
  | .lbrk g | .lidx g _ _ | .trap g _ | .brkpt g _ => some g
  | .add g _ _ _ | .sub g _ _ _ | .and g _ _ _ | .or g _ _ _ | .xor g _ _ _ | .andn g _ _ _ | .shl g _ _ _
  | .shr g _ _ _ | .sra g _ _ _ | .rot g _ _ _ | .min g _ _ _ | .max g _ _ _ | .minu g _ _ _ | .maxu g _ _ _
  | .mul g _ _ _ | .mulh g _ _ _ | .mulhu g _ _ _ | .div g _ _ _ | .divu g _ _ _ | .rem g _ _ _ | .remu g _ _ _
  | .clz g _ _ | .ctz g _ _ | .popc g _ _ | .brev g _ _ | .sh1add g _ _ _ | .sh2add g _ _ _ | .sh3add g _ _ _
  | .rngh g _ _ _ | .addi g _ _ _ | .andi g _ _ _ | .ori g _ _ _ | .xori g _ _ _ | .tsti g _ _ _ | .shli g _ _ _
  | .shri g _ _ _ | .srai g _ _ _ | .roti g _ _ _ | .movw g _ _ | .movh g _ _ | .scmp g _ _ _ _
  | .scmpi g _ _ _ _ _ => some g
  | .pand g _ _ _ | .por g _ _ _ | .pxor g _ _ _ | .pandn g _ _ _ | .pnot g _ _ | .psetw g _ _ _ | .pcnt g _ _ _
  | .pfirst g _ _ _ | .xsv g _ _ _ | .xsvl g _ _ _ | .xsp g _ _ _ | .xmp g _ _ | .xvs g _ _ _ | .xps g _ _ _
  | .xpm g _ _ => some g
  | .lds g _ _ _ _ _ | .sts g _ _ _ _ | .vld g _ _ _ | .vst g _ _ _ | .vlds g _ _ _ | .vsts g _ _ _ | .vgath g _ _ _
  | .vscat g _ _ _ | .pref g _ _ | .hbind g _ _ | .hadv g _ _ | .hwait g _ _ | .hprod g _ _ | .hstat g _ _
  | .hunbind g _ | .twait g _ _ | .tstat g _ _ | .twptr g _ _ | .publish g _ => some g
  | .vfcmp g _ _ _ _ _ _ | .vicmp g _ _ _ _ _ => some g
  | .mcall g _ | .mwait g | .mprog g _ | .mresume g | .mgload g _ _ | .mgsave g _ _ | .aalloc g _ _ | .afree g _ _
  | .aclr g _ _ | .aband g _ _ | .aown g _ _ | .abstat g _ | .aread g _ _ _ _ _ | .awrite g _ _ _ _ _
  | .aacc g _ _ _ _ | .adrain g _ _ _ _ => some g
  | .dadd g _ _ _ _ | .dsub g _ _ _ _ | .dle g _ _ _ | .dlt g _ _ _ | .deq g _ _ _ | .dne g _ _ _ | .dmulk g _ _ _ _
  | .dalld g _ _ _ | .dsets g _ _ | .dsetv g _ _ | .drem g _ _ | .dlo g _ _ | .dhi g _ _ | .dsize g _ _ | .dckpt g _
  | .drest g _ | .ddrop g | .dprop g | .dclrs g | .dmemb g _ _ _ => some g
  | .fcfg g _ _ | .fclr g _ | .fins g _ _ _ | .fmerge g _ _ | .fread g _ _ _ | .fcnt g _ _ | .frej g _ _
  | .fstat g _ _ => some g
  | .fence g _ _ _ | .bar g _ _ | .fwait g _ _ | .ffill g _ _ | .fpoll g _ _ | .launch g _ _ | .cwait g _ _
  | .qpush g _ _ | .qpop g _ _ | .qpeek g _ _ | .qstat g _ _ | .logmark g _ => some g
  | i => match i with
    | .vsel _ _ _ _ _ => none
    | j => (vectorForm j).map (·.1)

/-- The guard of a system slot (R273), whose legality and privilege are checked whatever it holds (R63). -/
def systemGuard : Instr → Option (BitVec 3)
  | .csrr g _ _ | .csrw g _ _ | .csrs g _ _ | .csrc g _ _ | .eret g | .waitev g _ | .tlbinv g _ _ | .icinv g _
  | .exit g | .yield g => some g
  | _ => none

/-- Lane `k` of a vector as an exact value of a format, subnormals read as zero under `fi` (R108). -/
def fpLane (F : Fmt) (fi : BitVec 1) (v : VWord) (k : Nat) : Machine.Num := F.dec (fi == 1) (laneOf v F.bytes k)

/-- Node `i` at a level of the fixed tree of R120: of level 0, leaf i; of the next, the combination of nodes 2i and
2i + 1. -/
def foldTree {α : Type} (f : α → α → α) : Nat → (Nat → α) → Nat → α
  | 0, l, i => l i
  | k + 1, l, i => f (foldTree f k l (2 * i)) (foldTree f k l (2 * i + 1))

/-- A core holds no newer value of a byte of memory than its home does. -/
def clean (k pa : Nat) (s : State) : Prop :=
  ∀ p ∈ (coreAt k s).l1, p.1 = pa / 128 → p.2.dirty.getLsbD (pa % 128) = false

/-- A domain as R236 represents it: with 64 values or more from lo to hi no mask, else a mask whose lowest and
highest bits are those of lo and hi. -/
def domOk (d : Dom) : Prop :=
  match d.mask with
  | none => 64 ≤ d.hi - d.lo
  | some m => 0 ≤ d.hi - d.lo ∧ d.hi - d.lo < 64 ∧ m.getLsbD 0 = true ∧ m.getLsbD (d.hi - d.lo).toNat = true ∧
    m.toNat < 2 ^ ((d.hi - d.lo).toNat + 1)

/-- What a relation says of the values of its domains (Table 14.1). -/
def Rel.holds (r : Rel) (v : Nat → Int) : Prop :=
  match r.minor with
  | 0 => v r.d = v r.a + v r.b
  | 1 => v r.d = v r.a - v r.b
  | 2 => v r.a ≤ v r.b
  | 3 => v r.a < v r.b
  | 4 => v r.a = v r.b
  | 5 => v r.a ≠ v r.b
  | 6 => v r.d = signed 5 r.b * v r.a
  | _ => ∀ i j, i < r.a → j < r.a → i ≠ j → v (r.d + i) ≠ v (r.d + j)

/-- The places of an access of `n` bytes at an address by the acting sequencer, and the leaves it marks. -/
def placesOf (a n : Nat) (r w ap : Bool) (s : State) : Except Nat (List (Place × Nat) × List Nat) :=
  places (viewOf s.cur s) s r w ap (cut a n)

/-- Whether the pieces of an access lie in memory one after the other from `pa` on. -/
def inLine : Nat → List (Place × Nat) → Bool
  | _, [] => true
  | pa, (.phys a _, n) :: l => a == pa && inLine (pa + n) l
  | _, _ => false

/-- Whether a write of `n` bytes at an address by a saggar's kiln lands in memory from `pa` on and finds no leaf left to
mark (R159). -/
def landsAt (sag a pa n : Nat) (s : State) : Bool :=
  match places (agentView sag 0 s) s false true false (cut a n) with
  | .error _ => false
  | .ok (ps, ms) => inLine pa ps && decide ((ps.map (·.2)).sum = n) && decide (markLeaves true ms s.mem = s.mem)

/-- Whether each piece of a record at `base` lands so at its offset from `pa`, the pieces before it written. -/
def landsAll (sag base pa : Nat) : List (Nat × List Byte) → State → Bool
  | [], _ => true
  | (o, b) :: l, s => landsAt sag (base + o) (pa + o) b.length s && landsAll sag base pa l (agentWrite sag 0 (base + o) b s)

/-- Whether a byte of memory holds an A or D bit of one of the leaves. -/
def inLeaves (pa : Nat) (ms : List Nat) : Prop := ∃ m ∈ ms, pa = m ∨ pa = m + 1

/-- An atomic's address can be used (R189, R190): aligned, translated with R and W; on an IO page a single load or
store only; no error at the home stops it; and no matrix call is in the unit where the order releases. -/
def atomicReady (o : BitVec 2) (z : BitVec 1) (a : BitVec 6) (single : Bool) (p : Place) (ms : List Nat) (s : State) :
    Prop :=
  (sreg a s).toNat % (4 * (z.toNat + 1)) = 0 ∧
  place (viewOf s.cur s) s true true false false (sreg a s).toNat = .ok (p, ms) ∧
  (single = false → ∀ pa, p ≠ .phys pa .io) ∧ homeStops s.cur p (4 * (z.toNat + 1)) s = false ∧
  (o.getLsbD 1 = true → (me s).mrow.busy = false)

end Sys2Proof.Machine
end

