-- ==== Sys2Proof/Certificates/Slice0/Obligations.lean ====
section
/-! DEFINITION. The statements for the provers. -/

open Sys2Proof Sys2Proof.Machine

/-! ## Encodings and steps -/

/-- O1. The word written for an instruction decodes to that instruction, every operand at every value; every instruction
that some word decodes to has a word written for it. -/
def Obligations.EncodedWordsDecode : Prop :=
  (∀ (i : Instr) (w : Slot), encode i = some w → decode w = some i) ∧
  (∀ (i : Instr) (w : Slot), decode w = some i → (encode i).isSome = true)

/-- O2. The words of Table 3.16 decode to the instructions they stand for and its illegal ones to none; no word of
majors 0x35 and 0x3A to 0x3F decodes (Table 3.5). -/
def Obligations.SampleWordsDecode : Prop :=
  (decode 0x1429A7FF#32 = some (.addi 0 41 41 (-1)) ∧
    decode 0x241A1B00#32 = some (.lds 0 26 6 3 0 0) ∧
    decode 0x3730052F#32 = some (.atst 2 1 1 5 11) ∧
    decode 0x3E841796#32 = some (.vfma 2 4 5 57 1 1 0) ∧
    decode 0x680021C3#32 = some (.dlt 0 2 3 1) ∧
    decode 0x70298000#32 = some (.fence 0 2 2 6) ∧
    decode 0x00030001#32 = some (.sync 0 3) ∧
    decode 0x1000000F#32 = none ∧ decode 0x1E200000#32 = none ∧ decode 0x6A000000#32 = none) ∧
  (∀ w : Slot, (w.toNat / 2 ^ 25 % 64 = 0x35 ∨ 0x3A ≤ w.toNat / 2 ^ 25 % 64) → decode w = none)

/-- O3. A step runs the decoded bundle: where nothing else is due, the core whose turn it is dispatches sequencer 0's
bundle, and sequencer 1's beside it where the two merge (Table 2.2) or sequencer 0's did not issue, or sequencer 1's
alone where sequencer 0 is held for it or has none ready (R34); a bundle's slots are those its words decode to, each
runs by exec of its instruction, the bundle retires, which is its commit where no queue lags, and the turn ends. An
event of the outside world at the head of the agenda, which is this model's own (log entry 3), is the step, but for
BUNDLE_DISPATCH, which gives its sequencer's core the turn. -/
def Obligations.StepRunsTheBundle : Prop :=
  (∀ (s : State) (k : Nat), s.rot.boot ≠ .failed → s.agenda = [] → eventDue s = none → turnOf s = some k →
      step s = .next (endTurn k (turn k s))) ∧
  (∀ (k : Nat) (s : State), let q := 2 * k
    let t := runBundle q s
    (ready (q + 1) s = true → (coreAt k s).starved = true →
      turn k s = runBundle (q + 1) (modCore k (fun c => { c with starved := false }) s)) ∧
    (ready q s = false → ready (q + 1) s = false → turn k s = setRefused k 0 s) ∧
    (ready q s = true → ready (q + 1) s = false → turn k s = setRefused k 0 t) ∧
    ((coreAt k s).starved = false →
      (ready q s = false → ready (q + 1) s = true → turn k s = runBundle (q + 1) (setRefused k 0 s)) ∧
      (ready q s = true → ready (q + 1) s = true → ready (q + 1) t = true →
        (((seqAt q t).wait ≠ .none ∨ merges (nextSlots q s) (nextSlots (q + 1) s) = true) →
          turn k s = runBundle (q + 1) (setRefused k 0 t)) ∧
        ((seqAt q t).wait = .none → merges (nextSlots q s) (nextSlots (q + 1) s) = false →
          turn k s = setRefused k ((coreAt k t).refused + 1) t)))) ∧
  (∀ (s t : State) (q : Nat), mayDispatch q s = true → dispatch q (fetched q s) = .ok t → (seqAt q t).bun.words ≠ [] →
      let ws := (seqAt q t).bun.words
      let r := runSlots (slotOrder ws) ⟨t, none, none, []⟩
      (∀ w ∈ ws, ∃ i, decode w = some i ∧ wellFormed i = true) ∧
      (∀ n i, (n, i) ∈ slotOrder ws ↔ ∃ w, ws[n]? = some w ∧ decode w = some i ∧ wellFormed i = true) ∧
      (r.trap = none → r.park = none →
        runBundle q s = retire q (modSeq q (fun x => { x with wait := .none })
          (dropProbes q { r.state with cur := q })))) ∧
  (∀ (q : Nat) (s : State), lagsNow q s = (0, 0) ∨ (seqAt q s).bun.mayLag = false →
      retire q s = commit q { s with skews := s.skews.tail }) ∧
  (∀ (n : Nat) (i : Instr) (l : List (Nat × Instr)) (r : Ran) (t : State),
      exec i (atPos n r.state) = .next t → (me t).bun.trapped = none → (me t).bun.park = none →
      runSlots ((n, i) :: l) r = runSlots l { r with state := t }) ∧
  (∀ r : Ran, runSlots [] r = r) ∧
  (∀ (s t : State) (e : Instr) (l : List Instr), s.rot.boot ≠ .failed → s.agenda = e :: l →
      (∀ q, e = .bundleDispatch q →
        step s = .next (endTurn (q / 2) (turn (q / 2) { s with agenda := l }))) ∧
      ((∀ q, e ≠ .bundleDispatch q) → exec e { s with agenda := l } = .next t → step s = .next (runGranted t) ∧
        ((∀ p ∈ t.seqs, ∀ a b o n, p.2.wait ≠ .qpush a b o true n) → step s = .next t)))

/-! ## Reset, start and traps -/

/-- O4. After power-on every measurement register is zero, memory lists nothing, no saggar, task, launch or pipeline
exists, and nothing runs. Memory's zero bytes before a scrub are the model's choice (log entry 2). Reset memory has
its one form. -/
def Obligations.ResetState : Prop :=
  (∀ n, look 0 n State.reset.rot.regs = 0) ∧ State.reset.mem = [] ∧ State.reset.sags = [] ∧ State.reset.tasks = [] ∧
  State.reset.launches = [] ∧ State.reset.pipes = [] ∧ State.reset.rot.boot = .off ∧ State.reset.rot.debug = none ∧
  (∀ q, (seqAt q State.reset).run = .off) ∧ (∀ a, byteAt a State.reset = 0) ∧ State.reset.memOk

/-- O5. A saggar's device cores start with every glaze word zero, every front unconfigured and every accumulator bank
free; its clusters and its key are its own, and no quad it is given is one that another saggar owned before. -/
def Obligations.StartedSaggarIsClean : Prop :=
  ∀ (r : StartReq) (s : State), startOk r s = true →
    let t := startSaggar r s
    (find r.num t.sags).isSome = true ∧ (sagAt r.num t).clusters = r.clusters ∧ (sagAt r.num t).keyed = true ∧
    (sagAt r.num t).key = s.rot.keys ∧ t.rot.keys = s.rot.keys + 1 ∧
    (∀ d ∈ (sagAt r.num t).quads, quadState d s = .neutral ∧ quadState d t = .owned r.num) ∧
    (∀ d, d ∉ (sagAt r.num t).quads → quadState d t = quadState d s) ∧
    (∀ p ∈ r.clusters, clusterState p t = .owned r.num ∧ ∀ c, c < 8 → coreAt (8 * p + c) t = Core.init ∧
      (∀ i, i < 2 → (seqAt (16 * p + 2 * c + i) t).run = .off)) ∧
    (∀ n, look 0 n Core.init.glaze = 0) ∧ Core.init.fronts = [] ∧ Core.init.bands = []

/-- O6. Taking a trap: the earlier bundles commit; then PK, CAUSE, TADDR, TVAL, K mode, the handler at TVEC + 64·cause,
the bundle and the hold gone, nothing left on its way. With no earlier bundle uncommitted, nothing on its way, no future
waited for and no error in a table line, it changes no general, predicate or matrix register, loop, flag or handle of
its sequencer, no other sequencer and no byte of memory. -/
def Obligations.TrapEntry : Prop :=
  (∀ (q cause : Nat) (tval taddr : Word) (s : State), cause < 256 →
      let s0 := tablesMet q cause tval (drain q s)
      let x := seqAt q s0
      canFetch q (vector x.tvec cause).toNat (modSeq q (trapRegs cause tval taddr) (unpark q (trapLand q s0))) = true →
      let y := seqAt q (trapEntry q cause tval taddr s)
      y.mode = .k ∧ y.pc = x.tvec + BitVec.ofNat 64 (64 * cause) ∧ y.tcause.toNat = cause ∧ y.tval = tval ∧
      y.taddr.toNat = taddr.toNat % 2 ^ 48 ∧ y.tpk = decide (x.mode = .k) ∧ y.hold = .none ∧ y.wait = .none ∧
      y.inflight = [] ∧ y.bun = Bun.none ∧ y.flight = [] ∧
      (x.mode = .u → y.latches = x.latches ++ x.inflight.filter (fun p => !p.lock)) ∧
      (x.mode = .k → y.latches = x.latches) ∧
      ((seqAt q s).flight = [] → drain q s = s)) ∧
  (∀ (q cause : Nat) (tval taddr : Word) (s : State), (seqAt q s).inflight = [] → (seqAt q s).flight = [] →
      (∀ pa w, (seqAt q s).wait ≠ .future pa w) → (s.upsets = [] ∨ (cause ≠ 0x08 ∧ cause ≠ 0x09)) →
      canFetch q (vector (seqAt q s).tvec cause).toNat
        (modSeq q (trapRegs cause tval taddr) (unpark q (trapLand q s))) = true →
      let t := trapEntry q cause tval taddr s
      let x := seqAt q s
      let y := seqAt q t
      y.s = x.s ∧ y.p = x.p ∧ y.m = x.m ∧ y.loops = x.loops ∧ y.callLev = x.callLev ∧ y.rrb = x.rrb ∧ y.vwb = x.vwb ∧
      y.rmode = x.rmode ∧ y.fflags = x.fflags ∧ y.ltick = x.ltick ∧ y.tvec = x.tvec ∧ y.tscr = x.tscr ∧
      y.dom = x.dom ∧ y.handles = x.handles ∧ y.mrow = x.mrow ∧ y.latches = x.latches ∧
      (∀ p, p ≠ q → seqAt p t = seqAt p s) ∧ t.mem = s.mem ∧ t.cores = s.cores ∧ t.tasks = s.tasks)

/-- O7. ERET in K mode to a bundle start sets the return as its bundle's control effect, and to another target traps with
that target's fault: 0x0B, in K mode still, where TADDR is no multiple of 16. At the commit the pc is TADDR, and the
mode is U where PK is clear, with the kept barrier holding again (after a barrier of the handler's own, where its
bundle arrived at one) and the landing of a pending item chosen afresh, none where nothing is pending; else K. -/
def Obligations.ReturnFromTrap : Prop :=
  (∀ (g : BitVec 3) (s : State), guardTrue g s = true → (me s).mode = .k →
    (targetFault s.cur (me s).taddr s = none → exec (.eret g) s = .next (setCtl (.eret (me s).taddr) s)) ∧
    (∀ c v, targetFault s.cur (me s).taddr s = some (c, v) → exec (.eret g) s = .next (takeTrap c v s)) ∧
    ((me s).taddr.toNat < 2 ^ 48 → (me s).taddr.toNat % 16 ≠ 0 →
      exec (.eret g) s = .next (takeTrap 0x0B (me s).taddr s))) ∧
  (∀ (x : Seq) (t : Word), x.tpk = false → let y := applyCtl (.eret t) x
    y.pc = x.taddr ∧ y.mode = .u ∧ y.s = x.s ∧ y.latches = x.latches ∧ y.land = y.landing ∧
    (y.pending = false → y.land = .none) ∧
    (x.hold.isBar = false → y.hold = x.uhold ∧ y.uhold = .none) ∧
    (x.hold.isBar = true → y.hold = x.hold ∧ y.uhold = x.uhold)) ∧
  (∀ (x : Seq) (t : Word), x.tpk = true → let y := applyCtl (.eret t) x
    y.pc = x.taddr ∧ y.mode = x.mode ∧ y.hold = x.hold ∧ y.s = x.s ∧ y.latches = x.latches ∧ y.land = x.land) ∧
  (∀ (g : BitVec 3) (s : State), (me s).mode = .u → exec (.eret g) s = .next (takeTrap 0x04 (slotVal s) s))

/-- O8. TRAP ends its bundle normally and is taken at its commit with cause 0x1D, TVAL its code and TADDR the next
bundle; BRKPT raises 0x1C at its own bundle. -/
def Obligations.TrapAndBreakpoint : Prop :=
  (∀ (g : BitVec 3) (c : BitVec 12) (s : State), guardTrue g s = true →
    exec (.trap g c) s = .next (setCtl (.trap c) s) ∧
    exec (.brkpt g c) s = .next (takeTrap 0x1C (c.setWidth 64) s)) ∧
  (∀ (g : BitVec 3) (c : BitVec 12) (s : State), guardTrue g s = false →
    exec (.trap g c) s = .next s ∧ exec (.brkpt g c) s = .next s) ∧
  (∀ (q : Nat) (c : BitVec 12) (s : State), matrixBusy q s = false →
    afterCommit q (.trap c) s = trapEntry q 0x1D (c.setWidth 64) (seqAt q s).pc s) ∧
  (∀ (c : BitVec 12) (x : Seq), (applyCtl (.trap c) x).pc = x.bun.addr + BitVec.ofNat 64 x.bun.len)

/-- O9. A trap whose handler cannot be fetched stops the sequencer and cancels its group (R263): every live task of the
group ends and is on no sequencer, the sequencers they were on run nothing, the launch is dead, and a trace record is
written with TYPE 9 and REASON 9 (Table 18.4). The model's own: the launch of a stage task is not cancelled with its
group (log entry 86). -/
def Obligations.DoubleFaultStops : Prop :=
  (∀ (q cause : Nat) (tval taddr : Word) (s : State),
    let s1 := modSeq q (trapRegs cause tval taddr) (unpark q (trapLand q (tablesMet q cause tval (drain q s))))
    canFetch q (seqAt q s1).pc.toNat s1 = false →
    trapEntry q cause tval taddr s = cancelGroup (seqAt q s1).task 9 (modSeq q (fun x => { x with run := .stopped }) s1)) ∧
  (∀ (tn n p : Nat) (t k : Task) (s : State), find tn s.tasks = some t →
    let c := cancelGroup tn 9 s
    let live := (groupOf t s).filter fun x => !x.2.ended
    (find n s.tasks = some k → k.ended = false → k.launch = t.launch → k.inst = t.inst → k.grp = t.grp →
      (∀ y, find n c.tasks = some y → y.ended = true ∧ y.on = none) ∧
      (k.on = some p → (seqAt p c).run = .off ∧ (seqAt p c).wait = .none ∧ (seqAt p c).latches = [])) ∧
    (t.stage = none → ∀ l, find t.launch c.launches = some l → l.dead = true) ∧
    c = live.foldl (fun s x => endTask x.1 false s)
      (let u := live.foldl (fun s x => stopTask x.2 s) (trace t.sag 9 9 noTask noCore noCore 0
        ((find t.launch s.launches).bind fun l => tickOf l s) s)
       if t.stage = none then killLaunch t.launch 1 u else u)) ∧
  (∀ (sag : Nat) (tick : Option Nat) (s : State), ∃ (cy : Word) (u : State), u.mem = s.mem ∧ u.upsets = s.upsets ∧
    let k := fun o => kcbWord sag o u
    let b := leBytes 8 (tick.getD (sagAt sag s).decSeq) ++ leBytes 8 cy.toNat ++
      leBytes 8 (0xFFFFFFFF * 2 ^ 32 + 0xFFFF * 2 ^ 16 + 0xFFFF) ++ [9#8, 9#8, 0#8, 0#8, 0#8, 0#8, 0#8, 0#8]
    let v := if k 24 % 32 = 0 then u
      else kcbPut sag 32 ((k 32 + 1) % 2 ^ 64) (agentWrite sag 0 (k 16 % 2 ^ 48 + 32 * (k 32 % 2 ^ (k 24 % 32))) b u)
    trace sag 9 9 noTask noCore noCore 0 tick s = kcbPut sag 192 ((kcbWord sag 192 v + 1) % 2 ^ 64) v) ∧
  (∀ (sag a pa : Nat) (b : List Byte) (s : State), landsAt sag a pa b.length s = true → s.upsets = [] →
    (agentWrite sag 0 a b s).mem = writeCells pa b s.mem)

/-- O10. What a mode may not run traps with 0x04, whatever the guard: in U mode ERET, TLBINV, a WAITEV that names event
2, a read of a trap register, a write of a trap register, LVBASE or BANKROLE. -/
def Obligations.PrivilegedSlotsTrap : Prop :=
  ∀ (g : BitVec 3) (c : BitVec 12) (r : BitVec 6) (s : State), (me s).mode = .u →
    (exec (.eret g) s = .next (takeTrap 0x04 (slotVal s) s)) ∧
    (c.toNat ≤ 1 → exec (.tlbinv g c r) s = .next (takeTrap 0x04 (slotVal s) s)) ∧
    (4 ≤ c.toNat ∧ c.toNat ≤ 7 → exec (.waitev g c) s = .next (takeTrap 0x04 (slotVal s) s)) ∧
    (0x020 ≤ c.toNat ∧ c.toNat ≤ 0x024 → exec (.csrr g c r) s = .next (takeTrap 0x04 (slotVal s) s)) ∧
    ((0x020 ≤ c.toNat ∧ c.toNat ≤ 0x025) ∨ c.toNat = 0x040 →
      exec (.csrw g c r) s = .next (takeTrap 0x04 (slotVal s) s) ∧
      exec (.csrs g c r) s = .next (takeTrap 0x04 (slotVal s) s) ∧
      exec (.csrc g c r) s = .next (takeTrap 0x04 (slotVal s) s))

/-- O11. A guarded slot whose operand values are legal and whose guard is false has no effect, a system slot too where
its mode may run it; one with an operand value outside its limits raises 0x01 with its position and word, whatever its
guard, and a system slot that its mode may not run 0x04. -/
def Obligations.GuardsAndOperandLimits : Prop :=
  (∀ (i : Instr) (g : BitVec 3) (s : State), guardOf i = some g → wellFormed i = true → guardTrue g s = false →
      exec i s = .next s) ∧
  (∀ (i : Instr) (g : BitVec 3) (s : State), guardOf i = some g → wellFormed i = false →
      exec i s = .next (takeTrap 0x01 (slotVal s) s)) ∧
  (∀ (i : Instr) (g : BitVec 3) (s : State), systemGuard i = some g →
      (wellFormed i = true → privileged (me s).mode i = false → guardTrue g s = false → exec i s = .next s) ∧
      (wellFormed i = false → exec i s = .next (takeTrap 0x01 (slotVal s) s)) ∧
      (wellFormed i = true → illegalNow i s = false → privileged (me s).mode i = true →
        exec i s = .next (takeTrap 0x04 (slotVal s) s)))

/-! ## Dispatch control, transfers, loops, control registers -/

/-- O12. NOP has no effect; SYNC, SLACK and PAUSE are their bundle's control effect: the queues that SYNC names lag by no
bundle after it, and dispatch waits where it names the matrix unit and a call handed over before is in it; the limit
is set; 64 cycles pass. WAITEV with a named event set clears it at its commit, and else waits; TLBINV, ICINV, EXIT and
YIELD are their bundle's control effect; TLBINV, EXIT and YIELD wait while the sequencer's matrix call is in the unit,
TLBINV for the whole call and not for its operand reads only (log entry 28). After its commit TLBINV releases at pa and
waits for its invalidation, ICINV releases at cl and drops the core's fetched copies of the page, or all; EXIT ends the
task after a release at pa, which leaves each dirty byte of its core at its home; YIELD releases at sy, writes the pieces
of the task's image at their offsets in its context area, and frees the sequencer: where that area lies in memory they
stand there in order. A restore that reads an image as its save wrote it gives the registers back. How far a queue that no SYNC names lags is open (log entry 4). -/
def Obligations.ControlAndSystemSlotsRun : Prop :=
  (∀ (g m : BitVec 3) (n : BitVec 6) (s : State),
      exec .nop s = .next s ∧ exec .pause s = .next (setCtl .pause s) ∧
      (guardTrue g s = true → m ≠ 0 → exec (.sync g m) s = .next (setCtl (.sync m) s)) ∧
      (guardTrue g s = true → 1 ≤ n.toNat → n.toNat ≤ 16 →
        exec (.slack g n) s = .next (setCtl (.slack (n.setWidth 5)) s)) ∧
      (∀ x : Seq, let y := applyCtl (.sync m) x
        y.pc = x.bun.next ∧
        y.sync = (m.getLsbD 2 && x.mrow.busy && x.bun.mcall.isNone) ∧
        (applyCtl .pause x).pause = 64 ∧ (applyCtl .pause x).pc = x.bun.next ∧
        (applyCtl (.slack (n.setWidth 5)) x).slack = n.setWidth 5) ∧
      (∀ q, (seqAt q s).bun.ctl = .sync m → (m.getLsbD 0 = true → (lagsNow q s).1 = 0) ∧
        (m.getLsbD 1 = true → (lagsNow q s).2 = 0) ∧
        (m.getLsbD 0 = true → m.getLsbD 1 = true → retire q s = commit q { s with skews := s.skews.tail })) ∧
      (∀ q, (seqAt q s).pause ≠ 0 ∨ (seqAt q s).sync = true → mayDispatch q s = false) ∧
      (∀ q, (seqAt q s).sync = true → (seqAt q s).mrow.busy = false →
        releaseHold q s = some (modSeq q (fun x => { x with sync := false }) s))) ∧
  (∀ (g : BitVec 3) (c : BitVec 12) (r : BitVec 6) (s : State), guardTrue g s = true →
      (c ≠ 0 → c.toNat < 8 → ((me s).mode = .k ∨ c.toNat < 4) →
        ((me s).evt &&& c.setWidth 3 ≠ 0 → exec (.waitev g c) s = .next (setCtl (.waitev (c.setWidth 3)) s)) ∧
        ((me s).evt &&& c.setWidth 3 = 0 → exec (.waitev g c) s = .next (setPark .retry s))) ∧
      ((me s).mode = .k → c.toNat ≤ 1 → (me s).mrow.busy = false →
        exec (.tlbinv g c r) s = .next (setCtl (.tlbinv c.toNat (sreg r s)) s)) ∧
      ((me s).mode = .k → c.toNat ≤ 1 → (me s).mrow.busy = true →
        exec (.tlbinv g c r) s = .next (setPark .busy s)) ∧
      exec (.icinv g r) s = .next (setCtl (.icinv (r == 0) (sreg r s)) s) ∧
      ((me s).mrow.busy = false → exec (.exit g) s = .next (setCtl .exit s)) ∧
      ((me s).mrow.busy = true → exec (.exit g) s = .next (setPark .busy s)) ∧
      (¬((me s).mode = .k ∧ (me s).tpk = true) →
        ((me s).mrow.busy = false → exec (.yield g) s = .next (setCtl .yield s)) ∧
        ((me s).mrow.busy = true → exec (.yield g) s = .next (setPark .busy s))) ∧
      ((me s).mode = .k → (me s).tpk = true → exec (.yield g) s = .next (takeTrap 0x0C 0 s)) ∧
      (∀ (x : Seq), (applyCtl (.waitev (c.setWidth 3)) x).evt = x.evt &&& ~~~(c.setWidth 3))) ∧
  (∀ (q op : Nat) (v : Word) (s : State), let x := seqAt q s
      (let t := release (q / 2) 2 s
       let u := afterCommit q (.tlbinv op v) s
       (seqAt q u).tlb = true ∧ mayDispatch q u = false ∧ u.mem = t.mem ∧ u.cores = t.cores ∧
         ((find x.sagid.toNat s.sags).isSome = true → (sagAt x.sagid.toNat u).invals =
           (sagAt x.sagid.toNat s).invals ++ [⟨some q, markers x.sagid.toNat t⟩])) ∧
      (let t := release (q / 2) 1 s
       let u := afterCommit q (.icinv false v) s
       (afterCommit q (.icinv true v) s).mem = t.mem ∧ (coreAt (q / 2) (afterCommit q (.icinv true v) s)).icache = [] ∧
         u.mem = t.mem ∧ ∀ pa kd ms, place (viewOf q t) t false false false false v.toNat = .ok (.phys pa kd, ms) →
           ∀ w, w ∈ (coreAt (q / 2) u).icache ↔ w ∈ (coreAt (q / 2) t).icache ∧ w.1 / 1024 ≠ pa / 4096) ∧
      (∀ tk, x.mrow.busy = false → find x.task s.tasks = some tk → tk.on = some q →
        let u := afterCommit q .exit s
        let t := release (q / 2) 2 s
        (seqAt q u).run = .off ∧ (seqAt q u).latches = [] ∧ (∀ w, find x.task u.tasks = some w → w.ended = true) ∧
          u = endTask x.task true t ∧ (∀ pa, clean (q / 2) pa t) ∧
          (s.upsets = [] → ∀ pa l, (pa / 128, l) ∈ (coreAt (q / 2) s).l1 → (∀ p ∈ (coreAt (q / 2) s).l1, p.1 = pa / 128 →
            p.2 = l) → byteAt pa t = if l.dirty.getLsbD (pa % 128) then l.byte (pa % 128) else byteAt pa s)) ∧
      (∀ tk, x.mrow.busy = false → find x.task s.tasks = some tk →
        let u := afterCommit q .yield s
        let r := release (q / 2) 3 (trapLand q s)
        let y := seqAt q r
        let pc := if x.mode = .k then x.taddr else x.pc
        let lv := liveAt tk.sag y.vdev y.lvbase pc.toNat r
        (seqAt q u).run = .off ∧ (∃ w, find x.task u.tasks = some w ∧ w.yielded = true ∧ w.on = none ∧
          w.uhold = x.keptBar ∧ w.live = lv) ∧ (∀ pa, clean (q / 2) pa r) ∧
        ((∀ pa w, x.wait ≠ .future pa w) →
          u.mem = (writePieces tk.sag (areaAt tk.sag tk.ctx r) (imagePieces q pc lv r) r).mem))) ∧
  (∀ (sag n base pa : Nat) (l : List (Nat × List Byte)) (s : State),
      areaAt sag n s = kcbWord sag 40 s % 2 ^ 48 + n * 0x90000 ∧
      (landsAll sag base pa l s = true → s.upsets = [] →
        (writePieces sag base l s).mem = l.foldl (fun m p => writeCells (pa + p.1) p.2 m) s.mem)) ∧
  (∀ (q tn vdev : Nat) (pc : Word) (lv : Option Live) (rd : Reader) (t : Task) (s r : State),
      let x := seqAt q s
      let y := seqFrom rd t tn vdev r
      t.live = lv → (∀ p ∈ imagePieces q pc lv s, rd p.1 p.2.length = p.2) → x.loops.length ≤ 6 →
      x.latches.length ≤ 64 → x.callLev < 65536 →
      y.pc = pc ∧ y.mode = .u ∧ y.seqid.toNat = t.sid % 8192 ∧ y.callLev = x.callLev ∧ y.rmode = x.rmode ∧
      y.rrb = x.rrb ∧ y.vwb = x.vwb &&& 0xFC0#12 ∧ y.fflags = x.fflags ∧ y.ltick = x.ltick ∧ y.evt = x.evt ∧
      y.dbound = x.dbound ∧ y.ttbase = x.ttbase &&& 0xFFFFFFFFFFC0#64 ∧ y.lvbase = x.lvbase &&& 0xFFFFFFFFFFF0#64 ∧
      (1 ≤ x.slack.toNat → x.slack.toNat ≤ 16 → y.slack = x.slack) ∧
      (∀ i, i < 64 → y.rs i = if t.wrote Live.s i then x.rs i else 0) ∧
      (∀ i, i < 16 → y.rp i = if i = 0 ∨ t.wrote Live.p i = true then x.rp i else 0) ∧
      (∀ i, i < 8 → y.rm i = if t.wrote Live.m i then x.rm i else 0) ∧
      ((∀ e ∈ x.loops, e.level < 2 ^ 64) → y.loops = x.loops) ∧
      (∀ i, i < 8 → nth 0 i y.frec = nth 0 i x.frec) ∧ y.mrow = { x.mrow with busy := false } ∧
      y.dom.rexec = x.dom.rexec ∧ y.latches.length = x.latches.length ∧
      (∀ (i : Nat) (n : Pend) (d : Nat), x.latches[i]? = some n → n.left < 16 → n.dest = .s d → d < 4096 → n.val.toNat < 2 ^ 64 →
        y.latches[i]? = some { n with lock := false }))

/-- O13. BRP transfers to A + 4·SignExt(I, 17) when bit 0 of p[P] equals o, or takes that target's fault, and has no
effect otherwise. -/
def Obligations.BranchOnPredicate : Prop :=
  ∀ (g : BitVec 3) (p : BitVec 4) (o : BitVec 1) (i : BitVec 17) (s : State),
    (∃ w : Slot, encode (.brp g p o i) = some w ∧ w.toNat / 2 ^ 25 % 64 = 0x03 ∧ decode w = some (.brp g p o i)) ∧
    (guardTrue g s = false → exec (.brp g p o i) s = .next s) ∧ (preg 0 s).getLsbD 0 = true ∧
    (guardTrue g s = true →
    ((preg p s).getLsbD 0 ≠ decide (o = 1) → exec (.brp g p o i) s = .next s) ∧
    ((preg p s).getLsbD 0 = decide (o = 1) →
      targetFault s.cur ((me s).bun.addr + 4 * i.signExtend 64) s = none →
      exec (.brp g p o i) s = .next (setCtl (.jump ((me s).bun.addr + 4 * i.signExtend 64)) s)) ∧
    (∀ c v, (preg p s).getLsbD 0 = decide (o = 1) →
      targetFault s.cur ((me s).bun.addr + 4 * i.signExtend 64) s = some (c, v) →
      exec (.brp g p o i) s = .next (takeTrap c v s)))

/-- O14. Transfers to a bundle start set the transfer as the bundle's control effect; CALL and JALR leave the address
after their bundle in their link register. A target of 2^48 or more faults with 0x08, one that is no multiple of 16
with 0x0B, and the slot takes its target's fault. -/
def Obligations.TransfersRun : Prop :=
  (∀ (g : BitVec 3) (i : BitVec 22) (d a : BitVec 6) (s : State), guardTrue g s = true →
      let t := (me s).bun.addr + 4 * i.signExtend 64
      let link := (me s).bun.addr + BitVec.ofNat 64 (me s).bun.len
      (targetFault s.cur t s = none → exec (.br g i) s = .next (setCtl (.jump t) s) ∧
        exec (.call g i) s = .next (putS 63 link 1 (setCtl (.call t) s))) ∧
      (targetFault s.cur (sreg a s) s = none → exec (.jr g a) s = .next (setCtl (.jump (sreg a s)) s) ∧
        exec (.jalr g d a) s = .next (putS d link 1 (setCtl (.call (sreg a s)) s))) ∧
      (targetFault s.cur (sreg 63 s) s = none → exec (.ret g) s = .next (setCtl (.ret (sreg 63 s)) s))) ∧
  (∀ (g : BitVec 3) (i : BitVec 22) (j : BitVec 17) (p : BitVec 4) (o : BitVec 1) (d a : BitVec 6) (q : Nat) (s : State),
      (∀ t : Word, 2 ^ 48 ≤ t.toNat → targetFault q t s = some (0x08, t)) ∧
      (∀ t : Word, t.toNat < 2 ^ 48 → t.toNat % 16 ≠ 0 → targetFault q t s = some (0x0B, t)) ∧
      (guardTrue g s = true → ∀ c v,
        (targetFault s.cur ((me s).bun.addr + 4 * i.signExtend 64) s = some (c, v) →
          exec (.br g i) s = .next (takeTrap c v s) ∧ exec (.call g i) s = .next (takeTrap c v s)) ∧
        ((preg p s).getLsbD 0 = decide (o = 1) → targetFault s.cur ((me s).bun.addr + 4 * j.signExtend 64) s = some (c, v) →
          exec (.brp g p o j) s = .next (takeTrap c v s)) ∧
        (targetFault s.cur (sreg a s) s = some (c, v) →
          exec (.jr g a) s = .next (takeTrap c v s) ∧ exec (.jalr g d a) s = .next (takeTrap c v s)) ∧
        (targetFault s.cur (sreg 63 s) s = some (c, v) → exec (.ret g) s = .next (takeTrap c v s))))

/-- O15. What the commit of a transfer or a loop slot does to the program counter, the call level and the loop stack: a
branch leaves the current loops its target lies outside of, and none where it lies inside the innermost one, a return
those entered deeper, each in turn and no others, and the close of an iteration goes back to its start while
iterations remain. -/
def Obligations.ControlAtCommit : Prop :=
  ∀ (x : Seq) (t : Word) (e : LoopEnt) (l : List LoopEnt) (rot : Bool),
    ((applyCtl (.jump t) x).pc = t ∧ (applyCtl (.jump t) x).callLev = x.callLev) ∧
    ((applyCtl (.call t) x).pc = t ∧ (applyCtl (.call t) x).loops = x.loops ∧
      (x.callLev < 65535 → (applyCtl (.call t) x).callLev = x.callLev + 1)) ∧
    ((applyCtl (.ret t) x).pc = t ∧ (applyCtl (.ret t) x).callLev = x.callLev - 1 ∧
      (∀ f r, (applyCtl (.ret t) x).loops = f :: r → f.level ≤ x.callLev - 1)) ∧
    (∃ n, (applyCtl (.ret t) x).loops = x.loops.drop n ∧ ∀ f ∈ x.loops.take n, x.callLev - 1 < f.level) ∧
    (∀ f r, (applyCtl (.jump t) x).loops = f :: r → f.level = x.callLev →
      f.start.toNat ≤ t.toNat ∧ t.toNat ≤ f.stop.toNat) ∧
    (∃ n, (applyCtl (.jump t) x).loops = x.loops.drop n ∧ ∀ f ∈ x.loops.take n, f.level = x.callLev ∧
      (t.toNat < f.start.toNat ∨ f.stop.toNat < t.toNat)) ∧
    (x.loops = e :: l → e.start.toNat ≤ t.toNat → t.toNat ≤ e.stop.toNat → (applyCtl (.jump t) x).loops = x.loops) ∧
    ((applyCtl (.loopPush e) x).pc = x.bun.next ∧ (applyCtl (.loopPush e) x).loops = e :: x.loops) ∧
    ((applyCtl (.lbrk t) x).pc = t ∧ (applyCtl (.lbrk t) x).loops = x.loops.drop 1) ∧
    (x.loops = e :: l → (e.idx + 1).toNat < e.count.toNat →
      (applyCtl (.lend rot) x).pc = e.start ∧ (applyCtl (.lend rot) x).loops = { e with idx := e.idx + 1 } :: l) ∧
    (x.loops = e :: l → ¬(e.idx + 1).toNat < e.count.toNat →
      (applyCtl (.lend rot) x).pc = x.bun.next ∧ (applyCtl (.lend rot) x).loops = l) ∧
    (x.loops = e :: l → (applyCtl (.lend rot) x).rrb = if rot then x.rrb - 1 else x.rrb)

/-- O16. LOOP enters a loop whose last bundle starts at A + 4·I with iteration count s[a], or goes past it where s[a] is
zero; LEND and LENDR close an iteration at the last bundle of the current loop; LBRK leaves it; LIDX reads an
iteration index, all ones beyond the stack. With no current loop, and away from its last bundle, they trap; LOOP traps
with 0x01 on a stack of six entries, with 0x0B where its last bundle's address is no bundle start, lies before the end
of its own bundle or not inside the current loop, and with that address's fetch fault. -/
def Obligations.LoopsRun : Prop :=
  (∀ (g : BitVec 3) (a d l : BitVec 6) (i : BitVec 16) (s : State),
      let x := me s
      let e := x.bun.addr + BitVec.ofNat 64 (4 * i.toNat)
      (guardTrue g s = true → x.loops.length < 6 → startFault s.cur e s = none → x.bun.next.toNat ≤ e.toNat →
        (∀ f, x.loop = some f → e.toNat < f.stop.toNat) →
        (sreg a s ≠ 0 → exec (.loop g a i) s = .next (setCtl (.loopPush ⟨x.bun.next, e, sreg a s, 0, x.callLev⟩) s)) ∧
        (∀ n, sreg a s = 0 → bundleLen s.cur e.toNat s = .ok n →
          exec (.loop g a i) s = .next (setCtl (.loopSkip (e + BitVec.ofNat 64 n)) s))) ∧
      (∀ f, x.loop = some f → f.stop = x.bun.addr →
        exec .lend s = .next (setCtl (.lend false) s) ∧ exec .lendr s = .next (setCtl (.lend true) s)) ∧
      (∀ f n, guardTrue g s = true → x.loop = some f → bundleLen s.cur f.stop.toNat s = .ok n →
        exec (.lbrk g) s = .next (setCtl (.lbrk (f.stop + BitVec.ofNat 64 n)) s)) ∧
      (guardTrue g s = true → l.toNat ≤ 5 → exec (.lidx g d l) s =
        .next (putS d ((x.loops.map fun e => e.idx).getD l.toNat (BitVec.allOnes 64)) 1 s))) ∧
  (∀ (g : BitVec 3) (s : State),
      ((me s).loop = none → exec .lend s = .next (takeTrap 0x0B 0 s) ∧ exec .lendr s = .next (takeTrap 0x0B 0 s) ∧
        (guardTrue g s = true → exec (.lbrk g) s = .next (takeTrap 0x0B 0 s))) ∧
      (∀ f, (me s).loop = some f → f.stop ≠ (me s).bun.addr →
        exec .lend s = .next (takeTrap 0x0B f.stop s) ∧ exec .lendr s = .next (takeTrap 0x0B f.stop s))) ∧
  (∀ (g : BitVec 3) (a : BitVec 6) (i : BitVec 16) (s : State), guardTrue g s = true →
      let x := me s
      let e := x.bun.addr + BitVec.ofNat 64 (4 * i.toNat)
      ((startFault s.cur e s = none ∨ ∃ v, startFault s.cur e s = some (0x0B, v)) →
        (6 ≤ x.loops.length → exec (.loop g a i) s = .next (takeTrap 0x01 (slotVal s) s)) ∧
        (x.loops.length < 6 → (startFault s.cur e s ≠ none ∨ e.toNat < x.bun.next.toNat ∨
            ∃ f, x.loop = some f ∧ f.stop.toNat ≤ e.toNat) →
          exec (.loop g a i) s = .next (takeTrap 0x0B e s))) ∧
      (∀ c v, startFault s.cur e s = some (c, v) → c ≠ 0x0B → exec (.loop g a i) s = .next (takeTrap c v s)))

/-- O17. What the control registers read (Tables 15.3, 13.7, 6.3): DSTAT REXEC in bits 63 to 32, the standing entries in
bits 14 to 8 and the checkpoints in bits 4 to 0, in either mode, changed by no write; MROW PEND, BUSY, the routine's
index in bits 40 to 32 and ROWS in bits 15 to 0; LDEPTH the loop stack's entries; the others their fields. -/
def Obligations.ControlRegisterValues : Prop :=
  (∀ (q : Nat) (op : CsrOp) (v : Word) (s : State), csrReadable 0x031 .u = true ∧ csrReadable 0x031 .k = true ∧
    (csrWrite q 0x031 op v s).mem = s.mem ∧ (csrWrite q 0x031 op v s).cores = s.cores ∧
    ∀ p, seqAt p (csrWrite q 0x031 op v s) = seqAt p s) ∧
  ∀ (x : Seq) (c : Core),
    bits (csrVal 0x031 x c).toNat 63 32 = x.dom.rexec.toNat ∧ bits (csrVal 0x031 x c).toNat 31 15 = 0 ∧
    bits (csrVal 0x031 x c).toNat 14 8 = x.dom.standing.length % 128 ∧ bits (csrVal 0x031 x c).toNat 7 5 = 0 ∧
    bits (csrVal 0x031 x c).toNat 4 0 = x.dom.ckpts.length % 32 ∧
    (csrVal 0x000 x c).toNat = x.seqid.toNat ∧ (csrVal 0x001 x c).toNat = x.clid.toNat ∧
    (csrVal 0x002 x c).toNat = x.sagid.toNat ∧ csrVal 0x003 x c = x.ltick ∧
    (csrVal 0x010 x c).toNat = x.rmode.toNat ∧ (csrVal 0x011 x c).toNat = x.fflags.toNat ∧
    (csrVal 0x012 x c).toNat = x.vwb.toNat ∧ (csrVal 0x013 x c).toNat = x.rrb.toNat ∧
    (x.loops.length ≤ 6 → (csrVal 0x014 x c).toNat = x.loops.length) ∧
    csrVal 0x020 x c = x.tvec ∧ (csrVal 0x021 x c).getLsbD 63 = x.tpk ∧
    (csrVal 0x021 x c).getLsbD 62 = !x.latches.isEmpty ∧ bits (csrVal 0x021 x c).toNat 61 8 = 0 ∧
    bits (csrVal 0x021 x c).toNat 7 0 = x.tcause.toNat ∧
    csrVal 0x022 x c = x.taddr ∧ csrVal 0x023 x c = x.tval ∧ csrVal 0x024 x c = x.tscr ∧
    csrVal 0x025 x c = x.lvbase ∧ (csrVal 0x030 x c).toNat = x.dbound.toNat ∧ csrVal 0x040 x c = c.bankrole ∧
    (csrVal 0x041 x c).toNat = x.slack.toNat ∧ csrVal 0x042 x c = x.ttbase ∧ csrVal 0x060 x c = c.errcnt ∧
    (csrVal 0x050 x c).getLsbD 63 = x.mrow.pend ∧ (csrVal 0x050 x c).getLsbD 62 = x.mrow.busy ∧
    bits (csrVal 0x050 x c).toNat 61 41 = 0 ∧ bits (csrVal 0x050 x c).toNat 40 32 = x.mrow.idx.toNat ∧
    bits (csrVal 0x050 x c).toNat 31 16 = 0 ∧ bits (csrVal 0x050 x c).toNat 15 0 = x.mrow.rows.toNat

/-- O18. CSRR reads a control register of its mode with latency 1; CYCLE reads the physical cycles since the saggar
started, more of which may have passed than the model counts (log entry 8); a register that commits write reads what
the committed bundles have left, a bundle in the queues having written none of it yet (log entry 4 says how long it may
stay there). CSRW, CSRS and CSRC of a register their mode may write give the new value that W makes of s[a] as it is, S
by setting its bits, C by clearing them; the fields that keep fewer bits keep those of Tables 12.1 and 15.3. A register
marked D in Table 15.2 has it by the control effect of the bundle, before the next one is dispatched, and the commit
writes none of them; another has it at the commit (R270). VWB takes the base of a window that overlaps no other of the
core and no bound ring (R272); at the commit of a write of BANKROLE a bank that gets another role but L1's holds zeros,
and where one leaves the L1, its dirty bytes are at their homes and it is empty (R152). The model's own here: a write
of BANKROLE waits while a copy runs on any channel of the cluster (log entry 16), any write of TCAUSE, and not CSRC
alone, that leaves bit 62 clear discards the latches (log entry 13), VWB beside an idle sibling is checked against that
one's next window (log entry 19). -/
def Obligations.ControlRegisterAccess : Prop :=
  (∀ (g : BitVec 3) (c : BitVec 12) (d : BitVec 6) (s : State), guardTrue g s = true → csrKnown c = true →
      csrReadable c.toNat (me s).mode = true →
      (c.toNat ≠ 0x004 → exec (.csrr g c d) s = .next (putS d (csrVal c.toNat (me s) (myCore s)) 1 s)) ∧
      (c.toNat = 0x004 → ∃ n : Nat, s.phys ≤ n ∧
        exec (.csrr g c d) s = .next (putS d (BitVec.ofNat 64 (n - (sagAt (mySagN s) s).cyc0)) 1
          { s with phys := n, freeCtr := s.freeCtr + 1 }))) ∧
  (∀ (q n i : Nat) (op : CsrOp) (v : Word) (x : Seq) (b : Bun) (c : Core) (s : State),
      (csrAtDispatch i = false → (x.bun.ctl = .csr i op v → csrVal n x.controlled c = csrVal n x c) ∧
        applyCtl (.csr i op v) x = { x with pc := x.bun.next }) ∧
      (b.stores = [] → b.hops = [] → b.publish = [] → b.mcall = none → b.ctl = .csr i op v →
        effectsOf q b s = modSeq q (fun y => { y with
          fflags := y.fflags ||| b.flags, ltick := if y.mode = .u then y.ltick + 1 else y.ltick })
          (if csrAtDispatch i then s else csrWrite q i op v s))) ∧
  (∀ (op : CsrOp) (v : Word) (x : Seq), let o := fun (w : Word) => csrNew op w v
      let y := fun n => applyCtl (.csr n op v) x
      let z := { x with pc := x.bun.next }
      (∀ n ∈ [0x010, 0x012, 0x013, 0x021, 0x022, 0x023, 0x024, 0x030, 0x041], csrAtDispatch n = true) ∧
      y 0x010 = { z with rmode := (o (x.rmode.setWidth 64)).setWidth 2 } ∧
      y 0x012 = { z with vwb := (o (x.vwb.setWidth 64)).setWidth 12 } ∧
      y 0x013 = { z with rrb := (o (x.rrb.setWidth 64)).setWidth 4 } ∧
      (let w := o (tcauseWord x)
       y 0x021 = { z with tpk := w.getLsbD 63, tcause := w.setWidth 8
                          latches := if w.getLsbD 62 then x.latches else [] }) ∧
      y 0x022 = { z with taddr := o x.taddr &&& 0xFFFFFFFFFFFF#64 } ∧ y 0x023 = { z with tval := o x.tval } ∧
      y 0x024 = { z with tscr := o x.tscr } ∧ y 0x030 = { z with dbound := (o (x.dbound.setWidth 64)).setWidth 32 } ∧
      (let n := (o (x.slack.setWidth 64)).toNat % 32
       y 0x041 = { z with slack := if n = 0 ∨ 16 < n then 16#5 else BitVec.ofNat 5 n })) ∧
  ((∀ (g : BitVec 3) (c : BitVec 12) (r : BitVec 6) (s : State), guardTrue g s = true → csrKnown c = true →
      csrWritable c.toNat (me s).mode = true → c.toNat ≠ 0x012 → c.toNat ≠ 0x040 →
      exec (.csrw g c r) s = .next (setCtl (.csr c.toNat .w (sreg r s)) s) ∧
      exec (.csrs g c r) s = .next (setCtl (.csr c.toNat .s (sreg r s)) s) ∧
      exec (.csrc g c r) s = .next (setCtl (.csr c.toNat .c (sreg r s)) s)) ∧
    (∀ (g : BitVec 3) (r : BitVec 6) (op : CsrOp) (i : Instr) (s : State), guardTrue g s = true →
      ((op, i) ∈ [(.w, .csrw g 0x012 r), (.s, .csrs g 0x012 r), (.c, .csrc g 0x012 r)] →
        let v := csrNew op ((me s).vwb.setWidth 64) (sreg r s)
        (vwbOk s.cur v s = true → exec i s = .next (setCtl (.csr 0x012 op (sreg r s)) s)) ∧
        (vwbOk s.cur v s = false → exec i s = .next (takeTrap 0x0C v s))) ∧
      ((op, i) ∈ [(.w, .csrw g 0x040 r), (.s, .csrs g 0x040 r), (.c, .csrc g 0x040 r)] → (me s).mode = .k →
        let v := csrNew op (myCore s).bankrole (sreg r s)
        (rolesOk v = true → copiesRun (myK s) s = false → exec i s = .next (setCtl (.csr 0x040 op (sreg r s)) s)) ∧
        (rolesOk v = true → copiesRun (myK s) s = true → exec i s = .next (setPark .busy s)) ∧
        (rolesOk v = false → exec i s = .next (takeTrap 0x01 (slotVal s) s)))) ∧
    (∀ (q : Nat) (v : Word) (s : State), let w := windowBase (sibling q) s
      (vwbOk q v s = true ↔ v.toNat < 4096 ∧ v.toNat % 64 = 0 ∧ ¬(v.toNat < w + 56 ∧ w < v.toNat + 56) ∧
        ∀ p ∈ (seqAt q s).handles ++ (seqAt (sibling q) s).handles,
          ¬(v.toNat < p.2.base + p.2.len ∧ p.2.base < v.toNat + 56)) ∧
      (rolesOk v = true ↔ ∀ b, b < 32 → bits v.toNat (2 * b + 1) (2 * b) ≠ 3)) ∧
    (∀ (q : Nat) (op : CsrOp) (v : Word) (s : State),
      let o := fun (w : Word) => csrNew op w v
      let y := fun n => seqAt q (csrWrite q n op v s)
      let x := seqAt q s
      csrNew .w x.tscr v = v ∧ csrNew .s x.tscr v = x.tscr ||| v ∧ csrNew .c x.tscr v = x.tscr &&& ~~~v ∧
      (y 0x020).tvec = o x.tvec &&& 0xFFFFFFFFF000#64 ∧ (y 0x042).ttbase = o x.ttbase &&& 0xFFFFFFFFFFC0#64 ∧
      (y 0x025).lvbase = o x.lvbase &&& 0xFFFFFFFFFFF0#64 ∧
      (y 0x011).fflags = (o (x.fflags.setWidth 64)).setWidth 10 ∧
      (x.mode = .k → (coreAt (q / 2) (csrWrite q 0x060 op v s)).errcnt =
        o (coreAt (q / 2) s).errcnt &&& 0xFFFFFFFFFFFF#64) ∧
      (x.mode = .u → csrWrite q 0x060 op v s = s) ∧
      (y 0x003).ltick = x.ltick ∧ (y 0x000).seqid = x.seqid) ∧
    (∀ (q : Nat) (op : CsrOp) (v : Word) (s : State), let k := q / 2
      let c := coreAt k s
      let new := csrNew op c.bankrole v
      let role := fun b => bits new.toNat (2 * b + 1) (2 * b)
      let t := csrWrite q 0x040 op v s
      let d := coreAt k t
      d.bankrole = new ∧ t.seqs = s.seqs ∧
      (∀ a, look 0 a d.sram = if role (a / 65536) ≠ 0 ∧ role (a / 65536) ≠ roleOf c (a / 65536) then 0
        else look 0 a c.sram) ∧
      (∀ pa, clean k pa s → s.upsets = [] → byteAt pa t = byteAt pa s) ∧
      ((∃ b, b < 32 ∧ roleOf c b = 0 ∧ role b ≠ 0) → d.l1 = [] ∧ (s.upsets = [] → ∀ pa l, (pa / 128, l) ∈ c.l1 →
        (∀ p ∈ c.l1, p.1 = pa / 128 → p.2 = l) →
          byteAt pa t = if l.dirty.getLsbD (pa % 128) then l.byte (pa % 128) else byteAt pa s)) ∧
      ((∀ b, b < 32 → roleOf c b = 0 → role b = 0) → d.l1 = c.l1 ∧ t.mem = s.mem)))

/-! ## Scalar arithmetic, predicates and crossings -/

/-- O19. The operations of Tables 4.2 and 4.3 with latency 1: wrapping sums and differences, logic, shifts by the low
six bits of the count, minima and maxima, scaled sums. Immediates: ADDI and MOVW extend the sign, ANDI, ORI, XORI
and TSTI extend zeros; MOVH replaces bits 31 to 16 and extends the sign. -/
def Obligations.ScalarArithmetic : Prop :=
  (∀ (g : BitVec 3) (d a b : BitVec 6) (s : State), guardTrue g s = true →
      let x := sreg a s
      let y := sreg b s
      let n := y.toNat % 64
      let r : Word → Host.Outcome State Fault Refusal := fun v => .next (putS d v 1 s)
      exec (.add g d a b) s = r (x + y) ∧ exec (.sub g d a b) s = r (x - y) ∧
      exec (.and g d a b) s = r (x &&& y) ∧ exec (.or g d a b) s = r (x ||| y) ∧
      exec (.xor g d a b) s = r (x ^^^ y) ∧ exec (.andn g d a b) s = r (x &&& ~~~y) ∧
      exec (.shl g d a b) s = r (x <<< n) ∧ exec (.shr g d a b) s = r (x >>> n) ∧
      exec (.sra g d a b) s = r (x.sshiftRight n) ∧ exec (.rot g d a b) s = r (x.rotateLeft n) ∧
      exec (.min g d a b) s = r (if y.slt x then y else x) ∧ exec (.max g d a b) s = r (if x.slt y then y else x) ∧
      exec (.minu g d a b) s = r (if y < x then y else x) ∧ exec (.maxu g d a b) s = r (if x < y then y else x) ∧
      exec (.sh1add g d a b) s = r (x * 2 + y) ∧ exec (.sh2add g d a b) s = r (x * 4 + y) ∧
      exec (.sh3add g d a b) s = r (x * 8 + y)) ∧
  (∀ (g : BitVec 3) (d a k : BitVec 6) (p : BitVec 4) (i10 : BitVec 10) (i8 : BitVec 8) (i16 : BitVec 16) (s : State),
      guardTrue g s = true →
      let x := sreg a s
      exec (.addi g d a i10) s = .next (putS d (x + i10.signExtend 64) 1 s) ∧
      exec (.andi g d a i8) s = .next (putS d (x &&& i8.setWidth 64) 1 s) ∧
      exec (.ori g d a i8) s = .next (putS d (x ||| i8.setWidth 64) 1 s) ∧
      exec (.xori g d a i8) s = .next (putS d (x ^^^ i8.setWidth 64) 1 s) ∧
      exec (.tsti g p a i8) s = .next (putP p (if x &&& i8.setWidth 64 = 0 then 0 else BitVec.allOnes 256) 1 s) ∧
      exec (.shli g d a k) s = .next (putS d (x <<< k.toNat) 1 s) ∧
      exec (.shri g d a k) s = .next (putS d (x >>> k.toNat) 1 s) ∧
      exec (.srai g d a k) s = .next (putS d (x.sshiftRight k.toNat) 1 s) ∧
      exec (.roti g d a k) s = .next (putS d (x.rotateLeft k.toNat) 1 s) ∧
      exec (.movw g d i16) s = .next (putS d (i16.signExtend 64) 1 s) ∧
      (∃ v : Word, exec (.movh g d i16) s = .next (putS d v 1 s) ∧
        (∀ j, j < 16 → v.getLsbD j = (sreg d s).getLsbD j) ∧ (∀ j, j < 16 → v.getLsbD (16 + j) = i16.getLsbD j) ∧
        (∀ j, 32 ≤ j → j < 64 → v.getLsbD j = i16.getLsbD 15)))

/-- O20. MUL, MULH and MULHU give the low and the high 64 bits of the exact product with latency 3. Division never
faults and sets no flag: the exact quotient toward zero and remainder with the dividend's sign; by zero the quotient
is all ones and the remainder the dividend; −2^63 by −1 gives −2^63 and 0. Interlocked results. -/
def Obligations.ProductsAndDivision : Prop :=
  (∀ (g : BitVec 3) (d a b : BitVec 6) (s : State), guardTrue g s = true →
      let x := sreg a s
      let y := sreg b s
      ∃ lo hi hu : Word,
        exec (.mul g d a b) s = .next (putS d lo 3 s) ∧ exec (.mulh g d a b) s = .next (putS d hi 3 s) ∧
        exec (.mulhu g d a b) s = .next (putS d hu 3 s) ∧
        x.toNat * y.toNat = hu.toNat * 2 ^ 64 + lo.toNat ∧ x.toInt * y.toInt = hi.toInt * 2 ^ 64 + lo.toNat) ∧
  (∀ (g : BitVec 3) (d a b : BitVec 6) (s : State), guardTrue g s = true →
      let x := sreg a s
      let y := sreg b s
      ∃ q r qu ru : Word,
        exec (.div g d a b) s = .next (lockS d q s) ∧ exec (.rem g d a b) s = .next (lockS d r s) ∧
        exec (.divu g d a b) s = .next (lockS d qu s) ∧ exec (.remu g d a b) s = .next (lockS d ru s) ∧
        (y = 0 → q = BitVec.allOnes 64 ∧ r = x ∧ qu = BitVec.allOnes 64 ∧ ru = x) ∧
        (y ≠ 0 → qu.toNat = x.toNat / y.toNat ∧ ru.toNat = x.toNat % y.toNat ∧ r.toInt = x.toInt.tmod y.toInt) ∧
        (y ≠ 0 → ¬(x = 0x8000000000000000#64 ∧ y = BitVec.allOnes 64) → q.toInt = x.toInt.tdiv y.toInt) ∧
        (x = 0x8000000000000000#64 → y = BitVec.allOnes 64 → q = x ∧ r = 0))

/-- O21. The one-operand scalar operations, the guarded choice and the hash of R86: CLZ is the count of zero bits above
the highest set bit, CTZ of those below the lowest, 64 of zero; SEL executes whatever its guard holds. -/
def Obligations.BitOperations : Prop :=
  ∀ (g : BitVec 3) (d a b : BitVec 6) (s : State),
    let x := sreg a s
    (guardTrue g s = true →
      (∃ n : Nat, exec (.clz g d a) s = .next (putS d (BitVec.ofNat 64 n) 1 s) ∧ n ≤ 64 ∧ x.toNat < 2 ^ (64 - n) ∧
        (n < 64 → x.getLsbD (63 - n) = true)) ∧
      (∃ n : Nat, exec (.ctz g d a) s = .next (putS d (BitVec.ofNat 64 n) 1 s) ∧ n ≤ 64 ∧
        (∀ i, i < n → x.getLsbD i = false) ∧ (n < 64 → x.getLsbD n = true)) ∧
      exec (.popc g d a) s =
        .next (putS d (BitVec.ofNat 64 ((List.range 64).filter fun i => x.getLsbD i).length) 1 s) ∧
      (∃ v : Word, exec (.brev g d a) s = .next (putS d v 1 s) ∧ ∀ i, i < 64 → v.getLsbD i = x.getLsbD (63 - i)) ∧
      exec (.rngh g d a b) s = .next (putS d (rngHash x (sreg b s)) 4 s)) ∧
    exec (.sel g d a b) s = .next (putS d (if guardTrue g s then x else sreg b s) 1 s) ∧
    destsOf (.sel g d a b) = [(0, d.toNat)] ∧ exec (.sel 0 d a b) s = .next (putS d x 1 s)

/-- O22. SCMP and SCMPI set every bit of the predicate to the outcome of the condition on s[a] and s[b], or the
sign-extended immediate: EQ, NE, LT, LE signed, LTU, LEU. -/
def Obligations.ScalarCompares : Prop :=
  ∀ (g : BitVec 3) (p : BitVec 4) (a b : BitVec 6) (i : BitVec 5) (c : BitVec 4) (cl : BitVec 2) (ch : BitVec 1)
    (s : State), guardTrue g s = true →
    let out := fun (n : Nat) (x y : Word) => match n with
      | 0 => decide (x = y)
      | 1 => decide (x ≠ y)
      | 2 => x.slt y
      | 3 => x.sle y
      | 4 => x.ult y
      | _ => x.ule y
    let all := fun (o : Bool) => if o then BitVec.allOnes 256 else 0#256
    (c.toNat ≤ 5 → exec (.scmp g p a b c) s = .next (putP p (all (out c.toNat (sreg a s) (sreg b s))) 1 s)) ∧
    (ch.toNat * 4 + cl.toNat ≤ 5 → exec (.scmpi g cl p a ch i) s =
      .next (putP p (all (out (ch.toNat * 4 + cl.toNat) (sreg a s) (i.signExtend 64))) 1 s))

/-- O23. Predicate logic; PSETW sets the bits of the first lanes; PCNT counts the lanes of a width whose predicate bit
is set; PFIRST gives the lowest, or the lane count when none is set. Crossings between scalar and wide registers
have latency 4. -/
def Obligations.PredicatesAndCrossings : Prop :=
  (∀ (g : BitVec 3) (d a b : BitVec 4) (w : BitVec 2) (n : BitVec 6) (s : State), guardTrue g s = true →
      exec (.pand g d a b) s = .next (putP d (preg a s &&& preg b s) 1 s) ∧
      exec (.por g d a b) s = .next (putP d (preg a s ||| preg b s) 1 s) ∧
      exec (.pxor g d a b) s = .next (putP d (preg a s ^^^ preg b s) 1 s) ∧
      exec (.pandn g d a b) s = .next (putP d (preg a s &&& ~~~preg b s) 1 s) ∧
      exec (.pnot g d a) s = .next (putP d (~~~preg a s) 1 s) ∧
      (∃ v : PWord, exec (.psetw g d w n) s = .next (putP d v 1 s) ∧
        ∀ j, j < 256 → v.getLsbD j = decide (j / 2 ^ w.toNat < (sreg n s).toNat)) ∧
      exec (.pcnt g n a w) s = .next (putS n (BitVec.ofNat 64
        ((List.range (256 / 2 ^ w.toNat)).countP fun i => (preg a s).getLsbD (i * 2 ^ w.toNat))) 1 s) ∧
      (∃ f : Nat, exec (.pfirst g n a w) s = .next (putS n (BitVec.ofNat 64 f) 1 s) ∧ f ≤ 256 / 2 ^ w.toNat ∧
        (∀ i, i < f → (preg a s).getLsbD (i * 2 ^ w.toNat) = false) ∧
        (f < 256 / 2 ^ w.toNat → (preg a s).getLsbD (f * 2 ^ w.toNat) = true))) ∧
  (∀ (g m : BitVec 3) (d a b : BitVec 6) (p : BitVec 4) (s : State), guardTrue g s = true →
      (∀ v t, srcOf a s = some (v, t) → exec (.xvs g d a b) s =
        .next (putS d ((v >>> (64 * ((sreg b s).toNat % 32))).setWidth 64) 4 t)) ∧
      (∀ e t, destOf d s = some (e, t) → exec (.xsvl g d a b) s =
        .next (issue (.vlane e ((sreg b s).toNat % 32)) ((sreg a s).setWidth 2048) 4 false t)) ∧
      (p ≠ 0 → exec (.xsp g p a b) s =
        .next (issue (.pquarter p.toNat ((sreg b s).toNat % 4)) ((sreg a s).setWidth 2048) 4 false s)) ∧
      exec (.xsp g 0 a b) s = .next s ∧
      exec (.xps g d p b) s = .next (putS d ((preg p s >>> (64 * ((sreg b s).toNat % 4))).setWidth 64) 4 s) ∧
      exec (.xmp g m a) s = .next (issue (.m m.toNat) ((sreg a s).setWidth 2048) 4 false s) ∧
      exec (.xpm g d m) s = .next (putS d ((me s).rm m.toNat) 4 s))

/-- O24. A slot's result changes nothing but the list of writes on their way: no register, no predicate, no other
sequencer, core, saggar or byte of memory; s0 and p0 discard what is written to them. -/
def Obligations.ResultFrame : Prop :=
  ∀ (d : BitVec 6) (p : BitVec 4) (e n lat : Nat) (v : Word) (b : PWord) (w : VWord) (s t : State),
    putS 0 v lat s = s ∧ putP 0 b lat s = s ∧ lockS 0 v s = s ∧ lockP 0 b s = s ∧
    (t = putS d v lat s ∨ t = lockS d v s ∨ t = putP p b lat s ∨ t = lockP p b s ∨ t = putV e w lat s ∨
      t = lockV e w s ∨ t = issue (.vlane e n) w lat false s ∨ t = issue (.pquarter e n) w lat false s ∨
      t = issue (.m n) w lat false s →
      t.mem = s.mem ∧ t.cores = s.cores ∧ t.sags = s.sags ∧ t.tasks = s.tasks ∧ t.cur = s.cur ∧
      (∀ q, q ≠ s.cur → seqAt q t = seqAt q s) ∧
      (∃ l, me t = { me s with inflight := (me s).inflight ++ l } ∧ l.length ≤ 1))

/-- O25. A scalar result issued with latency L is in its register at the L-th next position and not before, if nothing
else writes that register (R226); s0 and p0 read as they are hard-wired. -/
def Obligations.ResultsLand : Prop :=
  (∀ (x : Seq), x.rs 0 = 0 ∧ x.rp 0 = BitVec.allOnes 256) ∧
  (∀ (q n : Nat) (v : Word) (lat : Nat) (lock : Bool) (s : State), n ≠ 0 → (seqAt q s).latches = [] →
    (seqAt q s).inflight = [⟨.s n, v.setWidth 2048, lat, lock⟩] →
    (lat = 1 → (seqAt q (landDue q s)).rs n = v ∧ (seqAt q (landDue q s)).inflight = []) ∧
    (1 < lat → (seqAt q (landDue q s)).rs n = (seqAt q s).rs n ∧
      (seqAt q (landDue q s)).inflight = [⟨.s n, v.setWidth 2048, lat - 1, lock⟩]) ∧
    (∀ m, m ≠ n → (seqAt q (landDue q s)).rs m = (seqAt q s).rs m) ∧ (landDue q s).mem = s.mem)

/-! ## Loads, stores, order and atomics -/

/-- O26. A load completes where every byte of it can be read: LDS extends zeros or the sign to 64 bits, VLD takes 256
aligned bytes, VLDS and VGATH take lanes at their addresses; interlocked results. A store completes where every byte
of it can be written: its bytes are held for the commit of its bundle. -/
def Obligations.LoadsAndStoresRun : Prop :=
  (∀ (g : BitVec 3) (d a b : BitVec 6) (z : BitVec 2) (x : BitVec 1) (i7 : BitVec 7) (i10 : BitVec 10) (s : State),
      guardTrue g s = true →
      let n := 2 ^ z.toNat
      let as := (sreg a s + i7.signExtend 64 * BitVec.ofNat 64 n).toNat
      let av := (sreg a s + i10.signExtend 64 * 256).toNat
      (∀ bs t, ¬(z = 3 ∧ x = 1) → load as n s = .ok (bs, t) → ∃ v : Word, exec (.lds g d a z x i7) s = .next (lockS d v t) ∧
        (x = 0 → v.toNat = leNat bs) ∧ (x = 1 → v.toInt = signed (8 * n) (leNat bs))) ∧
      (∀ e t bs u, av % 256 = 0 → destOf d s = some (e, t) → load av 256 t = .ok (bs, u) →
        exec (.vld g d a i10) s = .next (lockV e (BitVec.ofNat 2048 (leNat bs)) u)) ∧
      (∀ w l e t vs u, strided a b s = some (w, l) → destOf d s = some (e, t) → loadLanes w l t = .ok (vs, u) →
        exec (.vlds g d a b) s = .next (lockV e (ofLanes w vs) u)) ∧
      (∀ v t e u vs r, srcOf b s = some (v, t) → destOf d t = some (e, u) → loadLanes 4 (indexed a v u) u = .ok (vs, r) →
        exec (.vgath g d a b) s = .next (lockV e (ofLanes 4 vs) r)) ∧
      exec (.pref g a b) s = .next s) ∧
  (∀ (g : BitVec 3) (d a b : BitVec 6) (z : BitVec 2) (i7 : BitVec 7) (i10 : BitVec 10) (s : State),
      guardTrue g s = true →
      let n := 2 ^ z.toNat
      let as := (sreg a s + i7.signExtend 64 * BitVec.ofNat 64 n).toNat
      let av := (sreg a s + i10.signExtend 64 * 256).toNat
      (∀ t, store as (leBytes n (sreg d s).toNat) (decide (2 ≤ z.toNat)) s = .ok t →
        exec (.sts g d a z i7) s = .next t) ∧
      (∀ v t u, av % 256 = 0 → srcOf d s = some (v, t) → store av (leBytes 256 v.toNat) false t = .ok u →
        exec (.vst g d a i10) s = .next u) ∧
      (∀ w l v t u, strided a b s = some (w, l) → srcOf d s = some (v, t) →
        storeLanes w (l.zip (lanes w (256 / w) v)) t = .ok u → exec (.vsts g d a b) s = .next u) ∧
      (∀ v t x u r, srcOf b s = some (v, t) → srcOf d t = some (x, u) →
        storeLanes 4 ((indexed a v u).zip (lanes 4 64 x)) u = .ok r → exec (.vscat g d a b) s = .next r) ∧
      (∀ (ad : Nat) (bs : List Byte) (ap : Bool) (ps : List (Place × Nat)) (ms : List Nat),
        placesOf ad bs.length false true ap s = .ok (ps, ms) →
        ∃ t, store ad bs ap s = .ok t ∧ (me t).bun.stores = (me s).bun.stores ++ pstores (me s).bun.pos ps bs))

/-- O27. A load changes no register and nothing of its bundle but the places it has read and the leaves it has marked,
and, where no memory error stands, no byte of memory but A and D bits of those leaves and bytes its own core held
dirty, which it may send home; a store held for the commit changes none but those of its leaves. That the reads of the
tables themselves mark no leaf is log entry 14. -/
def Obligations.AccessFrame : Prop :=
  ∀ (a n : Nat) (ap : Bool) (b : List Byte) (s t : State),
    (∀ bs ps ms, placesOf a n true false false s = .ok (ps, ms) → load a n s = .ok (bs, t) →
      me t = { me s with bun := { (me s).bun with
        seen := (me s).bun.seen ++ ms.map fun a => (a, false), reads := (me s).bun.reads ++ ps } } ∧
      (∀ q, q ≠ s.cur → seqAt q t = seqAt q s) ∧ t.sags = s.sags ∧ t.tasks = s.tasks ∧
      (s.upsets = [] → ∀ pa, ¬inLeaves pa ms → clean (myK s) pa s → byteAt pa t = byteAt pa s)) ∧
    (∀ ps ms, placesOf a b.length false true ap s = .ok (ps, ms) → store a b ap s = .ok t →
      t.cores = s.cores ∧ t.sags = s.sags ∧ (me t).s = (me s).s ∧ (me t).p = (me s).p ∧
      (me t).inflight = (me s).inflight ∧ ∀ pa, ¬inLeaves pa ms → byteAt pa t = byteAt pa s)

/-- O28. A store's commit writes exactly its bytes: a load of the same place by the same core returns them, and, where no
memory error stands, every other byte of memory is as before, but for bytes the core held dirty; a place in a core's
local SRAM changes its own bytes only. Where no memory error stands, the commit is that write; what an error does is log
entry 34. -/
def Obligations.StoreCommits : Prop :=
  ∀ (k : Nat) (p : Place) (b : List Byte) (s : State),
    let t := writePlace k p b s
    (∀ pa kd, p = .phys pa kd → (readPlace k p b.length t).1 = b ∧
      (s.upsets = [] → ∀ x, (x < pa ∨ pa + b.length ≤ x) → clean k x s → byteAt x t = byteAt x s) ∧
      (cachedAt k kd s = false → readCells t.mem pa b.length = b)) ∧
    (∀ c off, p = .sram c off → (readPlace k p b.length t).1 = b ∧ t.mem = s.mem ∧
      (∀ x, (x < off ∨ off + b.length ≤ x) → look 0 x (coreAt c t).sram = look 0 x (coreAt c s).sram)) ∧
    t.seqs = s.seqs ∧ t.sags = s.sags ∧ (s.upsets = [] → storePlace k p b s = t)

/-- O29. A vector access off its 256 bytes, an atomic off its size, a future off 16 bytes and a handle record off 32
bytes trap with 0x0B and the address; a stride word with bits 61 to 32 set traps with 0x0C; a load or a store that
cannot be translated traps with 0x08 or 0x09 and the lowest failing address. A read that meets an uncorrectable error
at its home traps with 0x18 under the stop policy; else its lines are zeros and are counted, as corrected ones are,
and logged (R178, R268; when an error is met is log entry 34). -/
def Obligations.AccessFaults : Prop :=
  ∀ (g h : BitVec 3) (o c : BitVec 2) (z : BitVec 2) (z1 x : BitVec 1) (d a b : BitVec 6) (i7 : BitVec 7)
    (i10 : BitVec 10) (s : State), guardTrue g s = true →
    let av := (sreg a s + i10.signExtend 64 * 256).toNat
    let as := (sreg a s + i7.signExtend 64 * BitVec.ofNat 64 (2 ^ z.toNat)).toNat
    let mis := Host.Outcome.next (takeTrap 0x0B (sreg a s) s)
    (av % 256 ≠ 0 → exec (.vld g d a i10) s = .next (takeTrap 0x0B (BitVec.ofNat 64 av) s) ∧
      exec (.vst g d a i10) s = .next (takeTrap 0x0B (BitVec.ofNat 64 av) s)) ∧
    ((sreg a s).toNat % (4 * (z1.toNat + 1)) ≠ 0 → exec (.atadd o c z1 d a b) s = mis ∧ exec (.atand o c z1 d a b) s = mis ∧
      exec (.ator o c z1 d a b) s = mis ∧ exec (.atxor o c z1 d a b) s = mis ∧ exec (.atmin o c z1 d a b) s = mis ∧
      exec (.atmax o c z1 d a b) s = mis ∧ exec (.atminu o c z1 d a b) s = mis ∧ exec (.atmaxu o c z1 d a b) s = mis ∧
      exec (.atswp o c z1 d a b) s = mis ∧ exec (.atcas o c z1 d a b) s = mis ∧ exec (.atld o c z1 d a) s = mis ∧
      exec (.atst o c z1 a b) s = mis) ∧
    ((sreg a s).toNat % 16 ≠ 0 → ((∀ pb w, (me s).wait ≠ .future pb (some w)) → exec (.fwait g d a) s = mis) ∧
      exec (.ffill g a b) s = mis ∧ exec (.fpoll g d a) s = mis) ∧
    ((sreg a s).toNat % 32 ≠ 0 → exec (.hbind g h a) s = mis) ∧
    (bits (sreg b s).toNat 61 32 ≠ 0 → exec (.vlds g d a b) s = .next (takeTrap 0x0C (sreg b s) s) ∧
      exec (.vsts g d a b) s = .next (takeTrap 0x0C (sreg b s) s)) ∧
    (∀ cs v, ¬(z = 3 ∧ x = 1) → load as (2 ^ z.toNat) s = .error (cs, v) →
      exec (.lds g d a z x i7) s = .next (takeTrap cs (BitVec.ofNat 64 v) s)) ∧
    (∀ (ad n v : Nat), (placesOf ad n true false false s = .error v → load ad n s = .error (0x08, v)) ∧
      (∀ ps ms, placesOf ad n true false false s = .ok (ps, ms) → machineCheck s.cur (cut ad n) ps s = some v →
        load ad n s = .error (0x18, v))) ∧
    (∀ (k n : Nat) (p : Place),
      let t := heal (some k) p n s
      let bad := upsetLines true (some k) p n s
      let weak := upsetLines false (some k) p n s
      (∀ ln ∈ bad, ln < 2 ^ 45 → ∀ j, j < 128 → byteAt (128 * ln + j) t = 0) ∧ t.seqs = s.seqs ∧
      t.errLog = s.errLog ++ bad.map (fun ln => (some k, ln)) ∧
      bits (coreAt k t).errcnt.toNat 31 16 = min 0xFFFF (bits (coreAt k s).errcnt.toNat 31 16 + bad.length) ∧
      bits (coreAt k t).errcnt.toNat 15 0 = min 0xFFFF (bits (coreAt k s).errcnt.toNat 15 0 + weak.length)) ∧
    (∀ v, store as (leBytes (2 ^ z.toNat) (sreg d s).toNat) (decide (2 ≤ z.toNat)) s = .error v →
      exec (.sts g d a z i7) s = .next (takeTrap 0x09 (BitVec.ofNat 64 v) s))

/-- O30. A release at cluster scope or wider sends every dirty byte of its core home and leaves none dirty, and a line it
does not hold whole leaves the core; an acquire drops every clean byte and keeps the dirty ones; at core scope neither
does anything; no register changes, and no other core where no memory error stands. Where a line is listed once, and no
memory error stands, each of its dirty bytes is at its home afterwards, and every other byte there is as before; what an
error does is log entry 34. -/
def Obligations.ReleaseAndAcquire : Prop :=
  ∀ (k sc : Nat) (s : State),
    (release k 0 s = s ∧ acquire k 0 s = s) ∧
    (1 ≤ sc → (∀ pa, clean k pa (release k sc s)) ∧
      (∀ p ∈ (coreAt k (release k sc s)).l1, p.2.have_ = BitVec.allOnes 128 ∧ p.2.dirty = 0) ∧
      (s.upsets = [] → ∀ pa l, (pa / 128, l) ∈ (coreAt k s).l1 → (∀ p ∈ (coreAt k s).l1, p.1 = pa / 128 → p.2 = l) →
        byteAt pa (release k sc s) = if l.dirty.getLsbD (pa % 128) then l.byte (pa % 128) else byteAt pa s) ∧
      (s.upsets = [] → ∀ pa, clean k pa s → byteAt pa (release k sc s) = byteAt pa s)) ∧
    (1 ≤ sc → (acquire k sc s).mem = s.mem ∧
      (∀ p ∈ (coreAt k (acquire k sc s)).l1, p.2.have_ = p.2.dirty)) ∧
    (∀ j, j ≠ k → (s.upsets = [] → coreAt j (release k sc s) = coreAt j s) ∧ coreAt j (acquire k sc s) = coreAt j s) ∧
    (release k sc s).seqs = s.seqs ∧ (acquire k sc s).seqs = s.seqs

/-- O31. An atomic whose address is aligned and can be read and written completes: it writes the operation of the old
value and s[b], both of its size, at the home, and gives the old value; ATCAS writes where the old value is s[d],
ATLD does not write, ATST gives no result. -/
def Obligations.AtomicsRun : Prop :=
  ∀ (o c : BitVec 2) (z : BitVec 1) (d a b : BitVec 6) (p : Place) (ms : List Nat) (s : State),
    let n := 4 * (z.toNat + 1)
    let m := 2 ^ (8 * n)
    let y := (sreg b s).toNat % m
    let sg := signed (8 * n)
    let at_ : Option (BitVec 6) → (Nat → Option Nat) → Host.Outcome State Fault Refusal :=
      fun d f => .next (atomicAt o c n d f p ms (walked (sreg a s).toNat n s))
    (atomicReady o z a false p ms s →
      exec (.atadd o c z d a b) s = at_ (some d) (fun x => some ((x + y) % m)) ∧
      exec (.atand o c z d a b) s = at_ (some d) (fun x => some ((x &&& y) % m)) ∧
      exec (.ator o c z d a b) s = at_ (some d) (fun x => some ((x ||| y) % m)) ∧
      exec (.atxor o c z d a b) s = at_ (some d) (fun x => some ((x ^^^ y) % m)) ∧
      exec (.atmin o c z d a b) s = at_ (some d) (fun x => some ((if sg x ≤ sg y then x else y) % m)) ∧
      exec (.atmax o c z d a b) s = at_ (some d) (fun x => some ((if sg y ≤ sg x then x else y) % m)) ∧
      exec (.atminu o c z d a b) s = at_ (some d) (fun x => some (min x y % m)) ∧
      exec (.atmaxu o c z d a b) s = at_ (some d) (fun x => some (max x y % m)) ∧
      exec (.atswp o c z d a b) s = at_ (some d) (fun _ => some (y % m)) ∧
      exec (.atcas o c z d a b) s = at_ (some d) (fun x => if x = (sreg d s).toNat % m then some y else none)) ∧
    (atomicReady o z a true p ms s →
      exec (.atld o c z d a) s = at_ (some d) (fun _ => none) ∧
      exec (.atst o c z a b) s = at_ none (fun _ => some y))

/-- O32. An atomic's home step: the value written is at the home, the old value is on its way to the destination, and
no other byte of memory changes but A and D bits of its leaves and bytes its core held dirty, where no memory error
stands. Where it writes, the stores of earlier slots of its bundle leave nothing in its bytes (R29), and what these
held is kept for the slots whose effects come at the commit. An order that releases puts a release at the scope before
that step, one that acquires an acquire after it (R189). That the reads of the tables themselves mark no leaf is log
entry 14. -/
def Obligations.AtomicEffect : Prop :=
  (∀ (o c : BitVec 2) (n : Nat) (d : Option (BitVec 6)) (new : Nat → Option Nat) (p : Place) (ms : List Nat) (s : State),
    let r := if o.getLsbD 1 then release (myK s) c.toNat s else s
    let u := atomicAt 0 c n d new p ms r
    atomicAt o c n d new p ms s = if o.getLsbD 0 then acquire (myK s) c.toNat u else u) ∧
  ∀ (o c : BitVec 2) (n : Nat) (d : BitVec 6) (new : Nat → Option Nat) (pa : Nat) (kd : PKind) (ms : List Nat)
    (s : State), (∀ x v, new x = some v → v < 2 ^ (8 * n)) → s.upsets = [] →
    let t := atomicAt o c n (some d) new (.phys pa kd) ms s
    ∃ old, old < 2 ^ (8 * n) ∧
      (∀ v, new old = some v → leNat (readCells t.mem pa n) = v) ∧
      (new old = none → leNat (readCells t.mem pa n) = old) ∧
      ((∀ i, i < n → ¬inLeaves (pa + i) ms ∧ clean (myK s) (pa + i) s) → old = leNat (readCells s.mem pa n)) ∧
      (new old = none → me t = me (lockS d (BitVec.ofNat 64 old) s)) ∧
      (new old ≠ none → me t = { me (lockS d (BitVec.ofNat 64 old) s) with bun := { (me s).bun with
        stores := ((me s).bun.stores.map fun u =>
          if u.pos < (me s).bun.pos then u.minus (.phys pa kd) n else [u]).flatten
        undo := ⟨.phys pa kd, leBytes n old, (me s).bun.pos⟩ :: (me s).bun.undo } }) ∧
      (∀ u : PStore, ∀ x ∈ u.minus (.phys pa kd) n, ∀ b j, x.place = .phys b j → b + x.bytes.length ≤ pa ∨ pa + n ≤ b) ∧
      (∀ x, (x < pa ∨ pa + n ≤ x) → ¬inLeaves x ms → clean (myK s) x s →
        byteAt x t = byteAt x s)

/-- O33. Stream slots on a bound handle bind, move on, wait for entries or for room, and read; an unbound handle traps
with 0x0C. TWAIT goes on once the copy is complete, with an acquire at the SCOPE of each copy completed up to it, and
else waits; TSTAT and TWPTR read a channel; PUBLISH waits for the sequencer's whole matrix call (log entry 28), and names
the leaf of each page of its object, all 16 of a 64 KiB page's; at its bundle's commit, after a release at pa, the bit of
the page's size flips in each named leaf's word and nowhere else, in memory and in the tables that copies work under, so
that front and shadow change places (R173); a channel above 15 traps with 0x0C. -/
def Obligations.StreamsAndTransfersRun : Prop :=
  (∀ (g h : BitVec 3) (d a : BitVec 6) (s : State), guardTrue g s = true →
      let x := (sreg a s).toNat
      (∀ bs t hd, x % 32 = 0 → load x 32 s = .ok (bs, t) → handleFrom x bs = some hd →
        ringFree s.cur h.toNat hd t = true →
        exec (.hbind g h a) s = .next (addHop (.bind h.toNat hd) t)) ∧
      (∀ hd, find h.toNat (me s).handles = some hd →
        (∀ n off, x = n * 65536 + off → n < 512 → off < 512 → n ≤ hd.len → off < hd.len → (off = 0 ∨ hd.ring = true) →
          (n ≤ hd.filled → exec (.hadv g h a) s = .next (addHop (.adv h.toNat n off) s)) ∧
          (hd.filled < n → exec (.hadv g h a) s = .next (setPark .retry s))) ∧
        (x ≤ hd.len → x ≤ hd.filled → exec (.hwait g h a) s = .next s) ∧
        (x ≤ hd.len → hd.filled < x → exec (.hwait g h a) s = .next (setPark .retry s)) ∧
        (x ≤ hd.len → x ≤ hd.len - hd.filled → exec (.hprod g h a) s = .next s) ∧
        (x ≤ hd.len → hd.len - hd.filled < x → exec (.hprod g h a) s = .next (setPark .retry s)) ∧
        exec (.hstat g d h) s = .next (lockS d (BitVec.ofNat 64 hd.word) s)) ∧
      (find h.toNat (me s).handles = none →
        exec (.hstat g d h) s = .next (lockS d 0 s) ∧
        exec (.hadv g h a) s = .next (takeTrap 0x0C (BitVec.ofNat 64 (56 + h.toNat)) s) ∧
        exec (.hwait g h a) s = .next (takeTrap 0x0C (BitVec.ofNat 64 (56 + h.toNat)) s) ∧
        exec (.hprod g h a) s = .next (takeTrap 0x0C (BitVec.ofNat 64 (56 + h.toNat)) s)) ∧
      exec (.hunbind g h) s = .next (addHop (.unbind h.toNat) s)) ∧
  (∀ (g : BitVec 3) (d a b : BitVec 6) (s : State), guardTrue g s = true →
      let ch := look Chan.init (sreg a s).toNat (myCore s).chans
      ((sreg a s).toNat ≤ 15 →
        ((ch.done - (sreg b s).setWidth 32).toNat < 2 ^ 31 → exec (.twait g a b) s =
          .next ((ch.scopes.filter fun p => ((sreg b s).setWidth 32 - p.1).toNat < 2 ^ 31).foldl
            (fun s p => acquire (myK s) p.2 s) s)) ∧
        (2 ^ 31 ≤ (ch.done - (sreg b s).setWidth 32).toNat → exec (.twait g a b) s = .next (setPark .retry s)) ∧
        exec (.tstat g d a) s = .next (lockS d (ch.done.setWidth 64) s) ∧
        (ch.done = ch.last →
          exec (.twptr g d a) s = .next (lockS d (BitVec.ofNat 64 (ch.done.toNat * 2 ^ 32 + 0xFFFFFFFF)) s)) ∧
        (∀ r, ch.done ≠ ch.last → ch.run = some r → exec (.twptr g d a) s = .next (acquire (myK s) (tmplScope r.tmpl)
          (lockS d (BitVec.ofNat 64 ((ch.done + 1).toNat * 2 ^ 32 + r.given % 2 ^ 32)) s))) ∧
        (∀ r : CRun, r.given = if r.tmpl.getLsbD 461 = true ∧ r.passed = false then 0 else r.pos) ∧
        (ch.done ≠ ch.last → ch.run = none →
          exec (.twptr g d a) s = .next (lockS d (BitVec.ofNat 64 ((ch.done + 1).toNat * 2 ^ 32)) s))) ∧
      (15 < (sreg a s).toNat → exec (.twait g a b) s = .next (takeTrap 0x0C (sreg a s) s) ∧
        exec (.tstat g d a) s = .next (takeTrap 0x0C (sreg a s) s) ∧
        exec (.twptr g d a) s = .next (takeTrap 0x0C (sreg a s) s)) ∧
      (∀ l, pairFlips s ((sreg a s).toNat / 2 ^ 48 + 1) ((sreg a s).toNat % 2 ^ 48) none = .ok l →
        ((me s).mrow.busy = true → exec (.publish g a) s = .next (setPark .busy s)) ∧
        ((me s).mrow.busy = false → exec (.publish g a) s = .next (modBun (fun x => { x with publish := x.publish ++ l }) s)))) ∧
  (∀ (n va : Nat) (sz : Option Nat) (l : List (Nat × Nat)) (s : State), pairFlips s n va sz = .ok l →
    ∃ (z : Nat) (ea : Nat → Nat), (sz = none ∨ sz = some z) ∧
      (∀ i, i < n → pairLeaf (va + i * 2 ^ z) s = some (ea i, z)) ∧
      l = ((List.range n).map fun i => if z = 16 then (List.range 16).map fun j => (ea i - ea i % 128 + 8 * j, z)
        else [(ea i, z)]).flatten) ∧
  (∀ (q : Nat) (b : Bun) (l : List (Nat × Nat)) (s : State),
    (b.stores = [] → b.hops = [] → b.mcall = none → (∀ i op v, b.ctl ≠ .csr i op v) →
      effectsOf q b s = modSeq q (fun y => { y with
        fflags := y.fflags ||| b.flags, ltick := if y.mode = .u then y.ltick + 1 else y.ltick })
        (publishAll q b.publish s)) ∧
    (l ≠ [] → let r := release (q / 2) 2 s
      publishAll q l s =
        mapCopies (fun c => { c with tmem := flipIn l c.tmem }) { r with mem := flipIn l r.mem }) ∧
    ((∀ p ∈ l, p.1 % 8 = 0 ∧ p.2 < 64) → (l.map (·.1)).Nodup → ∀ m,
      (∀ p ∈ l, word8 (flipIn l m) p.1 = word8 m p.1 ^^^ 2 ^ p.2) ∧
      ∀ x, (∀ p ∈ l, x < p.1 ∨ p.1 + 8 ≤ x) → look 0 x (flipIn l m) = look 0 x m))

/-! ## Vector slots -/

/-- O34. Every slot that computes one vector completes where its sources can be read and its destination written: one
write, of the destination's entry or one lane of it, is on its way, flags are raised, and nothing else changes. A
floating-point lane is the rounding, under RMODE, of the exact result on the lanes' exact values; minima and maxima,
magnitudes, negations and floors are exact; VFRAC stays below 1. An operand that names an unbound handle, and a
destination that names a feeding one, trap with 0x0C and the handle's code; a handle with no entry to read, or no room
for the result, makes the bundle wait (R176); the operands are looked at in their order, the destination last, which is
the model's choice (log entry 27). -/
def Obligations.VectorSlotsRun : Prop :=
  (∀ (i : Instr) (g : BitVec 3) (srcs : List (BitVec 6)) (d : BitVec 6) (xs : List VWord) (e : Nat) (s t u : State),
    vectorForm i = some (g, srcs, d) → wellFormed i = true → guardTrue g s = true →
    srcsOf srcs s = some (xs, t) → destOf d t = some (e, u) →
    ∃ (ds : Dest) (v : VWord) (lat : Nat) (f : Flags), entryOf ds = some e ∧ 1 ≤ lat ∧ lat ≤ 8 ∧
      exec i s = .next (issue ds v lat false (raise f u))) ∧
  (∀ (i : Instr) (g : BitVec 3) (l r : List (BitVec 6)) (v : BitVec 6) (xs : List VWord) (h : Nat) (s t : State),
    vectorSources i = some (g, l ++ v :: r) → wellFormed i = true → guardTrue g s = true →
    srcsOf l s = some (xs, t) → handleOf v = some h →
    (find h (me t).handles = none → exec i s = .next (takeTrap 0x0C (BitVec.ofNat 64 (56 + h)) s)) ∧
    (∀ b, find h (me t).handles = some b →
      (b.ring = true ∧ b.filled ≤ b.off ∨ b.ring = false ∧ b.filled = 0) → exec i s = .next (setPark .retry s))) ∧
  (∀ (i : Instr) (g : BitVec 3) (srcs : List (BitVec 6)) (d : BitVec 6) (xs : List VWord) (h : Nat) (s t : State),
    vectorForm i = some (g, srcs, d) → wellFormed i = true → guardTrue g s = true →
    srcsOf srcs s = some (xs, t) → handleOf d = some h →
    (find h (me t).handles = none → exec i s = .next (takeTrap 0x0C (BitVec.ofNat 64 (56 + h)) s)) ∧
    (∀ b, find h (me t).handles = some b →
      (b.feed = true → exec i s = .next (takeTrap 0x0C (BitVec.ofNat 64 (56 + h)) s)) ∧
      (b.feed = false → b.len ≤ b.filled → exec i s = .next (setPark .busy s)))) ∧
  (∀ (g : BitVec 3) (d a b : BitVec 6) (f : BitVec 2) (i o : BitVec 1) (x y z : VWord) (e : Nat) (s t u q r : State),
    f ≠ 3 → guardTrue g s = true → srcOf a s = some (x, t) →
    let F := vfmt f
    let M := (me s).rmode.toNat
    let X := fpLane F i x
    let Y := fpLane F i y
    let Z := fpLane F i z
    let rnd := fun (n : Machine.Num) => (F.round M (o == 1) false n).1
    let same := fun (n : Machine.Num) => (F.round 0 (o == 1) false n).1
    let whole := fun (n : Machine.Num) => (F.round 0 false false n).1
    let one := F.bias * 2 ^ F.mb
    let gives : Instr → Nat → State → (Nat → Nat) → Prop := fun j lat w val => ∃ (v : VWord) (fl : Flags),
      exec j s = .next (putV e v lat (raise fl w)) ∧
      ∀ k, k < 256 / F.bytes → laneOf v F.bytes k = val k % 2 ^ (8 * F.bytes)
    (destOf d t = some (e, r) →
      gives (.vrcp g d a f i o) 8 r (fun k => rnd (X k).rcp.1) ∧
      gives (.vrsq g d a f i o) 8 r (fun k => rnd (X k).rsq.1) ∧
      gives (.vsqrt g d a f i o) 8 r (fun k => rnd (X k).sqrt.1) ∧
      gives (.vexp2 g d a f i o) 8 r (fun k => rnd (X k).exp2.1) ∧
      gives (.vlog2 g d a f i o) 8 r (fun k => rnd (X k).log2.1) ∧
      gives (.vabsf g d a f i o) 8 r (fun k => whole (X k).abs) ∧
      gives (.vnegf g d a f i o) 8 r (fun k => whole (X k).neg) ∧
      gives (.vfloor g d a f i o) 8 r (fun k => same (X k).floor) ∧
      gives (.vfrac g d a f i o) 8 r (fun k => match X k with
        | .fin n m ex =>
          let y := rnd ((Num.fin n m ex).add 0 (Num.fin n m ex).floor.neg).1
          if y = one then one - 1 else y
        | _ => rnd .nan)) ∧
    (srcOf b t = some (y, u) → destOf d u = some (e, r) →
      gives (.vadd g d a b f i o) 3 r (fun k => rnd ((X k).add M (Y k)).1) ∧
      gives (.vsub g d a b f i o) 3 r (fun k => rnd ((X k).add M (Y k).neg).1) ∧
      gives (.vmul g d a b f i o) 5 r (fun k => rnd ((X k).mul (Y k)).1) ∧
      gives (.vminf g d a b f i o) 3 r (fun k => same ((X k).minF (Y k))) ∧
      gives (.vmaxf g d a b f i o) 3 r (fun k => same ((X k).maxF (Y k)))) ∧
    (srcOf b t = some (y, u) → srcOf d u = some (z, q) → destOf d q = some (e, r) →
      gives (.vfma g d a b f i o) 5 r (fun k => rnd ((Z k).add M ((X k).mul (Y k)).1).1) ∧
      gives (.vfnma g d a b f i o) 5 r (fun k => rnd ((Z k).add M ((X k).mul (Y k)).1.neg).1)))

/-- O35. The lane-wise integer operations give each lane its own result: sums, differences and products modulo the lane
width, the high half of the signed product, logic, shifts by the count modulo the lane's bits, minima and maxima.
VPACK limits each signed lane to half its width, with SATC where it did, and leaves the higher half zero; VUNPACK
widens the lower or the higher half's lanes by zeros or the sign. -/
def Obligations.IntegerLanes : Prop :=
  (∀ (g : BitVec 3) (d a b : BitVec 6) (w : BitVec 2) (x y : VWord) (e : Nat) (s t u r : State), guardTrue g s = true →
    srcOf a s = some (x, t) → srcOf b t = some (y, u) → destOf d u = some (e, r) →
    let n := 2 ^ w.toNat
    let m := 2 ^ (8 * n)
    let sg := signed (8 * n)
    let gives : Instr → (Nat → Nat → Nat) → Prop := fun i f => ∃ v : VWord, exec i s = .next (putV e v 2 r) ∧
      ∀ k, k < 256 / n → laneOf v n k = f (laneOf x n k) (laneOf y n k) % m
    let off : Instr → Prop := fun i => ∀ z : State, guardTrue g z = false → exec i z = .next z
    (off (.viadd g d a b w) ∧ off (.visub g d a b w) ∧ off (.vimul g d a b w) ∧ off (.vimulh g d a b w) ∧
      off (.vand g d a b w) ∧ off (.vor g d a b w) ∧ off (.vxor g d a b w) ∧ off (.vandn g d a b w) ∧
      off (.vshl g d a b w) ∧ off (.vshr g d a b w) ∧ off (.vsra g d a b w) ∧ off (.vrot g d a b w) ∧
      off (.vimin g d a b w) ∧ off (.vimax g d a b w) ∧ off (.viminu g d a b w) ∧ off (.vimaxu g d a b w)) ∧
    gives (.viadd g d a b w) (fun p q => p + q) ∧ gives (.visub g d a b w) (fun p q => p + (m - q)) ∧
    gives (.vimul g d a b w) (fun p q => p * q) ∧
    gives (.vimulh g d a b w) (fun p q => (sg p * sg q / m % m).toNat) ∧
    gives (.vand g d a b w) (fun p q => p &&& q) ∧ gives (.vor g d a b w) (fun p q => p ||| q) ∧
    gives (.vxor g d a b w) (fun p q => p ^^^ q) ∧ gives (.vandn g d a b w) (fun p q => p &&& (m - 1 - q)) ∧
    gives (.vshl g d a b w) (fun p q => p * 2 ^ (q % (8 * n))) ∧
    gives (.vshr g d a b w) (fun p q => p / 2 ^ (q % (8 * n))) ∧
    gives (.vsra g d a b w) (fun p q => (sg p / 2 ^ (q % (8 * n)) % m).toNat) ∧
    gives (.vrot g d a b w) (fun p q => p * 2 ^ (q % (8 * n)) + p / 2 ^ (8 * n - q % (8 * n))) ∧
    gives (.vimin g d a b w) (fun p q => if sg p ≤ sg q then p else q) ∧
    gives (.vimax g d a b w) (fun p q => if sg p ≤ sg q then q else p) ∧
    gives (.viminu g d a b w) min ∧ gives (.vimaxu g d a b w) max) ∧
  (∀ (g : BitVec 3) (d a : BitVec 6) (w : BitVec 2) (sx hi : BitVec 1) (x : VWord) (e : Nat) (s t r : State),
    guardTrue g s = true → srcOf a s = some (x, t) → destOf d t = some (e, r) → w ≠ 0 →
    let n := 2 ^ w.toNat
    let m := 256 / n
    let h : Int := 2 ^ (4 * n - 1)
    (∃ (v : VWord) (f : Flags), exec (.vpack g d a w) s = .next (putV e v 4 (raise f r)) ∧
      (∀ k, k < m → signed (4 * n) (laneOf v (n / 2) k) = max (-h) (min (h - 1) (signed (8 * n) (laneOf x n k)))) ∧
      (∀ k, m ≤ k → k < 2 * m → laneOf v (n / 2) k = 0) ∧ f &&& ~~~fSATC = 0 ∧
      (f = 0 ↔ ∀ k, k < m → -h ≤ signed (8 * n) (laneOf x n k) ∧ signed (8 * n) (laneOf x n k) < h)) ∧
    (∃ v : VWord, exec (.vunpack g d a sx hi w) s = .next (putV e v 4 r) ∧ ∀ k, k < m →
      let y := laneOf x (n / 2) (if hi = 1 then m + k else k)
      (sx = 0 → laneOf v n k = y) ∧ (sx = 1 → signed (8 * n) (laneOf v n k) = signed (4 * n) y)))

/-- O36. Lane moves: VPERM and VSHUF take the lanes their index vector names, VSEL chooses each lane by the guard
predicate whatever bit 0 of it holds, VIOTA counts, VMOV copies, VBCASTL and XSV repeat one value. -/
def Obligations.LaneMoves : Prop :=
  ∀ (g : BitVec 3) (d a b : BitVec 6) (w : BitVec 2) (x y : VWord) (e : Nat) (s t u r : State),
    let n := 2 ^ w.toNat
    let c := 256 / n
    let gives : Instr → Nat → State → (Nat → Nat) → Prop := fun i lat q f => ∃ v : VWord,
      exec i s = .next (putV e v lat q) ∧ ∀ k, k < c → laneOf v n k = f k
    (srcOf a s = some (x, t) → srcOf b t = some (y, u) → destOf d u = some (e, r) →
      (guardTrue g s = true → gives (.vperm g d a b w) 3 r (fun k => laneOf x n (laneOf y n k % c))) ∧
      gives (.vsel g d a b w) 3 r (fun k => if ((me s).rp g.toNat).getLsbD (k * n) then laneOf x n k else laneOf y n k)) ∧
    (∀ z q, guardTrue g s = true → srcOf a s = some (x, t) → srcOf b t = some (y, u) → srcOf d u = some (z, q) →
      destOf d q = some (e, r) → gives (.vshuf g d a b w) 3 r (fun k =>
        let j := laneOf y n k % (2 * c)
        if j < c then laneOf x n j else laneOf z n (j - c))) ∧
    (guardTrue g s = true → destOf d s = some (e, r) → gives (.viota g d w) 3 r (fun k => k % 2 ^ (8 * n)) ∧
      gives (.xsv g d a w) 4 r (fun _ => (sreg a s).toNat % 2 ^ (8 * n))) ∧
    (guardTrue g s = true → srcOf a s = some (x, t) → destOf d t = some (e, r) →
      exec (.vmov g d a) s = .next (putV e x 4 r) ∧
      ∃ v : VWord, exec (.vbcastl g d a b) s = .next (putV e v 4 r) ∧
        ∀ k, k < 32 → laneOf v 8 k = laneOf x 8 ((sreg b s).toNat % 32))

/-- O37. VFCMP and VICMP put each lane's outcome in the predicate bits of the lane's bytes; the conditions of VICMP are
equal, signed less, unsigned less and not equal. VRED gives every lane the root of the fixed tree over the lanes,
inactive ones holding the identity; VSCAN gives lane j the nodes that cover lanes 0 to j, combined left to right. -/
def Obligations.VectorCompares : Prop :=
  (∀ (g : BitVec 3) (p : BitVec 4) (a b : BitVec 6) (w c f : BitVec 2) (i : BitVec 1) (x y : VWord) (s t u : State),
    guardTrue g s = true → srcOf a s = some (x, t) → srcOf b t = some (y, u) →
    let n := 2 ^ w.toNat
    (∃ v : PWord, exec (.vicmp g p a b w c) s = .next (putP p v 2 u) ∧
      ∀ j, j < 256 → v.getLsbD j =
        (let l := laneOf x n (j / n)
         let r := laneOf y n (j / n)
         match c.toNat with
         | 0 => decide (l = r)
         | 1 => decide (signed (8 * n) l < signed (8 * n) r)
         | 2 => decide (l < r)
         | _ => decide (l ≠ r))) ∧
    (f ≠ 3 → ∃ (v : PWord) (fl : Flags), exec (.vfcmp g c p a b f i) s = .next (putP p v 3 (raise fl u)) ∧
      ∀ j, j < 256 → v.getLsbD j =
        (let F := vfmt f
         let l := F.dec (i == 1) (laneOf x F.bytes (j / F.bytes))
         let r := F.dec (i == 1) (laneOf y F.bytes (j / F.bytes))
         match c.toNat with
         | 0 => l.eqv r
         | 1 => l.lt r
         | 2 => l.lt r || l.eqv r
         | _ => l.isNan || r.isNan))) ∧
  (∀ (g : BitVec 3) (d a : BitVec 6) (op f : BitVec 2) (i o : BitVec 1) (x : VWord) (e : Nat) (s t r : State),
    f ≠ 3 → guardTrue g s = true → srcOf a s = some (x, t) → destOf d t = some (e, r) →
    let F := vfmt f
    let n := 256 / F.bytes
    let M := (me s).rmode.toNat
    let leaf := fun (fi : BitVec 1) (k : Nat) =>
      (if k = 0 ∨ (preg (g.setWidth 4) s).getLsbD (k * F.bytes) = true then fpLane F fi x k else identity op,
        Num.fin false 0 0)
    let join := fun (fo : BitVec 1) (p q : Node) => (joinNodes op F M fo p q).1
    (∃ (v : VWord) (fl : Flags), exec (.vred g d a op f i o) s = .next (putV e v 6 (raise fl r)) ∧
      ∀ k, k < n → laneOf v F.bytes k =
        (deliver op F M o (foldTree (join o) (Nat.log2 n) (leaf i) 0)).1 % 2 ^ (8 * F.bytes)) ∧
    (∃ (v : VWord) (fl : Flags) (pre : Nat → Node), exec (.vscan g d a op f) s = .next (putV e v 4 (raise fl r)) ∧
      (∀ b, 2 ^ b ≤ n → pre (2 ^ b) = foldTree (join 0) b (leaf 0) 0) ∧
      (∀ m b, m ≠ 0 → m % 2 ^ (b + 1) = 0 → m + 2 ^ b ≤ n →
        pre (m + 2 ^ b) = join 0 (pre m) (foldTree (join 0) b (leaf 0) (m / 2 ^ b))) ∧
      ∀ k, k < n → laneOf v F.bytes k = (deliver op F M 0 (pre (k + 1))).1 % 2 ^ (8 * F.bytes)))

/-- O38. Rounding keeps a value of the format as it is, pattern for pattern and with no flag, in every mode; and a
result raises no flag exactly when it equals the exact value. VCVT writes each element of the source, converted, to
the element of its number, and zeros above the last. -/
def Obligations.RoundingIsExactWhereItCanBe : Prop :=
  (∀ (F : Fmt) (mode : Nat) (sat : Bool), F ∈ [fp32, bf16, fp16, e4m3, e5m2, e2m1] →
    (∀ (w : Nat) (n : Bool) (m : Nat) (e : Int), w < 2 * F.sgn → F.dec false w = .fin n m e →
      F.round mode false sat (F.dec false w) = (w, 0)) ∧
    (∀ x : Machine.Num, x.isFin = true →
      (x.eqv (F.dec false (F.round mode false sat x).1) = true ↔ (F.round mode false sat x).2 = 0))) ∧
  (∀ (g : BitVec 3) (d a : BitVec 6) (c c2 : BitVec 4) (i o : BitVec 1) (x : VWord) (e : Nat) (s t r : State),
    cvtLegal c.toNat c2.toNat = true → guardTrue g s = true → srcOf a s = some (x, t) → destOf d t = some (e, r) →
    let sb := fmtBits c.toNat
    let db := fmtBits c2.toNat
    let n := 2048 / max sb db
    ∃ (v : VWord) (fl : Flags), exec (.vcvt g d a c c2 i o) s = .next (putV e v 3 (raise fl r)) ∧
      v.toNat < 2 ^ (n * db) ∧
      ∀ k, k < n → elemOf v db k = (writeElem c2.toNat (me s).rmode.toNat (o == 1) (o == 1 && c2.toNat == 4)
        (readElem c.toNat (i == 1) (elemOf x sb k)).1).1 % 2 ^ db)

/-- O39. VTERN adds to each signed 32-bit lane of the destination four products of a ternary code and a signed byte,
limited to 32 bits: codes 0, 1 and 3 stand for 0, 1 and −1, code 2 for 0 with TRSV; SATC where the sum was limited.
VMXSC and VMXQ give a block the scale of its largest magnitude, and VMXQ its elements rounded to nearest even under
it; a NaN or an infinity gives scale 0xFF and zeros; VMXDQ rounds each element times its scale to FP32. -/
def Obligations.TernaryProducts : Prop :=
  (∀ (g : BitVec 3) (d a b : BitVec 6) (x y z : VWord) (e : Nat) (s t u q r : State), guardTrue g s = true →
    srcOf a s = some (x, t) → srcOf b t = some (y, u) → srcOf d u = some (z, q) → destOf d q = some (e, r) →
    let code := fun k => (x.toNat / 4 ^ k) % 4
    let tern : Nat → Int := fun c => if c = 1 then 1 else if c = 3 then -1 else 0
    let sum : Nat → Int := fun j => signed 32 (laneOf z 4 j) + tern (code (4 * j)) * signed 8 (laneOf y 1 (4 * j)) +
      tern (code (4 * j + 1)) * signed 8 (laneOf y 1 (4 * j + 1)) +
      tern (code (4 * j + 2)) * signed 8 (laneOf y 1 (4 * j + 2)) +
      tern (code (4 * j + 3)) * signed 8 (laneOf y 1 (4 * j + 3))
    ∃ (v : VWord) (f : Flags), exec (.vtern g d a b) s = .next (putV e v 4 (raise f r)) ∧
      (∀ j, j < 64 → signed 32 (laneOf v 4 j) = max (-2 ^ 31) (min (2 ^ 31 - 1) (sum j))) ∧
      (f &&& fTRSV = 0 ↔ ∀ k, k < 256 → code k ≠ 2) ∧
      (f &&& fSATC = 0 ↔ ∀ j, j < 64 → -2 ^ 31 ≤ sum j ∧ sum j ≤ 2 ^ 31 - 1) ∧ f &&& ~~~(fTRSV ||| fSATC) = 0) ∧
  (∀ (g : BitVec 3) (d a c : BitVec 6) (x : VWord) (e : Nat) (s t r : State), mxCode c = true → guardTrue g s = true →
    srcOf a s = some (x, t) → destOf d t = some (e, r) →
    let w := if c.toNat = 6 then 4 else 8
    let blk := fun (b i : Nat) => fp32.dec false (laneOf x 4 (32 * b + i))
    let scaled := fun (b sc : Nat) (el : Option (Nat → Nat)) =>
      ((∃ i, i < 32 ∧ (blk b i).isFin = false) → sc = 0xFF ∧ ∀ E, el = some E → ∀ i, i < 32 → E i = 0) ∧
      ((∀ i, i < 32 → ∃ n ex, blk b i = .fin n 0 ex) → sc = 0 ∧ ∀ E, el = some E → ∀ i, i < 32 → E i = 0) ∧
      (∀ j n m ex, j < 32 → blk b j = .fin n m ex → m ≠ 0 →
        (∀ i, i < 32 → ∃ n2 m2 ex2, blk b i = .fin n2 m2 ex2 ∧ (m2 ≠ 0 → floorLog2 m2 ex2 ≤ floorLog2 m ex)) →
        let X := max (-127) (min 127 (floorLog2 m ex - emaxOf c.toNat))
        (sc : Int) = X + 127 ∧ ∀ E, el = some E → ∀ i, i < 32 →
          E i = (writeElem c.toNat 0 false true ((blk b i).scale (-X))).1 % 2 ^ w)
    (∃ (v : VWord) (fl : Flags), exec (.vmxsc g d a c) s = .next (putV e v 4 (raise fl r)) ∧
      (∀ b, b < 2 → scaled b (laneOf v 1 b) none) ∧ ∀ k, 2 ≤ k → k < 256 → laneOf v 1 k = 0) ∧
    (∃ (v : VWord) (fl : Flags), exec (.vmxq g d a c) s = .next (putV e v 4 (raise fl r)) ∧
      (∀ b, b < 2 → scaled b (laneOf v 1 (128 + b)) (some fun i => elemOf v w (32 * b + i))) ∧
      ∀ k, (8 * w ≤ k ∧ k < 128 ∨ 130 ≤ k ∧ k < 256) → laneOf v 1 k = 0) ∧
    (∃ (v : VWord) (fl : Flags), exec (.vmxdq g d a c) s = .next (putV e v 4 (raise fl r)) ∧
      ∀ k, k < 64 → let sc := laneOf x 1 (128 + k / 32)
        laneOf v 4 k = (fp32.round (me s).rmode.toNat false false (if sc = 255 then .nan
          else (readElem c.toNat false (elemOf x w k)).1.scale ((sc : Int) - 127))).1 % 2 ^ 32))

/-! ## The matrix unit and the accumulators -/

/-- O40. MCALL and MRESUME hold a call that passes Table 6.2 for their bundle's commit, which hands it to the unit;
they go on where it is empty, and wait while a call is in the unit; MCALL with a record pending traps with 0x0D; the
first row of Table 6.2 that fails decides the trap, with the cause and value of each row (the order within a row, and
which bank's address row 7 gives, is log entry 84, that m3's and m4's zero fields are not looked at log entry 62);
MWAIT waits; MPROG reads MROW; MGLOAD and MGSAVE move glaze words and the record, and trap with 0x0C and 0 on an
illegal control word. -/
def Obligations.MatrixSlotsRun : Prop :=
  (∀ (g : BitVec 3) (n : BitVec 9) (d : BitVec 6) (s : State), guardTrue g s = true →
      ((me s).mrow.busy = true → exec (.mcall g n) s = .next (setPark .busy s) ∧
        exec (.mresume g) s = .next (setPark .busy s) ∧ exec (.mwait g) s = .next (setPark .busy s)) ∧
      ((me s).mrow.busy = false → exec (.mwait g) s = .next s ∧
        ((me s).mrow.pend = true → exec (.mcall g n) s = .next (takeTrap 0x0D 0x100000000000000#64 s)) ∧
        ((me s).mrow.pend = false → exec (.mresume g) s = .next s ∧
          (∀ c t, prepare n.toNat (params s) s = .ok (some c, t) → exec (.mcall g n) s =
            .next (modBun (fun b => { b with mcall := some c }) t)) ∧
          (∀ t, prepare n.toNat (params s) s = .ok (none, t) → exec (.mcall g n) s = .next t) ∧
          (∀ c v, prepare n.toNat (params s) s = .error (c, v) →
            exec (.mcall g n) s = .next (takeTrap c (BitVec.ofNat 64 v) s))) ∧
        (∀ c t, (me s).mrow.pend = true → prepare (me s).mrow.idx.toNat (me s).record s = .ok (some c, t) →
          exec (.mresume g) s = .next (modBun (fun b => { b with mcall := some c }) t)) ∧
        (∀ t, (me s).mrow.pend = true → prepare (me s).mrow.idx.toNat (me s).record s = .ok (none, t) →
          exec (.mresume g) s = .next (modMe (fun x => { x with mrow := { x.mrow with pend := false } }) t))) ∧
      exec (.mprog g d) s = .next (lockS d (me s).mrow.word s) ∧
      (∀ (q : Nat) (c : MCall) (t : State), (seqAt q t).bun.mcall = some c → (seqAt q t).bun.stores = [] →
        (seqAt q t).bun.hops = [] → (seqAt q t).bun.publish = [] → (seqAt q t).bun.ctl = .none →
        ∃ f : Seq → Seq, commitEffects q t = modSeq q f (handOff c t) ∧ ∀ x, (f x).mrow = x.mrow) ∧
      (∀ (c : MCall) (t : State), let u := handOff c t
        (coreAt (c.q / 2) u).mq = (coreAt (c.q / 2) t).mq ++ [c] ∧ (seqAt c.q u).mrow.busy = true ∧
        (seqAt c.q u).mrow.pend = false ∧ (seqAt c.q u).mrow.rows = BitVec.ofNat 16 c.first ∧ u.mem = t.mem)) ∧
  (∀ (g : BitVec 3) (n : BitVec 9) (a b : BitVec 6) (s : State), guardTrue g s = true →
      let m4 := ((me s).rm 4).toNat
      let y := (sreg b s).toNat
      let va := (sreg a s).toNat
      ((me s).mrow.busy = false → (me s).mrow.pend = false →
        (m4 / 2 ^ 10 % 4 = 3 ∨ pairOk (m4 % 16) (m4 / 16 % 16) = false) →
        exec (.mcall g n) s = .next (takeTrap 0x0C 1 s)) ∧
      (∀ x y : Nat, pairOk x y = true ↔ (x, y) ∈ [(1, 1), (1, 2), (2, 1), (2, 2), (3, 3), (3, 4), (4, 3), (4, 4), (5, 5),
        (6, 6), (10, 7)]) ∧
      (glazeArgs y = none → exec (.mgload g a b) s = .next (takeTrap 0x0C 0 s) ∧
        exec (.mgsave g a b) s = .next (takeTrap 0x0C 0 s)) ∧
      (∀ i, glazeArgs y = some (false, 0, i) → exec (.mgload g a b) s = .next s ∧ exec (.mgsave g a b) s = .next s) ∧
      (∀ c i x t, glazeArgs y = some (false, c, i) → c ≠ 0 → va % 32 = 0 → unitBusy (myK s) s = false →
        load va (32 * c) s = .ok (x, t) → (∀ j, j < c → glazeBad (leNat ((x.drop (32 * j)).take 32)) = false) →
        ∃ u, exec (.mgload g a b) s = .next u ∧ u.mem = t.mem ∧ u.seqs = t.seqs ∧
          (∀ j, j < c → (look 0 (i + j) (coreAt (myK s) u).glaze).toNat = leNat ((x.drop (32 * j)).take 32)) ∧
          (∀ j, (j < i ∨ i + c ≤ j) → look 0 j (coreAt (myK s) u).glaze = look 0 j (coreAt (myK s) s).glaze)) ∧
      (∀ c i u, glazeArgs y = some (false, c, i) → c ≠ 0 → va % 32 = 0 → unitBusy (myK s) s = false →
        store va ((List.range c).map fun j => leBytes 32 (look 0 (i + j) (myCore s).glaze).toNat).flatten false s = .ok u →
        exec (.mgsave g a b) s = .next u) ∧
      (∀ c i, glazeArgs y = some (true, c, i) → va % 16 = 0 → (me s).mrow.busy = false →
        (∀ x t, load va 80 s = .ok (x, t) → exec (.mgload g a b) s = .next (modMe (installRecord x) t)) ∧
        (∀ u, store va (recordImage (me s)) false s = .ok u → exec (.mgsave g a b) s = .next u))) ∧
  (∀ (idx : Nat) (par : List Word) (s : State),
      let m := fun (i : Nat) => (nth 0 i par).toNat
      let G := decide (idx = 0x018)
      let P := prepare idx par s
      let a := m 4 % 16
      let b := m 4 / 16 % 16
      let mode := m 4 / 2 ^ 10 % 4
      let M := m 3 % 2 ^ 16
      let N := m 3 / 2 ^ 16 % 2 ^ 16
      let K := m 3 / 2 ^ 32 % 2 ^ 16
      let own := (me s).seqid.toNat % 16
      let bands := (myCore s).bands
      ((mode = 3 ∨ pairOk a b = false) → P = .error (0x0C, 1)) ∧
      (mode ≠ 3 → pairOk a b = true →
        (∀ e, m 0 ≠ 0 → load (m 0) 32 s = .error e → P = .error e) ∧
        (∀ ra s1, readTensor (m 0) s = .ok (ra, s1) →
          (∀ e, m 1 ≠ 0 → load (m 1) 32 s1 = .error e → P = .error e) ∧
          (∀ rb s2, readTensor (m 1) s1 = .ok (rb, s2) →
            (∀ e, readTable G (m 6) s2 = .error e → P = .error e) ∧
            (∀ hdr gs s3, readTable G (m 6) s2 = .ok (hdr, gs, s3) →
              let recs := (ra.toList.map fun t => (t, a)) ++ (rb.toList.map fun t => (t, b)) ++
                gs.map fun g => (g.2.2, b)
              let bRecs := if G then (gs.filter fun g => g.1.rows != 0).map (·.2.2) else rb.toList
              let banks := if G then gs.map (·.1.bank) else [m 2 / 2 ^ 15 % 64]
              let size := fun (f : Nat) => max 1 (fmtBits f / 8)
              let comp := mode = 2
              let int := decide (a = 10 ∧ b = 7)
              let mine := fun k => ∃ d, find k bands = some d ∧ d.owner = own
              let r3 := hdr / 2 ^ 32 ≠ 0 ∨ (∃ g ∈ gs, g.2.1 ≠ 0) ∨ ∃ p ∈ recs, p.1.rsvd ≠ 0 ∨ 2 ^ 48 ≤ p.1.base ∨
                p.1.fmt ≠ p.2 ∨ p.1.rows < p.1.trow ∨ p.1.cols < p.1.tcol
              let r4 := fun (p : Tensor × Nat) => p.1.base % size p.2 ≠ 0 ∨ p.1.stride % size p.2 ≠ 0
              let r5 := 2 ^ 24 ≤ m 2 ∨ m 2 / 2 ^ 21 % 8 ≠ myK s % 8
              let r6 := (comp ∧ int = true) ∨ ∃ k ∈ banks, (comp ∧ k % 2 = 1) ∨ ∃ d, find k bands = some d ∧
                ((d.paired = true ∧ ¬comp) ∨ ((mode = 1 ∨ comp) ∧ d.int ≠ int))
              let r7 := fun k => ¬mine k ∨ (comp ∧ ¬mine (k + 1))
              let r8 := M = 0 ∨ N = 0 ∨ K = 0 ∨ M ≤ m 7 ∨ ∃ t ∈ ra.toList ++ bRecs, t.trow = 0 ∨ t.tcol = 0
              let beyond := fun (t : Tensor) (tr : Bool) (r c : Nat) =>
                if tr then t.trow < c ∨ t.tcol < r else t.trow < r ∨ t.tcol < c
              let r9 := (if G then ∃ g ∈ gs, 32 < m 2 / 2 ^ 10 % 32 + g.1.rows else 32 < m 2 / 2 ^ 10 % 32 + M) ∨
                1024 < m 2 % 1024 + N ∨ (idx = 0x010 ∧ (32 < M ∨ 32 < N)) ∨ (idx = 0x018 ∧ (1024 < M ∨ 32 < N)) ∨
                (∃ t ∈ ra.toList, beyond t t.tr M K) ∨ ∃ t ∈ bRecs, beyond t (t.tr != (m 4).testBit 12) K N
              let r10 := idx = 0x018 ∧ (hdr % 2 ^ 32 = 0 ∨ 32 < hdr % 2 ^ 32 ∨ (∃ g ∈ gs, 32 < g.1.rows) ∨
                M < (gs.map fun g => g.1.rows).sum)
              let r11 := ∃ p ∈ recs, p.1.wr = true ∧ p.1.stride < (p.1.cols * fmtBits p.2 + 7) / 8
              (r3 → P = .error (0x0C, 3)) ∧
              (¬r3 → ∀ l p r, recs = l ++ p :: r → (∀ x ∈ l, ¬r4 x) → r4 p → P = .error (0x0B, p.1.base)) ∧
              (¬r3 → (∀ p ∈ recs, ¬r4 p) →
                (r5 → P = .error (0x0C, 5)) ∧ (¬r5 → r6 → P = .error (0x0C, 6)) ∧
                (¬r5 → ¬r6 → (∀ l k r, banks = l ++ k :: r → (∀ x ∈ l, ¬r7 x) → r7 k →
                    P = .error (0x0E, m 2 / 2 ^ 21 * 2 ^ 21 + k * 2 ^ 15 + m 2 % 2 ^ 15)) ∧
                  ((∀ k ∈ banks, ¬r7 k) → (r8 → P = .ok (none, s3)) ∧
                    (¬r8 → r9 → P = .error (0x0C, 9)) ∧ (¬r8 → ¬r9 → r10 → P = .error (0x0C, 10)) ∧
                    (¬r8 → ¬r9 → ¬r10 → r11 → P = .error (0x0C, 11)) ∧
                    (¬r8 → ¬r9 → ¬r10 → ¬r11 → ∃ c, P = .ok (some c, s3) ∧ c.q = s.cur ∧ c.idx = idx ∧ c.par = par)))))))))

/-- O41. The unit's events: MATRIX_CALL_START takes the oldest call handed over into a free unit; GLAZE_STEP executes
one word, its fields in their order: CLOAD sets a counter and its limit; AGEN reads a block of A, or of B, one K-chunk of
each of its rows or columns, and SCALE the codes of their scales; ARRAY sums each pair's exact products over the chunk;
FLAGS empties the partials or loads them from the bank; the fold adds each sum to its partial, with limits, rounded to
nearest even, or to a pair; the write puts the partials of the selected
rows into the bank's elements and touches no other, PROG makes ROWS grow, SEQ names the next word; a fault takes the
call out of the unit. MATRIX_CALL_COMPLETE ends a call past word 511, clears BUSY and ORs its flags;
MATRIX_FAULT_DELIVERY traps at the sequencer's next bundle with the fault's cause and value, after a BAR at which it has
arrived too (log entry 29). That the WIDTH of a write is looked at before its banks' owner is log entry 84. -/
def Obligations.MatrixUnitEvents : Prop :=
  (∀ (k q : Nat) (s : State),
    (∀ c l, (coreAt k s).mrun = none → (coreAt k s).mq = c :: l → ∃ t, exec (.matrixCallStart k) s = .next t ∧
      (coreAt k t).mq = l ∧ (coreAt k t).mrun = some (.start c) ∧ t.mem = s.mem ∧ t.seqs = s.seqs) ∧
    (∀ r r1 t, (coreAt k s).mrun = some r → r.word < 512 →
      (doWord r s = (r1, t, none) → exec (.glazeStep k) s = .next (modCore k (fun c => { c with mrun := some r1 }) t)) ∧
      (∀ f, doWord r s = (r1, t, some f) → exec (.glazeStep k) s = .next (leaveUnit r1 (some f) t) ∧
        (r1.call.q / 2 = k → (coreAt k (leaveUnit r1 (some f) t)).mrun = none) ∧
        (seqAt r1.call.q (leaveUnit r1 (some f) t)).mrow.busy = false)) ∧
    (∀ r, (coreAt k s).mrun = some r → 512 ≤ r.word → ∃ t, exec (.matrixCallComplete k) s = .next t ∧
      (r.call.q / 2 = k → (coreAt k t).mrun = none) ∧ (seqAt r.call.q t).mrow.busy = false ∧
      (seqAt r.call.q t).fflags = (seqAt r.call.q s).fflags ||| r.flags ∧ t.mem = s.mem) ∧
    (∀ f l, mayDeliver q s = true → (seqAt q s).mfault = f :: l →
      ∃ u : State, exec (.matrixFaultDelivery q) s = .next (trapEntry q f.cause f.tval (seqAt q u).pc u) ∧
        (seqAt q u).fflags = (seqAt q s).fflags ||| f.flags ∧ (seqAt q u).mfault = l ∧ (seqAt q u).pc = (seqAt q s).pc ∧
        (seqAt q u).hold = (seqAt q s).hold ∧ u.tasks = s.tasks)) ∧
  (∀ (r r6 r7 r8 : MRun) (s s5 s6 : State), let w := r.glaze s
    beforeWrite r s = (r6, s5, none) → doWrite w r6 s5 = .ok (r7, s6) → doSeq w r7 = .ok r8 → r8.steps + 1 < 2 ^ 32 →
    doWord r s = ({ r8 with steps := r8.steps + 1 }, doProg w r7 s6, none)) ∧
  (∀ (r r2 r3 r4 : MRun) (s s1 s2 s3 s4 : State) (f : UFault), let w := r.glaze s
    let r1 := (doCload w r s).1
    (doAgenA w r1 (doCload w r s).2 = .ok (r2, s2) → doAgenB w r2 s2 = .ok (r3, s3) → doScale w r3 s3 = .ok (r4, s4) →
      beforeWrite r s = (doFold w (doFlags w (coreAt (r.call.q / 2) (doArray w r4 s4).2) (doArray w r4 s4).1),
        (doArray w r4 s4).2, none)) ∧
    (doAgenA w r1 (doCload w r s).2 = .error (f, s1) → beforeWrite r s = (r1, s1, some f)) ∧
    (doAgenA w r1 (doCload w r s).2 = .ok (r2, s2) → doAgenB w r2 s2 = .error (f, s1) →
      beforeWrite r s = (r2, s1, some f)) ∧
    (doAgenA w r1 (doCload w r s).2 = .ok (r2, s2) → doAgenB w r2 s2 = .ok (r3, s3) → doScale w r3 s3 = .error (f, s1) →
      beforeWrite r s = (r3, s1, some f))) ∧
  (∀ (w : Nat) (r : MRun) (c : MCall) (s s1 s2 : State) (x : List (List Nat)) (B : Option Tensor) (f : UFault × State),
    let a := r.c (bits w 45 43)
    let b := r.c (bits w 69 67)
    let ka := 32 * r.c (bits w 48 46)
    let kb := 32 * r.c (bits w 72 70)
    let fa := if bits w 77 74 = 15 then r.call.af else bits w 77 74
    let fb := if bits w 81 78 = 15 then r.call.bf else bits w 81 78
    let rows := if bit w 42 then groupRows r.call a else plainRows r.call a
    let c0 := if bit w 66 then 0 else 32 * b
    let cols := (List.range (min 32 (r.call.cols - c0))).map (c0 + ·)
    let fetchA := readBlock r.call r.call.ra (fmtBits fa) (alongA r.call) rows ka (min 32 (r.call.depth - ka)) s
    let fetchB := readBlock r.call B (fmtBits fb) (alongB r.call B) cols kb (min 32 (r.call.depth - kb)) s1
    (bit w 49 = false → doAgenA w r s = .ok (r, s)) ∧
    (bit w 49 = true → (fetchA = .ok (x, s2) → doAgenA w r s =
        .ok ({ r with grp := if bit w 42 then some a else none, arows := rows, ablk := x }, s2)) ∧
      (fetchA = .error f → doAgenA w r s = .error f)) ∧
    (bit w 73 = false → doAgenB w r s = .ok (r, s)) ∧
    (bit w 73 = true → (bit w 66 = false ∧ B = r.call.rb ∧ s1 = s ∨ bit w 66 = true ∧ groupTensor r.call b s = .ok (B, s1)) →
      (fetchB = .ok (x, s2) → doAgenB w r s = .ok ({ r with brec := B, bcols := cols, bblk := x }, s2)) ∧
      (fetchB = .error f → doAgenB w r s = .error f)) ∧
    (∀ t i, i ∈ plainRows c t ↔ c.first + 32 * t ≤ i ∧ i < c.first + 32 * t + 32 ∧ i < c.rows) ∧
    (∀ g i, i ∈ groupRows c g ↔ c.first ≤ i ∧ ∃ y, c.groups[g]? = some y ∧ groupStart c g ≤ i ∧ i < groupStart c g + y.rows) ∧
    (∀ t, (plainRows c t).Pairwise (· < ·) ∧ (groupRows c t).Pairwise (· < ·)) ∧
    (∀ g y bs, c.groups[g]? = some y → groupRows c g ≠ [] → unitRead c y.brec 32 s = .ok (bs, s1) →
      groupTensor c g s = .ok (some (tensorFrom bs), s1))) ∧
  (∀ (c : MCall) (T : Tensor) (w k n o : Nat) (outer : List Nat) (s s1 s2 : State) (x y : List (List Nat)) (e : List Nat)
    (f : UFault × State),
    (outer ≠ [] → readBlock c (some T) w true outer k n s = readRows c T w k n outer s) ∧
    (outer ≠ [] → readRows c T w (outer.headD 0) outer.length ((List.range n).map (k + ·)) s = .ok (y, s1) →
      ∃ x, readBlock c (some T) w false outer k n s = .ok (x, s1) ∧ x.length = outer.length ∧
        ∀ i j, i < outer.length → j < n → y.length = n → nth 0 j (nth [] i x) = nth 0 i (nth [] j y)) ∧
    readRows c T w k n [] s = .ok ([], s) ∧
    (readRow c w (T.base + o * T.stride) k n s = .ok (e, s1) → readRows c T w k n outer s1 = .ok (x, s2) →
      readRows c T w k n (o :: outer) s = .ok (e :: x, s2)) ∧
    (readRow c w (T.base + o * T.stride) k n s = .error f → readRows c T w k n (o :: outer) s = .error f) ∧
    (∀ (a : Nat) (bs : List Byte), 0 < n →
      unitRead c (a + k * w / 8) (((k + n) * w + 7) / 8 - k * w / 8) s = .ok (bs, s1) →
      ∃ l, readRow c w a k n s = .ok (l, s1) ∧ l.length = n ∧
        ∀ i, i < n → nth 0 i l = leNat bs / 2 ^ (w * (k + i) - 8 * (k * w / 8)) % 2 ^ w) ∧
    (∀ (along : Bool) (bs : List Byte) (l : List Nat),
      let off := if along then o * ((T.cols + 31) / 32) + k else k * T.cols + o
      readScales c T along k [] s = .ok ([], s) ∧
      (unitRead c (c.p 5 + T.soff + off) 1 s = .ok (bs, s1) → readScales c T along k outer s1 = .ok (l, s2) →
        readScales c T along k (o :: outer) s = .ok (leNat bs :: l, s2)))) ∧
  (∀ (w : Nat) (r : MRun) (A B : Tensor) (x y : List Nat) (s s1 s2 : State), r.call.ra = some A → r.brec = some B →
    let fa := if bits w 77 74 = 15 then r.call.af else bits w 77 74
    let fb := if bits w 81 78 = 15 then r.call.bf else bits w 81 78
    let ch := r.c (bits w 104 102)
    let codes := fun (f : Nat) (T : Tensor) (along : Bool) (l : List Nat) (u : State) =>
      if f = 5 ∨ f = 6 then readScales r.call T along ch l u else .ok ([], u)
    (bit w 105 = false → doScale w r s = .ok (r, s)) ∧
    (bit w 105 = true → codes fa A (!A.tr) r.arows s = .ok (x, s1) →
      codes fb B (B.tr != bit (r.call.p 4) 12) r.bcols s1 = .ok (y, s2) →
      doScale w r s = .ok ({ r with ascl := x, bscl := y }, s2))) ∧
  (∀ (w : Nat) (r : MRun) (s : State),
    let a := if bits w 77 74 = 15 then r.call.af else bits w 77 74
    let b := if bits w 81 78 = 15 then r.call.bf else bits w 81 78
    let n := bits w 86 82 + 1
    let fi := bit (r.call.p 4) 8
    let mx := a == 5 || a == 6
    let va := fun i => ((nth [] i r.ablk).take n).map fun x => (scaledElem a fi (if mx then r.ascl[i]? else none) x).1
    let vb := fun j => ((nth [] j r.bblk).take n).map fun x => (scaledElem b fi (if mx then r.bscl[j]? else none) x).1
    (bit w 89 = false → doArray w r s = (r, s)) ∧
    (bit w 89 = true → sumsKnown a b r = true → let t := (doArray w r s).1
      (∃ fl, t = { r with sums := t.sums, int := intPair a b, flags := fl }) ∧
      t.sums.length = r.ablk.length ∧ ∀ i j, i < r.ablk.length → j < r.bblk.length →
        nth .nan j (nth [] i t.sums) = ((va i).zip (vb j)).foldr (fun p z => ((p.1.mul p.2).1.add 0 z).1) (.fin true 0 0)) ∧
    (∀ f x c, (scaledElem f fi none x).1 = (readElem f fi x).1 ∧ (scaledElem f fi (some 255) x).1 = .nan ∧
      (c < 255 → (scaledElem f fi (some c) x).1 = (readElem f fi x).1.scale ((c : Int) - 127)))) ∧
  (∀ (w : Nat) (k : Core) (r : MRun), let t := r.c (bits w 132 130)
    let fi := bit (r.call.p 4) 8 && !intPair r.call.af r.call.bf
    let at_ := fun b i j => let x := accAt k b i j
      if fi = true ∧ x / 2 ^ 23 % 256 = 0 then x / 2 ^ 31 * 2 ^ 31 else x
    (bit w 146 = false → bit w 147 = false → doFlags w k r = r) ∧
    (bit w 147 = true → r.call.amode ≠ 0 → doFlags w k r = { r with parts := (doFlags w k r).parts } ∧
      (doFlags w k r).parts.length = r.arows.length ∧
      ∀ i j, i < r.arows.length → j < 32 → let row := r.target (nth 0 i r.arows)
        let col := r.call.col + 32 * t + j
        nth none j (nth [] i (doFlags w k r).parts) = if col < 1024 ∧ row < 32 then
          some (at_ r.bank row col, if r.call.amode = 2 then at_ (r.bank + 1) row col else 0) else none) ∧
    ((bit w 146 = true ∧ bit w 147 = false ∨ bit w 147 = true ∧ r.call.amode = 0) →
      doFlags w k r = { r with parts := [] })) ∧
  (∀ (w : Nat) (r : MRun) (x : Machine.Num) (p : Option (Nat × Nat)), let fo := bit (r.call.p 4) 9
    let rne := fun (z : Machine.Num) => (fp32.round 0 fo false z).1
    let val := fun (n : Nat) => fp32.dec false n
    let old := (p.getD (0, 0)).1
    let z := p.elim x fun v => (((val v.1).add 0 (val v.2)).1.add 0 x).1
    (bit w 136 = false → doFold w r = r) ∧
    (bit w 136 = true → (∃ fl, doFold w r = { r with parts := (doFold w r).parts, flags := fl }) ∧
      ∀ i j, i < r.sums.length → j < (nth [] i r.sums).length → nth none j (nth [] i (doFold w r).parts) =
        some (foldElem r (nth .nan j (nth [] i r.sums)) (nth none j (nth [] i r.parts))).1) ∧
    (r.int = true → (foldElem r x p).1 = ((limit 32 (signed 32 old + x.toInt)).1, 0)) ∧
    (∀ v : Int, signed 32 (limit 32 v).1 = max (-2 ^ 31) (min (2 ^ 31 - 1) v)) ∧
    (r.int = false → r.call.amode ≠ 2 →
      (foldElem r x p).1 = (rne (p.elim x fun v => ((val v.1).add 0 x).1), 0)) ∧
    (r.int = false → r.call.amode = 2 → (foldElem r x p).1 =
      (rne z, if (val (rne z)).isFin then rne (z.add 0 (val (rne z)).neg).1 else 0))) ∧
  (∀ (w t : Nat) (r : MRun) (l : List Nat) (s : State),
    let n := bits w 24 22
    let to_ := w % 512
    let rows := fun (u : State) => (seqAt r.call.q u).mrow.rows.toNat
    (bit w 25 = false → doCload w r s = (r, s)) ∧
    (bit w 25 = true → (doCload w r s).1.c n = 0 ∧
      (bits w 21 20 = 0 → look 0 n (doCload w r s).1.clim = bits w 19 14) ∧
      (bits w 21 20 = 1 → look 0 n (doCload w r s).1.clim = ((r.call.depth + 31) / 32 + 65535) % 65536) ∧
      (bits w 21 20 = 2 → r.call.grouped = true →
        look 0 n (doCload w r s).1.clim = (r.call.groups.length + 65535) % 65536) ∧
      (bits w 21 20 = 3 → look 0 n (doCload w r s).1.clim = ((r.call.rows + 31) / 32 + 65535) % 65536)) ∧
    (bits w 10 9 = 0 → r.stack = [] → doSeq w r = .ok { r with word := 512 }) ∧
    (bits w 10 9 = 0 → r.stack = t :: l → doSeq w r = .ok { r with word := t, stack := l }) ∧
    (bits w 10 9 = 1 → doSeq w r = .ok { r with word := r.word + 1 }) ∧
    (bits w 10 9 = 2 → let c := bits w 13 11
      (r.c c < look 0 c r.clim → doSeq w r = .ok { r with word := to_, cval := upd c (r.c c + 1) r.cval }) ∧
      (look 0 c r.clim ≤ r.c c → doSeq w r = .ok { r with word := r.word + 1 })) ∧
    (bits w 10 9 = 3 →
      (r.stack.length < 4 → doSeq w r = .ok { r with word := to_, stack := (r.word + 1) :: r.stack }) ∧
      (4 ≤ r.stack.length → doSeq w r = .error (0x0D, 3 * 2 ^ 56, false))) ∧
    (bit w 145 = true → r.last < 65536 → rows (doProg w r s) = max (rows s) r.last) ∧
    (bit w 145 = false → doProg w r s = s)) ∧
  (∀ (w : Nat) (r r1 : MRun) (s t : State),
    let k := r.call.q / 2
    let out := r.out (r.c (bits w 132 130))
    (bit w 137 = false → doWrite w r s = .ok (r, s)) ∧
    (bit w 137 = true → bit w 133 = true → r.int = false →
      doWrite w r s = .error (0x0C, r.call.p 2 + 32 * r.c (bits w 132 130), false)) ∧
    (bit w 137 = true → doWrite w r s = .ok (r1, t) → t.mem = s.mem ∧ t.seqs = s.seqs ∧
      (out.Pairwise (fun a b => (a.1, a.2.1) ≠ (b.1, b.2.1)) → ∀ e ∈ out,
        accAt (coreAt k t) r.bank e.1 e.2.1 = e.2.2.1 % 2 ^ 32 ∧
        (r.call.amode = 2 → accAt (coreAt k t) (r.bank + 1) e.1 e.2.1 = e.2.2.2 % 2 ^ 32)) ∧
      (∀ b i j, i < 32 → j < 1024 → (b ∉ r.banks ∨ ∀ e ∈ out, (e.1, e.2.1) ≠ (i, j)) →
        accAt (coreAt k t) b i j = accAt (coreAt k s) b i j)))

/-- O42. The allocator: AALLOC gives the lowest run of free banks, cleared, FP32, unpaired and the caller's, or all
ones; AFREE frees, ACLR clears, ABAND hands over a range the caller owns; AOWN reads PAIRED, KIND and the owner, ABSTAT
the mask of allocated banks; a range that the caller does not own traps with 0x0E, an address with bits above 23, a
range past bank 63 and a new owner above 15 with 0x0C; all but AALLOC wait for the sequencer's matrix call. -/
def Obligations.AccumulatorBanks : Prop :=
  ∀ (g : BitVec 3) (d a b : BitVec 6) (s : State), guardTrue g s = true →
    let n := (sreg a s).toNat
    let c := sreg b s
    let k := coreIn s.cur (n / 2 ^ 21 % 8)
    let b0 := n / 2 ^ 15 % 64
    let core := myCore s
    (∀ lo, 1 ≤ n → n ≤ 64 → lo + n ≤ 64 → (∀ i, i < n → find (lo + i) core.bands = none) →
      (∀ l, l < lo → ∃ i, i < n ∧ find (l + i) core.bands ≠ none) →
      ∃ t, exec (.aalloc g d a) s = .next (lockS d (BitVec.ofNat 64 lo) t) ∧ t.mem = s.mem ∧ t.seqs = s.seqs ∧
        (∀ i, find i (coreAt (myK s) t).bands =
          if lo ≤ i ∧ i < lo + n then some ⟨(me s).seqid.toNat % 16, false, false⟩ else find i core.bands) ∧
        (∀ i j l, j < 32 → l < 1024 → accAt (coreAt (myK s) t) i j l =
          if lo ≤ i ∧ i < lo + n then 0 else accAt core i j l)) ∧
    ((n = 0 ∨ 64 < n ∨ freeRun core n = none) →
      exec (.aalloc g d a) s = .next (lockS d (BitVec.allOnes 64) s)) ∧
    ((me s).mrow.busy = false → n < 2 ^ 24 →
      (c.toNat ≠ 0 → b0 + c.toNat ≤ 64 →
        let bs := widened (coreAt k s) b0 c.toNat
        ((bs.all fun i => ownedBy (coreAt k s) (ownNumber s) i) = true →
          exec (.afree g a b) s =
            .next (modCore k (fun x => { x with bands := x.bands.filter fun p => !bs.contains p.1 }) s) ∧
          exec (.aclr g a b) s = .next (modCore k (fun x => { x with
            bands := x.bands.map fun p => (p.1, if bs.contains p.1 then { p.2 with int := false } else p.2)
            acc := clearBanks bs x.acc }) s)) ∧
        ((bs.all fun i => ownedBy (coreAt k s) (ownNumber s) i) = false →
          exec (.afree g a b) s = .next (takeTrap 0x0E (sreg a s) s) ∧
          exec (.aclr g a b) s = .next (takeTrap 0x0E (sreg a s) s))) ∧
      (c.toNat ≤ 15 → ((widened (coreAt k s) b0 1).all fun i => ownedBy (coreAt k s) (ownNumber s) i) = true →
        exec (.aband g a b) s = .next (modCore k (fun x => { x with bands := x.bands.map fun p =>
          (p.1, if (widened (coreAt k s) b0 1).contains p.1 then { p.2 with owner := c.toNat } else p.2) }) s)) ∧
      (c.toNat ≤ 15 → ((widened (coreAt k s) b0 1).all fun i => ownedBy (coreAt k s) (ownNumber s) i) = false →
        exec (.aband g a b) s = .next (takeTrap 0x0E (sreg a s) s)) ∧
      (15 < c.toNat → exec (.aband g a b) s = .next (takeTrap 0x0C (sreg a s) s)) ∧
      (c = 0 → exec (.afree g a b) s = .next s ∧ exec (.aclr g a b) s = .next s) ∧
      (64 < b0 + c.toNat → c ≠ 0 → exec (.afree g a b) s = .next (takeTrap 0x0C (sreg a s) s) ∧
        exec (.aclr g a b) s = .next (takeTrap 0x0C (sreg a s) s)) ∧
      (∀ y x, find b0 (coreAt k s).bands = some y →
        find (if y.paired then b0 - b0 % 2 else b0) (coreAt k s).bands = some x →
        exec (.aown g d a) s = .next (lockS d (BitVec.ofNat 64
          ((if x.paired then 2 ^ 9 else 0) + (if x.int then 2 ^ 8 else 0) + x.owner)) s)) ∧
      (find b0 (coreAt k s).bands = none → exec (.aown g d a) s = .next (lockS d (BitVec.allOnes 64) s))) ∧
    ((me s).mrow.busy = false → 2 ^ 24 ≤ n → exec (.afree g a b) s = .next (takeTrap 0x0C (sreg a s) s) ∧
      exec (.aclr g a b) s = .next (takeTrap 0x0C (sreg a s) s) ∧
      exec (.aband g a b) s = .next (takeTrap 0x0C (sreg a s) s) ∧
      exec (.aown g d a) s = .next (takeTrap 0x0C (sreg a s) s)) ∧
    ((me s).mrow.busy = true → exec (.afree g a b) s = .next (setPark .busy s) ∧
      exec (.aclr g a b) s = .next (setPark .busy s) ∧ exec (.aband g a b) s = .next (setPark .busy s) ∧
      exec (.aown g d a) s = .next (setPark .busy s) ∧ exec (.abstat g d) s = .next (setPark .busy s)) ∧
    ((me s).mrow.busy = false → ∃ v : Word, exec (.abstat g d) s = .next (lockS d v s) ∧
      ∀ i, i < 64 → v.getLsbD i = (find i core.bands).isSome)

/-- O43. Row segments of a bank the caller owns. AREAD gives an element rounded once to its format under RMODE, an FP32
element to FP32 and an integer one to INT32 as they are, of a pair the sum of hi and lo; of a free bank zeros, with
AUR. AWRITE leaves lanes widened to FP32, lo of a pair +0, or INT32 ones, and sets the bank's kind. AACC adds with
limits, rounded to nearest even, or to a pair; fo flushes subnormal results. Another owner's bank traps with 0x0E; a
pair's upper bank, INT32 of a pair, a kind that is not the bank's, an address with bits above 23 and a segment past
column 1,023 with 0x0C. ADRAIN holds one store a row, row r's at address + r·STRIDE: each element rounded to nearest even
into the destination format, of a pair the sum of hi and lo; of a free bank zeros, with AUR (R18 to R20, R143). Another
owner's bank traps with 0x0E, an address with bits above 23, a region past row 31 or column 1,023 and a pair's upper bank
with 0x0C, each before any store. All wait for the sequencer's matrix call (R144). -/
def Obligations.AccumulatorRows : Prop :=
  (∀ (g : BitVec 3) (v a b : BitVec 6) (f : BitVec 2) (o : BitVec 1) (y : VWord) (s t : State) (e : Nat) (bd : Band),
    guardTrue g s = true → (me s).mrow.busy = false → ¬(f = 3 ∧ o = 1) →
    let sum := sreg a s + sreg b s
    let x := sum.toNat
    let k := coreIn s.cur (x / 2 ^ 21 % 8)
    let c := coreAt k s
    let bank := x / 2 ^ 15 % 64
    let row := x / 2 ^ 10 % 32
    let col := x % 1024
    let w := if f = 1 ∨ f = 2 then 2 else 4
    let n := if f = 1 ∨ f = 2 then 128 else 64
    let code := if f = 3 then 9 else f.toNat
    let M := (me s).rmode.toNat
    let fo := o == 1
    let el := fun (m : Core) (i j : Nat) => accAt m (bank + i) row (col + j)
    let dec := fun (i j : Nat) => fp32.dec false (el c i j)
    let flush := fun (u : Nat) => if o = 1 ∧ u / 2 ^ 23 % 256 = 0 then u / 2 ^ 31 * 2 ^ 31 else u
    let reads : (Nat → Nat) → Prop := fun val => ∃ (z : VWord) (fl : Flags),
      exec (.aread g v a b f o) s = .next (putV e z 6 (raise fl t)) ∧ ∀ j, j < n → laneOf z w j = val j % 2 ^ (8 * w)
    let leaves : Instr → (Nat → Nat → Nat) → Prop := fun i val => ∃ u : State, exec i s = .next u ∧ u.mem = s.mem ∧
      ∀ j, j < n → el (coreAt k u) 0 j = val 0 j ∧ (bd.paired = true → el (coreAt k u) 1 j = val 1 j)
    let traps : Nat → Instr → Prop := fun cs i => exec i s = .next (takeTrap cs sum s)
    let rne := fun (z : Machine.Num) => (fp32.round 0 fo false z).1
    let rne0 := fun (z : Machine.Num) => (fp32.round 0 false false z).1
    ((2 ^ 24 ≤ x ∨ 1024 < col + n) →
      traps 0x0C (.aread g v a b f o) ∧ traps 0x0C (.awrite g v a b f o) ∧ traps 0x0C (.aacc g v a b f)) ∧
    (x < 2 ^ 24 → col + n ≤ 1024 →
      (find bank c.bands = none →
        (destOf v s = some (e, t) → exec (.aread g v a b f o) s = .next (putV e 0 6 (raise fAUR t))) ∧
        traps 0x0E (.awrite g v a b f o) ∧ traps 0x0E (.aacc g v a b f)) ∧
      (find bank c.bands = some bd → bd.owner ≠ ownNumber s →
        traps 0x0E (.aread g v a b f o) ∧ traps 0x0E (.awrite g v a b f o) ∧ traps 0x0E (.aacc g v a b f)) ∧
      (find bank c.bands = some bd → bd.owner = ownNumber s →
        (bd.paired = true → (f = 3 ∨ bank % 2 = 1) →
          traps 0x0C (.aread g v a b f o) ∧ traps 0x0C (.awrite g v a b f o) ∧ traps 0x0C (.aacc g v a b f)) ∧
        (¬(bd.paired = true ∧ (f = 3 ∨ bank % 2 = 1)) →
          (destOf v s = some (e, t) →
            (bd.paired = true → reads fun j => (writeElem code M fo false ((dec 0 j).add M (dec 1 j)).1).1) ∧
            (bd.paired = false → bd.int = false → f = 0 → reads fun j => flush (el c 0 j)) ∧
            (bd.paired = false → bd.int = false → f ≠ 0 → reads fun j => (writeElem code M fo false (dec 0 j)).1) ∧
            (bd.paired = false → bd.int = true → f = 3 → reads fun j => el c 0 j) ∧
            (bd.paired = false → bd.int = true → f ≠ 3 → reads fun j =>
              (writeElem code M fo false (ofInt false (signed 32 (el c 0 j)) 0)).1)) ∧
          (srcOf v s = some (y, t) →
            (f = 3 → leaves (.awrite g v a b f o) fun _ j => laneOf y 4 j) ∧
            (f = 0 → leaves (.awrite g v a b f o) fun i j => if i = 0 then flush (laneOf y 4 j) else 0) ∧
            ((f = 1 ∨ f = 2) → leaves (.awrite g v a b f o) fun i j =>
              if i = 0 then rne ((vfmt f).dec false (laneOf y 2 j)) % 2 ^ 32 else 0) ∧
            (∃ u, exec (.awrite g v a b f o) s = .next u ∧
              find bank (coreAt k u).bands = some { bd with int := decide (f = 3) }) ∧
            (bd.int = true → f = 3 → ∃ u, exec (.aacc g v a b f) s = .next u ∧ u.mem = s.mem ∧
              ∀ j, j < n → signed 32 (el (coreAt k u) 0 j) =
                max (-2 ^ 31) (min (2 ^ 31 - 1) (signed 32 (el c 0 j) + signed 32 (laneOf y 4 j)))) ∧
            (bd.int = false → f ≠ 3 → bd.paired = false → leaves (.aacc g v a b f) fun _ j =>
              rne0 ((dec 0 j).add 0 ((vfmt f).dec false (laneOf y w j))).1 % 2 ^ 32) ∧
            (bd.int = false → f ≠ 3 → bd.paired = true → leaves (.aacc g v a b f) fun i j =>
              let z := (((dec 0 j).add 0 (dec 1 j)).1.add 0 ((vfmt f).dec false (laneOf y w j))).1
              let hi := rne0 z
              let h := fp32.dec false hi
              if i = 0 then hi % 2 ^ 32 else if h.isFin then rne0 (z.add 0 h.neg).1 % 2 ^ 32 else 0)) ∧
          (bd.int ≠ decide (f = 3) → traps 0x0C (.aacc g v a b f)))))) ∧
  (∀ (g : BitVec 3) (d a c : BitVec 6) (f : BitVec 4) (s : State), guardTrue g s = true → (me s).mrow.busy = false →
    wellFormed (.adrain g d a c f) = true →
    let y := (sreg a s).toNat
    let n := (sreg c s).toNat
    let rows := n / 2 ^ 16 % 2 ^ 16
    let cols := n % 2 ^ 16
    let bank := y / 2 ^ 15 % 64
    let row := y / 2 ^ 10 % 32
    let kc := coreAt (coreIn s.cur (y / 2 ^ 21 % 8)) s
    let i : Instr := .adrain g d a c f
    let traps := fun cs => exec i s = .next (takeTrap cs (sreg a s) s)
    let drains := fun (b : Option Band) (u : State) =>
      let r := drainRows kc b f.toNat bank (y % 1024) cols (n / 2 ^ 32) ((List.range rows).map (row + ·)) (sreg d s).toNat u
      (∀ t, r = .ok t → exec i s = .next t) ∧ (∀ v, r = .error v → exec i s = .next (takeTrap 0x09 (BitVec.ofNat 64 v) s))
    (2 ^ 24 ≤ y → traps 0x0C) ∧
    (y < 2 ^ 24 → ((rows = 0 ∨ cols = 0) → exec i s = .next s) ∧
      (rows ≠ 0 → cols ≠ 0 → ((32 < row + rows ∨ 1024 < y % 1024 + cols) → traps 0x0C) ∧
        (row + rows ≤ 32 → y % 1024 + cols ≤ 1024 →
          (find bank kc.bands = none → drains none (raise fAUR s)) ∧
          (∀ bd, find bank kc.bands = some bd → (bd.owner ≠ ownNumber s → traps 0x0E) ∧
            (bd.owner = ownNumber s → (bd.paired = true → bank % 2 = 1 → traps 0x0C) ∧
              ((bd.paired = false ∨ bank % 2 = 0) → drains (some bd) s))))))) ∧
  (∀ (g : BitVec 3) (v d a b : BitVec 6) (f : BitVec 2) (o : BitVec 1) (F : BitVec 4) (s : State), guardTrue g s = true →
    (me s).mrow.busy = true → (¬(f = 3 ∧ o = 1) → exec (.aread g v a b f o) s = .next (setPark .busy s) ∧
      exec (.awrite g v a b f o) s = .next (setPark .busy s)) ∧ exec (.aacc g v a b f) s = .next (setPark .busy s) ∧
    (wellFormed (.adrain g d a b F) = true → exec (.adrain g d a b F) s = .next (setPark .busy s))) ∧
  (∀ (c : Core) (b : Option Band) (f bank col n stride r a : Nat) (l : List Nat) (s : State),
    let e := fmtBits f / 8
    let bs := (drainRow c b f bank r col n).1
    let u := raise (drainRow c b f bank r col n).2 s
    let at_ := fun i j => accAt c (bank + i) r (col + j)
    let rne := fun (z : Machine.Num) => (writeElem f 0 false false z).1 % 2 ^ (8 * e)
    bs.length = n * e ∧
    (∀ j, j < n → let x := leNat ((bs.drop (j * e)).take e)
      (b = none → x = 0) ∧
      (∀ d, b = some d →
        (d.paired = true → x = rne ((fp32.dec false (at_ 0 j)).add 0 (fp32.dec false (at_ 1 j))).1) ∧
        (d.paired = false → d.int = false → x = rne (fp32.dec false (at_ 0 j))) ∧
        (d.paired = false → d.int = true → x = rne (ofInt false (signed 32 (at_ 0 j)) 0)))) ∧
    drainRows c b f bank col n stride [] a s = .ok s ∧
    (∀ t, store (a % 2 ^ 64) bs false u = .ok t →
      drainRows c b f bank col n stride (r :: l) a s = drainRows c b f bank col n stride l (a + stride) t) ∧
    (∀ v, store (a % 2 ^ 64) bs false u = .error v → drainRows c b f bank col n stride (r :: l) a s = .error v)) ∧
  (∀ (c : Core) (b : Option Band) (f bank col n stride a : Nat) (rows : List Nat) (pl : Nat → List (Place × Nat))
    (ms : Nat → List Nat) (s : State), s.upsets = [] →
    (∀ i, i < rows.length → placesOf ((a + i * stride) % 2 ^ 64) (n * (fmtBits f / 8)) false true false s =
      .ok (pl i, ms i) ∧ markLeaves true (ms i) s.mem = s.mem) →
    ∃ t, drainRows c b f bank col n stride rows a s = .ok t ∧ t.mem = s.mem ∧ (me t).bun.stores = (me s).bun.stores ++
      ((List.range rows.length).map fun i =>
        pstores (me s).bun.pos (pl i) (drainRow c b f bank (nth 0 i rows) col n).1).flatten)

/-! ## The domain unit and the fronts -/

/-- O44. The execution of a relation keeps every solution and adds no value (R240, R251): where the domains are
represented as R236 gives and hold values that satisfy the relation, none of those values is removed and no domain
is emptied. -/
def Obligations.RelationsKeepSolutions : Prop :=
  ∀ (r : Rel) (D : Map Dom) (v : Nat → Int), r.minor ≤ 7 → (r.minor = 7 → r.a ≤ 8) → (∀ i, domOk (dom D i)) →
    (∀ i ∈ r.names, (dom D i).has (v i) = true) → r.holds v →
    ∃ D1 ch, r.exec D = .ok (D1, ch) ∧ (∀ i ∈ r.names, (dom D1 i).has (v i) = true) ∧
      (∀ i w, (dom D1 i).has w = true → (dom D i).has w = true) ∧ (∀ i, domOk (dom D1 i))

/-- O45. A relation slot that leaves every domain a value completes: it narrows its operands, then propagates through
the standing entries that name a changed domain, its own new entry not marked by its own changes (R250); a full table
traps with 0x11 and 3, an emptied operand with 0x10. -/
def Obligations.RelationSlotsRun : Prop :=
  ∀ (g : BitVec 3) (d a b : BitVec 5) (st : BitVec 1) (s : State), guardTrue g s = true →
    let u := (me s).dom
    let runs : Nat → BitVec 5 → BitVec 5 → BitVec 5 → Instr → Prop := fun minor d a b i =>
      let es := if st = 1 then u.standing ++ [relBits minor d a b] else u.standing
      let own := if st = 1 then u.standing.length else 64
      (st = 1 ∧ 64 ≤ u.standing.length → exec i s = .next (takeTrap 0x11 3 s)) ∧
      (¬(st = 1 ∧ 64 ≤ u.standing.length) →
        (∀ e, (Rel.mk minor d.toNat a.toNat b.toNat).exec u.doms = .error e →
          exec i s = .next (takeTrap 0x10 (BitVec.ofNat 64 (0xFF * 256 + e)) s)) ∧
        (∀ D ch t, (Rel.mk minor d.toNat a.toNat b.toNat).exec u.doms = .ok (D, ch) →
          propagated es (marksOf ch own es 0) D s = .ok t → exec i s = .next t))
    runs 0 d a b (.dadd g d a b st) ∧ runs 1 d a b (.dsub g d a b st) ∧ runs 2 0 a b (.dle g a b st) ∧
    runs 3 0 a b (.dlt g a b st) ∧ runs 4 0 a b (.deq g a b st) ∧ runs 5 0 a b (.dne g a b st) ∧
    runs 6 d a b (.dmulk g d a b st) ∧
    (2 ≤ a.toNat → a.toNat ≤ 8 → d.toNat + a.toNat ≤ 32 → runs 7 d a 0 (.dalld g d a st))

/-- O46. The domain control slots: DSETS, DSETV and DREM set a domain and, where it changes and a standing entry names
it, propagate from the entries that do (R254), trapping with the failing entry and domain; one that leaves it no value
traps with 0x10; the reads of bounds, size and membership, checkpoints and their return, the clearing of the table; a
checkpoint too many, or none, traps with 0x11. -/
def Obligations.DomainControl : Prop :=
  ∀ (g : BitVec 3) (d : BitVec 5) (p : BitVec 4) (a : BitVec 6) (s : State), guardTrue g s = true →
    let u := (me s).dom
    let x := dom u.doms d.toNat
    let v := signed 32 ((sreg a s).toNat % 2 ^ 32)
    let w := signed 32 ((sreg a s).toNat / 2 ^ 32)
    let set : Dom → State := fun y => modDom (fun z => { z with doms := put Dom.full d.toNat y z.doms }) s
    (∀ y, marksOf [d.toNat] 64 u.standing 0 = 0 → y ≠ x →
      (Dom.span v w = some y → exec (.dsets g d a) s = .next (set y)) ∧
      (x.cut (.iv v v) = some y → exec (.dsetv g d a) s = .next (set y)) ∧
      (x.cut (.without v) = some y → exec (.drem g d a) s = .next (set y))) ∧
    (∀ y, marksOf [d.toNat] 64 u.standing 0 ≠ 0 → y ≠ x →
      let run := propagate u.standing (me s).dbound.toNat (marksOf [d.toNat] 64 u.standing 0)
        (put Dom.full d.toNat y u.doms) 0
      let slots : Host.Outcome State Fault Refusal → Prop := fun o =>
        (Dom.span v w = some y → exec (.dsets g d a) s = o) ∧ (x.cut (.iv v v) = some y → exec (.dsetv g d a) s = o) ∧
        (x.cut (.without v) = some y → exec (.drem g d a) s = o)
      (∀ r, run = .ok r → slots (.next ((if r.cut then raise fPCUT else id) (modDom (fun z =>
        { z with doms := r.doms, standing := u.standing, rexec := BitVec.ofNat 32 r.count }) s)))) ∧
      (∀ j e, run = .error (j, e) → slots (.next (takeTrap 0x10 (BitVec.ofNat 64 (j * 256 + e)) s)))) ∧
    (∀ i : Nat, (marksOf [d.toNat] 64 u.standing 0).testBit i = true ↔ ∃ e r, i ≠ 64 ∧ u.standing[i]? = some e ∧
      relFrom e = some r ∧ d.toNat ∈ r.names) ∧
    (Dom.span v w = some x → exec (.dsets g d a) s = .next s) ∧
    (x.cut (.iv v v) = some x → exec (.dsetv g d a) s = .next s) ∧
    (x.cut (.without v) = some x → exec (.drem g d a) s = .next s) ∧
    (w < v → exec (.dsets g d a) s = .next (takeTrap 0x10 (BitVec.ofNat 64 (0xFF * 256 + d.toNat)) s)) ∧
    (x.has v = false → domOk x → exec (.dsetv g d a) s = .next (takeTrap 0x10 (BitVec.ofNat 64 (0xFF * 256 + d.toNat)) s)) ∧
    ((∀ z, x.has z = true ↔ z = v) → domOk x →
      exec (.drem g d a) s = .next (takeTrap 0x10 (BitVec.ofNat 64 (0xFF * 256 + d.toNat)) s)) ∧
    (∀ t, propagated u.standing (2 ^ u.standing.length - 1) u.doms s = .ok t → exec (.dprop g) s = .next t) ∧
    exec (.dlo g d a) s = .next (lockS a (BitVec.ofInt 64 x.lo) s) ∧
    exec (.dhi g d a) s = .next (lockS a (BitVec.ofInt 64 x.hi) s) ∧
    exec (.dsize g d a) s = .next (lockS a (BitVec.ofNat 64 x.size) s) ∧
    exec (.dmemb g d p a) s = .next (lockP p (if x.has v then BitVec.allOnes 256 else 0) s) ∧
    exec (.dclrs g) s = .next (modDom (fun z => { z with standing := [] }) s) ∧
    (u.ckpts.length < 16 → exec (.dckpt g a) s = .next (modDom (fun z =>
      { z with ckpts := ⟨u.doms, u.standing.length, sreg a s⟩ :: u.ckpts }) s)) ∧
    (16 ≤ u.ckpts.length → exec (.dckpt g a) s = .next (takeTrap 0x11 1 s)) ∧
    (∀ c l, u.ckpts = c :: l →
      exec (.drest g a) s = .next (lockS a c.resume (modDom (fun z =>
        { z with doms := c.doms, standing := z.standing.take c.scount, ckpts := l }) s)) ∧
      exec (.ddrop g) s = .next (modDom (fun z => { z with ckpts := l }) s)) ∧
    (u.ckpts = [] → exec (.drest g a) s = .next (takeTrap 0x11 2 s) ∧ exec (.ddrop g) s = .next (takeTrap 0x11 2 s))

/-- O47. Front slots: FCFG with a legal word leaves an empty front, FCLR empties it, FINS and FMERGE offer tuples,
FREAD gives members in insertion order and zeros past the last, FCNT, FREJ and FSTAT read; FINS of more than 12 tuples
traps with 0x0C, a tuple that a full front under TRAP does not take with 0x12, the slot, its position and the front in
the trap value (Table 17.3); of a front not configured FINS, FMERGE and FREAD trap with 0x0C, FCNT, FREJ and FSTAT read
0 and FCLR does nothing; FMERGE of fronts of unlike DIMS or TYPE traps with 0x0C. That FINS and FREAD show their own
fault before that of a handle operand is log entry 27. -/
def Obligations.FrontSlotsRun : Prop :=
  ∀ (g f h : BitVec 3) (v a d : BitVec 6) (s : State), guardTrue g s = true →
    (frontOk (sreg a s).toNat = true → exec (.fcfg g f a) s = .next (setFront f ⟨sreg a s, [], 0, 0⟩ s)) ∧
    (frontOk (sreg a s).toNat = false → exec (.fcfg g f a) s = .next (takeTrap 0x0C (sreg a s) s)) ∧
    (∀ x, frontAt f s = some x →
      exec (.fclr g f) s = .next (setFront f ⟨x.cfg, [], 0, 0⟩ s) ∧
      exec (.fcnt g f d) s = .next (lockS d (BitVec.ofNat 64 x.members.length) s) ∧
      exec (.frej g f d) s = .next (lockS d (x.rej.setWidth 64) s) ∧
      exec (.fstat g f d) s = .next (lockS d (x.cfg ||| 0x8000000000000000#64) s) ∧
      (∀ y t z fl, (sreg a s).toNat ≤ 12 → srcOf v s = some (y, t) →
        Front.offer (tuples (sreg a s).toNat y) 0 (x, 0) = .ok (z, fl) →
        exec (.fins g f v a) s = .next (raise fl (setFront f z t))) ∧
      (∀ y z fl, frontAt h s = some y → (x.cfg ^^^ y.cfg).toNat % 8 = 0 →
        Front.offer (y.members.map fun m => (m.obj, m.pay)) 0 (x, 0) = .ok (z, fl) →
        exec (.fmerge g f h) s = .next (raise fl (setFront f z s))) ∧
      (∀ e t, destOf v s = some (e, t) → ∃ w : VWord, exec (.fread g f v a) s = .next (lockV e w t) ∧
        (∀ i j m, i < 12 → j < 4 → x.members[(sreg a s).toNat + i]? = some m →
          laneOf w 4 (5 * i + j) = (nth 0 j m.obj).toNat ∧ laneOf w 4 (5 * i + 4) = m.pay.toNat) ∧
        ∀ i, i < 64 → x.members.length ≤ (sreg a s).toNat + i / 5 ∨ 60 ≤ i → laneOf w 4 i = 0) ∧
      (12 < (sreg a s).toNat → exec (.fins g f v a) s = .next (takeTrap 0x0C (sreg a s) s)) ∧
      (∀ y t n, (sreg a s).toNat ≤ 12 → srcOf v s = some (y, t) →
        Front.offer (tuples (sreg a s).toNat y) 0 (x, 0) = .error n →
        exec (.fins g f v a) s = .next (takeTrap 0x12 (BitVec.ofNat 64 (n * 256 + f.toNat)) s)) ∧
      (∀ y n, frontAt h s = some y → (x.cfg ^^^ y.cfg).toNat % 8 = 0 →
        Front.offer (y.members.map fun m => (m.obj, m.pay)) 0 (x, 0) = .error n →
        exec (.fmerge g f h) s = .next (takeTrap 0x12 (BitVec.ofNat 64 (2 ^ 14 + n * 256 + f.toNat)) s)) ∧
      (∀ o q, x.arrive o q = none ↔ x.cfg.toNat / 2 ^ 16 % 4 = 3 ∧ (∀ z ∈ x.values o, z.isNan = false) ∧
        (∀ m ∈ x.members, x.dominates (x.values m.obj) (x.values o) = false ∧
          sameTuple (x.values m.obj) (x.values o) = false) ∧
        x.cap ≤ (x.members.filter fun m => !x.dominates (x.values o) (x.values m.obj)).length)) ∧
    ((frontAt f s = none ∨ frontAt h s = none) → exec (.fmerge g f h) s = .next (takeTrap 0x0C 0 s)) ∧
    (∀ x y, frontAt f s = some x → frontAt h s = some y → (x.cfg ^^^ y.cfg).toNat % 8 ≠ 0 →
      exec (.fmerge g f h) s = .next (takeTrap 0x0C 0 s)) ∧
    (frontAt f s = none → exec (.fclr g f) s = .next s ∧ exec (.fcnt g f d) s = .next (lockS d 0 s) ∧
      exec (.frej g f d) s = .next (lockS d 0 s) ∧ exec (.fstat g f d) s = .next (lockS d 0 s) ∧
      exec (.fins g f v a) s = .next (takeTrap 0x0C 0 s) ∧ exec (.fread g f v a) s = .next (takeTrap 0x0C 0 s))

/-- O48. An arrival leaves a front whose members do not dominate one another so: a dominated or equal tuple changes
nothing, one that is inserted is dominated by no member, and the members it dominates are gone. -/
def Obligations.FrontStaysNondominated : Prop :=
  ∀ (f g : Front) (o : List (BitVec 32)) (p : BitVec 32) (fl : Flags), f.arrive o p = some (g, fl) →
    let val := fun (m : Member) => f.values m.obj
    (∀ m ∈ f.members, ∀ n ∈ f.members, f.dominates (val m) (val n) = false) →
    (∀ m ∈ g.members, ∀ n ∈ g.members, f.dominates (val m) (val n) = false) ∧
    ((∃ m ∈ f.members, f.dominates (val m) (f.values o) = true) → g = f) ∧
    ((∃ m ∈ f.members, sameTuple (val m) (f.values o) = true) → g = f) ∧ g.cfg = f.cfg ∧
    (∀ n ∈ g.members, n ∉ f.members → (n.obj = o.take f.dims ∧ n.pay = p) ∧
      ∀ m ∈ g.members, f.dominates (f.values o) (val m) = false)

/-! ## Fences, work and queues -/

/-- O49. FENCE whose covered copies and operand reads are done releases, then acquires, at its scope, and else waits;
BAR releases, counts the arrival and holds its task while a participant has arrived at fewer barriers of its scope; at
the last arrival each that waits goes on, after its acquire (R96, R97). FWAIT of a full cell gives
its value and acquires, of another joins the waiters; FFILL of a cell not full writes the value, of which no store of an
earlier slot of its bundle takes any (R29), and wakes every waiter; of a full one it traps with 0x0C; FPOLL gives 1 or 0; a cell that holds no future traps with 0x0C. A FENCE of kind
E and a releasing BAR wait for the whole of the sequencer's matrix call, not for its operand reads only (log entry
28). -/
def Obligations.FencesBarriersAndFutures : Prop :=
  (∀ (g : BitVec 3) (o c : BitVec 2) (k : BitVec 4) (s : State), guardTrue g s = true →
      let rel := o.getLsbD 1
      let acq := o.getLsbD 0
      let waits := (rel || o == 0) && ((k.getLsbD 0 && copiesOf s.cur s) || (k.getLsbD 1 && (me s).mrow.busy))
      let s1 := if rel then release (myK s) c.toNat s else s
      (k ≠ 0 → waits = false → exec (.fence g o c k) s = .next (if acq then acquire (myK s) c.toNat s1 else s1)) ∧
      (k ≠ 0 → waits = true → exec (.fence g o c k) s = .next (setPark .busy s)) ∧
      (rel && (me s).mrow.busy = true → exec (.bar g o c) s = .next (setPark .retry s)) ∧
      (∀ t, (rel && (me s).mrow.busy) = false → find (me s).task s.tasks = some t → ∃ u, exec (.bar g o c) s =
          .next (settleBars (modMe (fun x =>
            { x with hold := .bar o.toNat c.toNat (t.arrived c.toNat + 1) }) u)) ∧
        u.seqs = s1.seqs ∧ u.mem = s1.mem ∧ ∃ w, find (me s).task u.tasks = some w ∧
          w.arrived c.toNat = t.arrived c.toNat + 1)) ∧
  (∀ (q o sc n : Nat) (s : State), let x := seqAt q s
      let t := settleBars s
      x.hold = .bar o sc n → (x.mode = .u → x.uhold.isBar = false) →
      (barDone x.task sc n s = false → (seqAt q t).hold = x.hold) ∧
      (barDone x.task sc n s = true → (x.mode = .u → (seqAt q t).hold = x.uhold ∧ (seqAt q t).uhold = .none) ∧
        (x.mode = .k → (seqAt q t).hold = .none) ∧
        (o % 2 = 1 → 1 ≤ sc → ∀ p ∈ (coreAt (q / 2) t).l1, p.2.have_ = p.2.dirty)) ∧ t.mem = s.mem ∧ t.tasks = s.tasks) ∧
  (∀ (tn sc n : Nat) (s : State), barDone tn sc n s = true ↔ ∀ k, find tn s.tasks = some k → ∀ p ∈ s.tasks, p.1 ≠ tn →
      together sc k p.2 = true → n ≤ p.2.arrived sc) ∧
  (∀ (sc : Nat) (a b : Task), together sc a b = true ↔ a.launch = b.launch ∧ a.inst = b.inst ∧ a.stage = none ∧
      b.stage = none ∧ (sc = 0 → a.grp = b.grp ∧ a.sid / 2 = b.sid / 2) ∧ (sc = 1 → a.grp = b.grp)) ∧
  (∀ (g : BitVec 3) (d a b : BitVec 6) (pa : Nat) (kd : PKind) (ms : List Nat) (s : State), guardTrue g s = true →
      (sreg a s).toNat % 16 = 0 → kd ≠ .io →
      place (viewOf s.cur s) s true true false false (sreg a s).toNat = .ok (.phys pa kd, ms) →
      homeStops s.cur (.phys pa kd) 16 s = false →
      let s0 := walked (sreg a s).toNat 16 s
      let s1 := toHome (myK s) pa 16 s0
      let c := cellState pa s1
      let p := noted false ms [] s1
      let r := release (myK s) 2 s0
      let r1 := toHome (myK s) pa 16 r
      (s.upsets = [] → s0 = s ∧ s1 = flushRange (myK s) pa 16 s ∧ r1 = flushRange (myK s) pa 16 r) ∧
      (cellBad c = true ↔ c % 4 = 3 ∨ c / 4 % 2 ^ 30 ≠ 0) ∧
      ((∀ pb w, (me s).wait ≠ .future pb (some w)) → cellBad c = false →
        (c % 4 = 1 → exec (.fwait g d a) s = .next (acquire (myK s) 2 (lockS d (BitVec.ofNat 64 (word8 s1.mem pa))
          (modMe (fun x => { x with wait := .none }) p)))) ∧
        (c % 4 ≠ 1 → exec (.fwait g d a) s = .next (setPark (.future pa) (joinFuture pa (noted true ms [] s1))))) ∧
      ((∀ pb w, (me s).wait ≠ .future pb (some w)) → cellBad c = true →
        exec (.fwait g d a) s = .next (takeTrap 0x0C (sreg a s) s)) ∧
      (∀ w, (me s).wait = .future pa (some w) → exec (.fwait g d a) s =
        .next (acquire (myK s) 2 (lockS d w (modMe (fun x => { x with wait := .none }) s)))) ∧
      ((me s).mrow.busy = false → cellBad (cellState pa r1) = false →
        (cellState pa r1 % 4 ≠ 1 → exec (.ffill g a b) s = .next (takeOver (.phys pa .so) 16 (readCells r1.mem pa 16)
          (fillFuture pa (sreg b s) (marked true ms r1)))) ∧
        (cellState pa r1 % 4 = 1 → exec (.ffill g a b) s = .next (takeTrap 0x0C (sreg a s) s))) ∧
      ((me s).mrow.busy = false → cellBad (cellState pa r1) = true →
        exec (.ffill g a b) s = .next (takeTrap 0x0C (sreg a s) s)) ∧
      ((me s).mrow.busy = true → exec (.ffill g a b) s = .next (setPark .busy s)) ∧
      (cellBad (cellState pa p) = false →
        (cellState pa p % 4 = 1 → exec (.fpoll g d a) s = .next (acquire (myK s) 2 (lockS d 1 p))) ∧
        (cellState pa p % 4 ≠ 1 → exec (.fpoll g d a) s = .next (lockS d 0 p))) ∧
      (cellBad (cellState pa p) = true → exec (.fpoll g d a) s = .next (takeTrap 0x0C (sreg a s) s)) ∧
      (∀ (v : Word) (old : List Byte) (t : State), takeOver (.phys pa .so) 16 old t = modMe (fun x => { x with bun :=
        { x.bun with
          stores := (x.bun.stores.map fun u =>
            if u.pos < x.bun.pos then u.minus (.phys pa .so) 16 else [u]).flatten
          undo := ⟨.phys pa .so, old, x.bun.pos⟩ :: x.bun.undo } }) t ∧ word8 (fillFuture pa v t).mem pa = v.toNat ∧
        cellState pa (fillFuture pa v t) % 4 = 1 ∧
        (∀ q, (seqAt q t).wait = .future pa none → (seqAt q (fillFuture pa v t)).wait = .future pa (some v))))

/-- O50. LAUNCH of an aligned record that can be read, by a task of a launch, returns its status: 4 of a record that
runs, 2 of an invalid one, 3 of a pipeline with no storage, 0 of one whose cost fits or that depends on its caller,
else 1 (that PARAM's low three bits count as zero fields is log entry 41; the caller and no cores in the refusal's
record, of which Table 18.4 gives ARG only, log entry 35); the record is read as it was before the bundle's atomics
(R29, R188); an accepted one releases, and waits for the caller's whole matrix call, as a QPUSH does (log entry 28;
what a QPUSH's order waits for is log entry 42). CWAIT gives the status of a record that is not running, and else
waits; LOGMARK records a mark. QPUSH to an open queue that no stage fills, or by a member of the stage that fills it in
its turn, enters an element while the queue has room, and to the former waits while it has none and no reserve entry is
granted; QPOP and QPEEK give an element or wait, for an element and for room in a handle that they name, so that a request
can land (R305); QSTAT reads the status word; an unknown queue traps with 0x0C before
any handle operand does (log entry 27), and QSTAT reads 0. -/
def Obligations.WorkAndQueueSlotsRun : Prop :=
  (∀ (g : BitVec 3) (d a : BitVec 6) (pa : Nat) (kd : PKind) (ms : List Nat) (s : State), guardTrue g s = true →
      (sreg a s).toNat % 64 = 0 →
      place (viewOf s.cur s) s true false false false (sreg a s).toNat = .ok (.phys pa kd, ms) →
      homeStops s.cur (.phys pa kd) 64 s = false →
      let r := (sreg a s).toNat
      let t := toHome (myK s) pa 64 (noted false ms [] (walked r 64 s))
      let b := (me s).bun.undo.foldl (fun l u => u.over (.phys pa kd) l) (readCells t.mem pa 64)
      (∀ c, myLaunch s = some c →
        let u := release (myK s) 2 t
        let pl := if recPipe b = 0 then none else pipeFrom c.sag (me s).vdev (recPipe b) (undone u)
        let take := fun (dep : Option Nat) => acceptLaunch c.sag (me s).vdev c.qcb r b
          ⟨false, some (me s).task, dep, c.dcap⟩ pl (pipeSeen c.sag (me s).vdev (recPipe b) pl u)
        (recState b = 1 → exec (.launch g d a) s = .next (lockS d 4 t)) ∧
        (recState b ≠ 1 → recOk b = false → exec (.launch g d a) s = .next (lockS d 2 t)) ∧
        (recState b ≠ 1 → recOk b = true →
          (recPipe b ≠ 0 → pl = none → exec (.launch g d a) s = .next (lockS d 2 t)) ∧
          (∀ x, pl = some x → storageMax < storageUsed (leadDie c.sag t) t + storageOf x.2 →
            exec (.launch g d a) s = .next (lockS d 3 t)) ∧
          ((recPipe b = 0 ∨ ∃ x, pl = some x ∧ storageUsed (leadDie c.sag t) t + storageOf x.2 ≤ storageMax) →
            (quotaFits c.sag c.qcb (recQcost b) t = true → (me s).mrow.busy = false →
              exec (.launch g d a) s = .next (lockS d 0 (take none))) ∧
            (quotaFits c.sag c.qcb (recQcost b) t = false → recDep b = true → recQcost b ≤ c.dcap →
              (me s).mrow.busy = false → exec (.launch g d a) s = .next (lockS d 0 (take (some (me s).task)))) ∧
            (quotaFits c.sag c.qcb (recQcost b) t = false → (recDep b = false ∨ c.dcap < recQcost b) →
              exec (.launch g d a) s = .next (lockS d 1 (qcbCount c 88 1
                (trace c.sag 7 0 (myTag s) noCore noCore r (taskTick (me s).task s) t)))) ∧
            ((quotaFits c.sag c.qcb (recQcost b) t = true ∨ recDep b = true ∧ recQcost b ≤ c.dcap) →
              (me s).mrow.busy = true → exec (.launch g d a) s = .next (setPark .busy s))))) ∧
      (recState b = 1 → exec (.cwait g d a) s = .next (setPark (.cwait r) s)) ∧
      (recState b = 0 → exec (.cwait g d a) s = .next (lockS d (BitVec.ofNat 64 (wordAt b 6)) t)) ∧
      (2 ≤ recState b → exec (.cwait g d a) s =
        .next (acquire (myK s) 2 (lockS d (BitVec.ofNat 64 (wordAt b 6)) t)))) ∧
  (∀ (g : BitVec 3) (a : BitVec 6) (s : State), guardTrue g s = true →
      exec (.logmark g a) s = .next (trace (mySagN s) 8 0 (myTag s) ((me s).seqid.toNat / 2) ((me s).seqid.toNat / 2)
        ((sreg a s).toNat % 2 ^ 48) (taskTick (me s).task s) s)) ∧
  (∀ (g : BitVec 3) (v d a : BitVec 6) (s : State), guardTrue g s = true →
      (queueOf (sreg a s).toNat s = none →
        exec (.qpush g v a) s = .next (takeTrap 0x0C (sreg a s) s) ∧
        exec (.qpop g v a) s = .next (takeTrap 0x0C (sreg a s) s) ∧
        exec (.qpeek g v a) s = .next (takeTrap 0x0C (sreg a s) s) ∧ exec (.qstat g d a) s = .next (lockS d 0 s)) ∧
      (∀ pn q, queueOf (sreg a s).toNat s = some (pn, q) →
        let p := pipeAt pn s
        let oq := queueAt pn q s
        exec (.qstat g d a) s = .next (lockS d (BitVec.ofNat 64 oq.status) s) ∧
        (∀ x t, p.source q = none → p.closed = false → srcOf v s = some (x, t) →
          (oq.elems.length < oq.cap → (me s).mrow.busy = false → exec (.qpush g v a) s =
            .next (enter pn q oq.next (leBytes oq.size x.toNat) (release (myK s) 2 t))) ∧
          (oq.elems.length < oq.cap → (me s).mrow.busy = true → exec (.qpush g v a) s = .next (setPark .retry s)) ∧
          (oq.cap ≤ oq.elems.length → grantHeld pn q s = false →
            exec (.qpush g v a) s = .next (setPark (.qpush pn q false) s))) ∧
        (∀ u st x t, p.source q = some u → myStage pn s = some st → st.stage = u → srcOf v s = some (x, t) →
          (lowerLive pn u st.sn s = true → exec (.qpush g v a) s = .next (setPark (.qpush pn q true) s)) ∧
          (lowerLive pn u st.sn s = false → oq.elems.length < oq.cap → (me s).mrow.busy = false →
            exec (.qpush g v a) s = .next (enter pn q st.sn (leBytes oq.size x.toNat) (release (myK s) 2 t)))) ∧
        (∀ u st e t, p.sink q = some u → myStage pn s = some st → st.stage = u → destOf v s = some (e, t) →
          exec (.qpeek g v a) s = .next (acquire (myK s) 2 (lockV e (BitVec.ofNat 2048 (leNat st.elem)) t)) ∧
          (st.popped = false → exec (.qpop g v a) s = .next (acquire (myK s) 2 (lockV e
            (BitVec.ofNat 2048 (leNat st.elem)) (modTask (me s).task (fun k => { k with stage := some { st with popped := true } }) t)))) ∧
          (st.popped = true → exec (.qpop g v a) s = .next (takeTrap 0x0C (sreg a s) s))) ∧
        (∀ h hd, (p.sink q = none ∨ ∃ u st, p.sink q = some u ∧ myStage pn s = some st ∧ st.stage = u ∧ st.popped = false) →
          handleOf v = some h → find h (me s).handles = some hd → hd.feed = false → hd.len ≤ hd.filled →
          exec (.qpop g v a) s = .next (setPark .retry s) ∧ exec (.qpeek g v a) s = .next (setPark .retry s)) ∧
        (∀ e t, p.sink q = none → destOf v s = some (e, t) →
          (headOf s.cur oq.elems = none → exec (.qpop g v a) s = .next (setPark .retry s) ∧
            exec (.qpeek g v a) s = .next (setPark .retry s)) ∧
          (∀ i m, headOf s.cur oq.elems = some i → oq.elems[i]? = some m →
            let w := BitVec.ofNat 2048 (leNat m.data)
            exec (.qpeek g v a) s = .next (acquire (myK s) 2 (lockV e w t)) ∧
            exec (.qpop g v a) s = .next (acquire (myK s) 2 (lockV e w (pipeSettle pn (modQueue pn q (fun x =>
              { x with elems := x.elems.eraseIdx i }) (modBun (fun b => { b with popped := some (pn, q, i) }) t)))))))))

/-! ## Events -/

/-- O51. The events of a bundle's life: BUNDLE_DISPATCH places the slots of the bundle at the program counter or takes
its fault, every bundle before it committed; BUNDLE_COMMIT commits the bundle in execution, else the oldest that the
queues hold; a sequencer 1 that has been refused 16 times is to issue alone; a pause ends, a trap that is due is taken,
an interlocked result arrives before it must. -/
def Obligations.SequencerEvents : Prop :=
  ∀ (q k cause : Nat) (v : Word) (s : State),
    (mayDispatch q s = true → let f := fetched q s
      (∀ t, dispatch q f = .ok t → exec (.bundleDispatch q) s = .next t) ∧
      (∀ c w, dispatch q f = .error (c, w) → matrixBusy q f = false →
        exec (.bundleDispatch q) s = .next (trapEntry q (trapCause q c w f).1 (trapCause q c w f).2 (seqAt q f).pc
          (drain q { f with cur := q }))) ∧
      f.seqs = s.seqs ∧ f.sags = s.sags ∧ f.tasks = s.tasks) ∧
    ((seqAt q s).bun.words ≠ [] → exec (.bundleCommit q) s = .next (commit q { s with cur := q })) ∧
    (∀ b l, (seqAt q s).bun.words = [] → (seqAt q s).flight = b :: l →
      max (seqAt q s).accLag (seqAt q s).exLag = (seqAt q s).flight.length → ∃ n u,
        exec (.bundleCommit q) s = .next (commitOldest q (n + 1) u) ∧ (seqAt q u).flight = b :: l ∧ u.mem = s.mem ∧
        u.cores = s.cores ∧ (seqAt q u).accLag ≤ l.length ∧ (seqAt q u).exLag ≤ l.length ∧
        ((seqAt q s).exLag ≤ exLimit (seqAt q s).accLag (seqAt q s).flight → n = 0)) ∧
    (∀ b l u, (seqAt q u).flight = b :: l →
      commitOldest q 1 u = effectsOf q b (modSeq q (fun x => { x with flight := l }) u)) ∧
    (16 ≤ (coreAt k s).refused → mayDispatch (2 * k + 1) s = true → ∃ t, exec (.sequencer1StarvationIssue k) s = .next t ∧
      (coreAt k t).starved = true ∧ (coreAt k t).refused = 0 ∧ t.seqs = s.seqs ∧ t.mem = s.mem) ∧
    ((seqAt q s).pause ≠ 0 → exec (.pauseHoldEnd q) s = .next (modSeq q (fun x => { x with pause := 0 }) s)) ∧
    (∀ a, trapDue q s = some (cause, v, a) →
      exec (.trapEntry q cause v) s =
        .next (trapEntry q cause v a { (if mayDispatch q s then fetched q s else s) with cur := q })) ∧
    (∀ p l, (seqAt q s).inflight = p :: l → p.lock = true →
      exec (.accessPerformed q) s = .next (landOne q p (modSeq q (fun x => { x with inflight := l }) s)))

/-- O52. Interrupts and pre-emption (R234, Table 12.6): a request and a source become pending, and a landing is chosen:
now at a wait or a barrier, at the end of the current loop, else at the next commit or now; the landing bundle's
commit, or 65,536 cycles in a loop, makes it due; no bundle is dispatched then, and at the boundary in U mode the
request is taken with cause 0x20, else the lowest pending source with cause 0x21. That an interrupt alone lands as with
no loop, and that a request chooses a landing of its own in place of an interrupt's, is log entry 78, that a frozen
bundle in its wait commits first log entry 79. -/
def Obligations.InterruptsAndPreemption : Prop :=
  (∀ x : Seq, x.run = .running → x.mode = .u → x.pending = true →
      (x.wait.lands = true ∨ x.hold.isBar = true → x.landing = .now) ∧
      (x.wait.lands = false → x.hold.isBar = false →
        (∀ e, (x.preq || x.halt) = true → x.loop = some e → x.landing = .loop e.stop) ∧
        ((x.preq || x.halt) = false ∨ x.loop = none → x.landing = if x.wait = .busy then .next else .now))) ∧
  (∀ x y : Seq, x.mode = .u →
      (y.land = .next → landMark x y = .now) ∧ (y.land = .loop x.bun.addr → landMark x y = .now) ∧
      (∀ a, y.land = .loop a → a ≠ x.bun.addr → y.loops.length = x.loops.length → landMark x y = .loop a) ∧
      (∀ a e, y.land = .loop a → a ≠ x.bun.addr → y.loops.length < x.loops.length → y.loop = some e →
        landMark x y = .loop e.stop) ∧
      (∀ a, y.land = .loop a → a ≠ x.bun.addr → y.loops.length < x.loops.length → y.loop = none →
        landMark x y = .now)) ∧
  (∀ (q src : Nat) (s : State), let x := seqAt q s
    (x.land = .now → mayDispatch q s = false) ∧
    (x.run = .running → x.preq = false → ∃ t, exec (.preemptionRequest q) s = .next t ∧
      (seqAt q t).preq = true ∧ (seqAt q t).freeze = 0 ∧
      (seqAt q t).land = if x.halt = true ∧ x.land ≠ .none then x.land
        else Seq.landing { x with preq := true, freeze := 0 }) ∧
    (x.run = .running → x.preq = true → exec (.preemptionRequest q) s = .next s) ∧
    (src ≤ 2 → ∃ t, exec (.interrupt q src) s = .next t ∧ (seqAt q t).pirq = x.pirq ||| BitVec.ofNat 3 (2 ^ src) ∧
      (seqAt q t).evt = x.evt ||| 4 ∧ t.mem = s.mem) ∧
    (atBoundary q s = true → x.halt = false → x.preq = false → x.pirq ≠ 0 → ∃ (n : Nat) (u : State),
      exec (.preemptionLanding q) s = .next (trapEntry q 0x21 (BitVec.ofNat 64 n) x.pc u) ∧
      x.pirq.getLsbD n = true ∧ (∀ m, m < n → x.pirq.getLsbD m = false) ∧
      (seqAt q u).pirq.getLsbD n = false ∧ u.mem = s.mem) ∧
    (atBoundary q s = true → x.halt = false → x.preq = true → ∃ u : State, (seqAt q u).preq = false ∧
      exec (.preemptionLanding q) s = .next (trapEntry q 0x20 0 x.pc u)) ∧
    (∀ e, x.land = .loop e → x.mode = .u → 65536 ≤ x.freeze → exec (.preemptionFreeze q) s =
      .next (modSeq q (fun y => { y with land := if x.wait = .busy then .next else .now }) s)))

/-- O53. Copies: one starts on a free channel whose sequencer has no matrix call in the unit; its elements are
delivered in pattern order, one or more a step, up to the first that fails, the tables they go by as they were when the
copy was started but for what memory errors have taken (R178); it completes with its ID and an event; a fill's
completion makes FILLED of its handle grow by one; an add-on-write's pass adds its gathered values, each to its element
in their order, as a whole, and one that collides or finds no band adds none. -/
def Obligations.CopyEvents : Prop :=
  (∀ (k n : Nat) (r : CRun) (s : State),
      let r1 := fun (sat : Bool) =>
        { r with pos := r.pos + 1, satn := min (r.satn + (if sat then 1 else 0)) 0xFFFFFFFF }
      deliverElems k 0 r s = (r, s) ∧
      (∀ e s1, elemRead k r r.pos s = .error (e, s1) →
        deliverElems k (n + 1) r s = ({ r with err := e, stop := true }.after s s1, s1)) ∧
      (∀ v sat s1, elemRead k r r.pos s = .ok (v, sat, s1) → (tAccw r.tmpl && r.copy.fill.isNone) = false →
        (∀ s2, elemWrite k r r.pos (leBytes (tEd r.tmpl) v) s1 = .ok s2 →
          deliverElems k (n + 1) r s = deliverElems k n ((r1 sat).after s s2) s2) ∧
        (∀ e s2, elemWrite k r r.pos (leBytes (tEd r.tmpl) v) s1 = .error (e, s2) →
          deliverElems k (n + 1) r s = ({ r with err := e, stop := true }.after s s2, s2))) ∧
      (∀ v sat s1, elemRead k r r.pos s = .ok (v, sat, s1) → (tAccw r.tmpl && r.copy.fill.isNone) = true →
        (∀ o, accOffset r.tmpl r.pos = .ok o → deliverElems k (n + 1) r s =
          deliverElems k n ({ r1 sat with gather := r.gather ++ [(o, BitVec.ofNat 32 v)] }.after s s1) s1) ∧
        (∀ e, accOffset r.tmpl r.pos = .error e →
          deliverElems k (n + 1) r s = ({ r with err := e, stop := true }.after s s1, s1)) ∧
        (∀ t : State, s.upsets = [] → r.after s t = r))) ∧
  (∀ (k ch : Nat) (collides : Bool) (s : State), let c := look Chan.init ch (coreAt k s).chans
    (∀ p l, c.run = none → c.queue = p :: l → matrixBusy p.q s = false →
      ∃ t r, exec (.copyStart k ch) s = .next t ∧ (look Chan.init ch (coreAt k t).chans).run = some r ∧
        { r.copy with tmem := p.tmem } = p ∧ r.pos = 0 ∧ (s.upsets = [] → r.copy = p) ∧
        (p.fill.isSome = true → r.deliv = 0)) ∧
    (∀ r, c.run = some r → r.stop = false → r.rem = none → r.pos < tTotal r.tmpl →
      ∃ n, 1 ≤ n ∧ r.pos + n ≤ tTotal r.tmpl ∧ exec (.copyElementDelivery k ch) s =
        .next (setRun k ch (some (deliverElems k n r s).1) (deliverElems k n r s).2)) ∧
    (∀ r, c.run = some r → copyOver r = true → r.copy.fill = none → ∃ t, exec (.copyComplete k ch) s = .next t ∧
      (look Chan.init ch (coreAt k t).chans).run = none ∧ (look Chan.init ch (coreAt k t).chans).done = r.copy.id ∧
      (seqAt (2 * k) t).evt.getLsbD 0 = true ∧ (seqAt (2 * k + 1) t).evt.getLsbD 0 = true) ∧
    (∀ r f h, c.run = some r → copyOver r = true → r.copy.fill = some f → find f.h (seqAt f.q s).handles = some h →
      h.serial = f.serial → ∃ t g, exec (.streamFillComplete k ch) s = .next t ∧
        (look Chan.init ch (coreAt k t).chans).done = r.copy.id ∧ find f.h (seqAt f.q t).handles = some g ∧
        g.filled = h.filled + 1 ∧ g.serial = h.serial ∧ (seqAt f.q t).evt.getLsbD 1 = true) ∧
    (∀ r, c.run = some r → passDue r = true → let a := (accBank k r.tmpl).1
      let b := (accBank k r.tmpl).2
      (∀ d, find b (coreAt a s).bands = some d → tDfmt r.tmpl = (if d.int then 9 else 0) →
        ∃ t, exec (.addOnWritePass k ch false) s = .next t ∧
          (∀ o, o < 32768 → (look 0 (b * 32768 + o) (coreAt a t).acc).toNat =
            (r.gather.filter fun p => p.1 == o).foldl (fun v p => (if d.int then
                (limit 32 (signed 32 v + signed 32 p.2.toNat)).1
              else (fold32 false v (fp32.dec false p.2.toNat)).1) % 2 ^ 32)
              (look 0 (b * 32768 + o) (coreAt a s).acc).toNat)) ∧
      ((collides = true → unitWrites a b (tPhase r.tmpl) s = true) →
        (collides = true ∨ find b (coreAt a s).bands = none) → ∃ t, exec (.addOnWritePass k ch collides) s = .next t ∧
          ∀ j, (coreAt j t).acc = (coreAt j s).acc)))

/-- O54. Invalidations, special writes and the L1: a TLB invalidation is acknowledged once its copies are complete and
every access that the saggar's sequencers have dispatched is performed, and lets its sequencer go; BANKROLE, VWB and
TCAUSE writes have their effects; a dirty line may go home, a clean one go. That a write of TCAUSE with LATCH clear
discards the latched faults at once is log entry 13. -/
def Obligations.CoreEvents : Prop :=
  ∀ (q k sag ln : Nat) (v : Word) (s : State),
    (∀ i l, (sagAt sag s).invals = i :: l → i.settled s = true → ∃ t, exec (.tlbInvalidationAck sag) s = .next t ∧
      (∀ r, i.q = some r → (seqAt r t).tlb = false) ∧
      (∀ r, (seqAt r s).sagid.toNat = sag → (seqAt r t).flight = []) ∧
      ((∀ p ∈ s.seqs, p.2.flight = []) → t.mem = s.mem) ∧
      ((find sag s.sags).isSome = true → (sagAt sag t).invals = l)) ∧
    (∃ t, exec (.stage2Invalidation sag) s = .next t ∧ t.mem = s.mem ∧ t.seqs = s.seqs ∧
      ((find sag s.sags).isSome = true → (sagAt sag t).invals = (sagAt sag s).invals ++ [⟨none, markers sag s⟩])) ∧
    ((writesCsr (2 * k) 0x040 v s = true ∨ writesCsr (2 * k + 1) 0x040 v s = true) → rolesOk v = true →
      copiesRun k s = false → ∃ t, exec (.bankroleWrite k v) s = .next t ∧ (coreAt k t).bankrole = v ∧ t.seqs = s.seqs) ∧
    (writesCsr q 0x012 v s = true → vwbOk q v s = true →
      exec (.vwbWrite q v) s = .next (modSeq q (fun x => { x with vwb := v.setWidth 12 }) s)) ∧
    (∀ op r, (seqAt q s).bun.ctl = .csr 0x021 op r → (csrNew op (tcauseWord (seqAt q s)) r).getLsbD 62 = false →
      exec (.tcauseLatchDiscard q) s = .next (modSeq q (fun x => { x with latches := [] }) s)) ∧
    (∀ l, find ln (coreAt k s).l1 = some l →
      (∃ t, exec (.l1WriteBackOrDrop k ln true) s = .next t ∧
        (s.upsets = [] → ∀ i, i < 128 → l.dirty.getLsbD i = true → byteAt (128 * ln + i) t = l.byte i) ∧
        (∀ a, a / 128 ≠ ln → byteAt a t = byteAt a s) ∧
        (∀ m, find ln (coreAt k t).l1 = some m → m.have_ = BitVec.allOnes 128 ∧ m.dirty = 0)) ∧
      (l.dirty = 0 → ∃ t, exec (.l1WriteBackOrDrop k ln false) s = .next t ∧ t.mem = s.mem ∧
        find ln (coreAt k t).l1 = none))

/-- O55. The kiln: a stream's record is accepted or refused, and an overfull ring breaks its stream; the first work in
placement order that fits is placed, a gang or a pipeline's core; windows are reserved in rank order; tasks are
restored, each with the registers of its image; an element leaves its queue and a stage task starts with it, with its sequence number, on its consumer's
sequencer 0; pipelines are rebalanced; probes are sent, return and are dropped; commands are answered: a rescan, the
cancelling of a launch (nothing more of it is placed, each task leaves its sequencer), the load of an image, the closing
of a pipeline; slots end. The model's own: log entry 45, result 2 of a number that is no command, of command 2 whose ARG
names no live launch, of command 3 whose image cannot be read and of command 4 whose ARG names no live pipeline, and the
key that the second signature pair of an image is checked under; log entry 35, the launch's tag and REASON 0 in the
record of a cancelling. -/
def Obligations.KilnEvents : Prop :=
  ∀ (sag x ln n q pn st : Nat) (s : State),
    (x < nqcb sag s → (sagAt sag s).broken.contains x = false →
      let r := ringAt sag x s
      let used := (r.tail + 2 ^ 64 - r.head) % 2 ^ 64
      (∀ t, headStep sag r s = some t → used ≠ 0 → used ≤ r.cap → exec (.streamRecordAccept sag x) s = .next t) ∧
      (0 < r.cap → r.cap < used → ∃ t, exec (.streamRecordAccept sag x) s = .next t ∧ t.launches = s.launches ∧
        ((find sag s.sags).isSome = true → (sagAt sag t).broken = (sagAt sag s).broken ++ [x]))) ∧
    (∀ a pl l, nextPlacement sag s = some (.gang ln n a pl) → find ln s.launches = some l →
      exec (.gangPlacement sag ln n) s = .next (placeGang ln n l a pl s)) ∧
    (∀ u i c l, nextPlacement sag s = some (.core ln pn u i c) → find ln s.launches = some l →
      exec (.gangPlacement sag ln 0) s = .next (giveCore l pn u i c s)) ∧
    (∀ w l, nextReservation sag s = some (ln, n, w) → find ln s.launches = some l →
      exec (.backfillReservation sag ln n) s =
        .next (modSag sag (fun g => { g with windows := g.windows ++ [⟨ln, n, w, l.gang⟩] }) s)) ∧
    (mayRestore n q s = true → outranked n q s = false → exec (.contextRestore n q) s = .next (restoreTask n q s)) ∧
    (∀ p i ci core e l a r, find pn s.pipes = some p → nextElement pn st s = some (i, ci, core) →
      let y := nth Stage.none_ st p.stages
      (queueAt pn y.qin s).elems[i]? = some e → find p.launch s.launches = some l → freeAreas p.sag 1 s = a :: r →
      ∃ t k, exec (.elementDelivery pn st) s = .next t ∧
        (queueAt pn y.qin t).elems = (queueAt pn y.qin s).elems.eraseIdx i ∧
        find s.serial t.tasks = some k ∧ k.stage = some ⟨pn, st, ci, e.sn, e.data, false⟩ ∧ k.ended = false ∧
        k.launch = p.launch ∧ k.ctx = a ∧ k.on = some (2 * physCore p.sag core s) ∧
        let z := seqAt (2 * physCore p.sag core s) t
        z.run = .running ∧ z.task = s.serial ∧ z.mode = .u ∧ z.pc = y.entry ∧
          z.rs 1 = BitVec.ofNat 64 (queueAt pn y.qin s).va ∧ z.rs 2 = BitVec.ofNat 64 (queueAt pn y.qout s).va ∧
          z.rs 3 = BitVec.ofNat 64 ci ∧ z.rs 4 = BitVec.ofNat 64 e.sn) ∧
    (∀ p, find pn s.pipes = some p → p.det = false →
      exec (.freeModeRebalance pn) s = .next (rebalance pn 0 (some p.tick) s)) ∧
    (∀ (r : Ring), let va := r.ring + 64 * (r.head % r.cap)
      let no := fun reason => some (agentPut sag 0 (r.qcb + 16) ((r.head + 1) % 2 ^ 64)
        (refuseRecord sag r.vdev va reason s))
      (agentRead sag r.vdev va 64 s = none → headStep sag r s = no 4) ∧
      (∀ b, agentRead sag r.vdev va 64 s = some b →
        let pl := if recPipe b = 0 then none else pipeFrom sag r.vdev (recPipe b) s
        let need := storageOf (pl.getD ([], [])).2
        let room := storageUsed (leadDie sag s) s + need ≤ storageMax
        ((recOk b = false ∨ recPipe b ≠ 0 ∧ pl = none) → headStep sag r s = no 4) ∧
        (recOk b = true → (recPipe b = 0 ∨ pl ≠ none) → (storageMax < need → headStep sag r s = no 5) ∧
          (need ≤ storageMax →
            (quotaFits sag r.qcb (recQcost b) s = true → room → headStep sag r s =
              some (agentPut sag 0 (r.qcb + 16) ((r.head + 1) % 2 ^ 64) (acceptLaunch sag r.vdev r.qcb va b
                ⟨true, none, none, 0⟩ pl (headSeen sag r pl (recPipe b) s)))) ∧
            ((quotaFits sag r.qcb (recQcost b) s = false ∨ ¬room) → headStep sag r s = none))))) ∧
    (∀ (reason va vdev : Nat) (b : List Byte), agentRead sag vdev va 64 s = some b → refuseRecord sag vdev va reason s =
      agentPut sag vdev (va + 48) (wordAt b 6 / 2 ^ 32 * 2 ^ 32 + reason * 256 + 3) s) ∧
    (let R := byRank sag s
     let later := fun (a b : Launch) => a.prio < b.prio ∨ a.prio = b.prio ∧ (b.tstamp.toNat < a.tstamp.toNat ∨
        a.tstamp = b.tstamp ∧ b.seqno < a.seqno)
     R.Pairwise (fun a b => ¬later a.2 b.2) ∧
      (∀ z, z ∈ R ↔ z ∈ s.launches ∧ z.2.sag = sag ∧ mayPlace z.2 s = true) ∧
      (∀ i a pl, nextPlacement sag s = some (.gang ln i a pl) → ∃ l l1 l2 g1 g2, R = l1 ++ (ln, l) :: l2 ∧ l.pipe = none ∧
        nextGangs l = g1 ++ (i, a) :: g2 ∧ fitGang l ln i a s = some pl ∧ (∀ g ∈ g1, fitGang l ln g.1 g.2 s = none) ∧
        ∀ z ∈ l1, (z.2.pipe = none → ∀ g ∈ nextGangs z.2, fitGang z.2 z.1 g.1 g.2 s = none) ∧
          (z.2.pipe ≠ none → nextCore z.2 s = none)) ∧
      (∀ u i c, nextPlacement sag s = some (.core ln pn u i c) → ∃ l l1 l2, R = l1 ++ (ln, l) :: l2 ∧ l.pipe = some pn ∧
        nextCore l s = some (u, i, c) ∧
        ∀ z ∈ l1, (z.2.pipe = none → ∀ g ∈ nextGangs z.2, fitGang z.2 z.1 g.1 g.2 s = none) ∧
          (z.2.pipe ≠ none → nextCore z.2 s = none)) ∧
      (∀ l i a pl, fitGang l ln i a s = some pl → pl.length = l.gang ∧ ∀ z ∈ pl, z.2.length = l.group ∧
        clusterOpen l.sag l.vdev (some (ln, i)) z.1 s = true ∧
        ∀ j ∈ z.2, (seqAt (physCluster l.sag z.1 s * 16 + j) s).run = .off)) ∧
    (∀ (i : Nat) (l : Launch) (a : Option Nat) (pl : List (Nat × List Nat)),
      let its := gangItems pl (freeAreas l.sag (l.gang * l.group) s)
      let at_ := fun (y : Nat × Nat × Nat × Nat × Nat) => physCluster l.sag y.2.2.1 s * 16 + y.2.2.2.1
      let t := placeGang ln i l a pl s
      let par := fun (m : Nat) => BitVec.ofNat 64 (agentWord l.sag l.vdev (l.param.toNat + 8 * m) s)
      (its.map at_).Nodup →
      (∀ y ∈ its, ∃ tn k, find tn t.tasks = some k ∧ k.launch = ln ∧ k.inst = i ∧ k.grp = y.1 ∧ k.idx = y.2.1 ∧
        k.sid = y.2.2.1 * 16 + y.2.2.2.1 ∧ k.ctx = y.2.2.2.2 ∧ k.on = some (at_ y) ∧ k.ended = false ∧
        let z := seqAt (at_ y) t
        z.run = .running ∧ z.task = tn ∧ z.mode = .u ∧ z.pc = l.entry ∧ (∀ m, m < 15 → z.rs (m + 1) = par m) ∧
          z.rs 16 = if 0 < l.ngrid then BitVec.ofNat 64 i else par 15) ∧
      (∀ m, find ln s.launches = some m → ∃ k, find ln t.launches = some k ∧
        (a = none → k.next = m.next + 1 ∧ k.deal = m.deal) ∧
        (∀ c, a = some c → k.next = m.next ∧ let d := look (0, 0, none) c m.deal
          k.deal = upd c (if d.2.2 = some i then (d.1, d.2.1, none) else (d.1 + 1, d.2.1, d.2.2)) m.deal))) ∧
    (∀ (l : Launch) (u i c : Nat) (p : Pipe), find pn s.pipes = some p → u < p.stages.length →
      let t := giveCore l pn u i c s
      (∃ p1, find pn t.pipes = some p1 ∧ nth none i (nth Stage.none_ u p1.stages).cores = some c ∧
        ∀ v, v ≠ u → nth Stage.none_ v p1.stages = nth Stage.none_ v p.stages) ∧
      (coreAt (physCore l.sag c s) t).fronts = [] ∧ t.tasks = s.tasks ∧ t.seqs = s.seqs) ∧
    (∀ k l, find n s.tasks = some k → find k.launch s.launches = some l →
      let s1 := acquire (q / 2) 3 s
      let x := seqFrom (areaReader k s1) k n l.vdev s1
      let t := restoreTask n q s
      let z := seqAt q t
      (∃ k1, find n t.tasks = some k1 ∧ k1.on = some q ∧ k1.yielded = false ∧ k1.ended = k.ended ∧ k1.sid = k.sid) ∧
      z.run = .running ∧ z.task = n ∧ z.mode = .u ∧ z.pc = x.pc ∧ z.s = x.s ∧ z.p = x.p ∧ z.m = x.m ∧ z.loops = x.loops ∧
      z.callLev = x.callLev ∧ z.rmode = x.rmode ∧ z.rrb = x.rrb ∧ z.vwb = x.vwb ∧ z.fflags = x.fflags ∧ z.ltick = x.ltick ∧
      z.dbound = x.dbound ∧ z.dom = x.dom ∧ z.latches = x.latches ∧ z.mrow = x.mrow ∧ z.frec = x.frec ∧
      z.pirq = k.pirq ||| (seqAt q s).pirq ∧ z.evt = (if (seqAt q s).pirq = 0 then x.evt else x.evt ||| 4) ∧
      (coreAt (q / 2) t).vfile = filesFrom (areaReader k s1) k x (coreAt (q / 2) s).vfile) ∧
    (∀ (b : Nat) (tick : Option Nat) (p : Pipe) (l : Launch), find pn s.pipes = some p → find p.launch s.launches = some l →
      rebalance pn b tick s = pipeSettle pn (rebalanceFrom pn p l (p.stages.map fun y => y.k) b tick
        (List.range p.stages.length) [] (if p.det then modPipe pn (fun p => { p with stages := p.stages.map fun y =>
          { y with ks := y.k :: y.ks } }) s else s))) ∧
    (∀ (p : Pipe) (l : Launch) (old rest done : List Nat) (b i : Nat) (tick : Option Nat),
      let y := nth Stage.none_ i p.stages
      let k := nth 0 i old
      let tag := l.seqno % 2 ^ 24 * 256
      let wants := k < y.max ∧ i ∉ done ∧ (nth OQueue.none_ y.qin p.queues).hi < queueLoad p y.qin ∧
        queueLoad p y.qout < (nth OQueue.none_ y.qout p.queues).lo
      let more := fun (u : State) => modStage pn i (fun x =>
        { x with ks := if p.det then (k + 1) :: x.ks.drop 1 else [k + 1] }) u
      let go := rebalanceFrom pn p l old b tick
      go [] done s = s ∧
      (¬wants → go (i :: rest) done s = go rest done s) ∧
      (wants → (∀ c, lowestCore p.sag l.vdev s = some c → go (i :: rest) done s = go rest (i :: done)
          (trace p.sag 4 2 (tag + i) noCore c 0 tick (clearFronts (physCore p.sag c s)
            (modStage pn i (fun x => { x with cores := setPad none k (some c) x.cores }) (more s))))) ∧
        (lowestCore p.sag l.vdev s = none → (donorOf p old done i = none → go (i :: rest) done s = go rest done s) ∧
          (∀ d, donorOf p old done i = some d → let di := nth 0 d old - 1
            let c := (nth none di (nth Stage.none_ d p.stages).cores).getD noCore
            let less := fun (u : State) => modStage pn d (fun x => { x with
              ks := if p.det then di :: x.ks.drop 1 else [di] }) u
            go (i :: rest) done s = go rest (i :: d :: done) (trace p.sag 4 2 (tag + i) c c 0 tick
              (trace p.sag 4 3 (tag + d) c c 0 tick (modPipe pn (fun p => { p with moves := p.moves ++ [(d, di, i, k, b)] })
                (modStage pn d (fun x => { x with olds := x.olds ++ [(di, b, nth none di x.cores)]
                                                  cores := x.cores.take di }) (less (more s))))))))) ∧
      (∀ d, donorOf p old done i = some d → let ld := fun j => queueLoad p (nth Stage.none_ j p.stages).qin
        let may := fun j => j < p.stages.length ∧ j ≠ i ∧ j ∉ done ∧ (nth Stage.none_ j p.stages).min < nth 0 j old
        may d ∧ ∀ j, may j → ld d < ld j ∨ ld d = ld j ∧ d ≤ j)) ∧
    ((rescan sag s).mem = s.mem ∧ ((find sag s.sags).isSome = true → ∀ i, i ∈ (sagAt sag (rescan sag s)).broken ↔
      i < nqcb sag s ∧ bit (agentWord sag 0 (qcbOf sag i s + 40) s) 63 = true)) ∧
    (settlePipes s = (s.pipes.map (·.1)).foldl (fun s m => pipeSettle m s) s ∧
      (find pn s.pipes = none → pipeSettle pn s = s) ∧
      (∀ p, find pn s.pipes = some p → let u := passCores pn p.moves s
        (find pn u.pipes = none → pipeSettle pn s = u) ∧
        (∀ p1, find pn u.pipes = some p1 → let t := pipeSettle pn s
          (p1.over pn u = false → t = u) ∧
          (p1.over pn u = true → t = completeLaunch p1.launch (dropPipe pn u) ∧ find pn t.pipes = none ∧
            ∀ c ∈ p1.held, (coreAt (physCore p1.sag c u) t).fronts = [])) ∧
        (p.over pn s = true ↔ p.closed = true ∧ (∀ y ∈ p.queues, y.elems = []) ∧
          ∀ i, i < p.stages.length → stageTasks pn i s = [])) ∧
      passCores pn [] s = s ∧
      (∀ d di g gi b l p, find pn s.pipes = some p → let y := nth Stage.none_ d p.stages
        let o := y.olds.find? fun o => o.1 == di && o.2.1 == b
        (∀ c e f, o = some (e, f, some c) → let busy := coreBusy pn c s || mayArrive pn p y di b s (p.stages.length + 1) y.qin
          (busy = true → passCores pn ((d, di, g, gi, b) :: l) s = passCores pn l s) ∧
          (busy = false → ∃ u, passCores pn ((d, di, g, gi, b) :: l) s =
              passCores pn l (clearFronts (physCore p.sag c s) u) ∧
            u = modPipe pn (fun p => { p with moves := p.moves.erase (d, di, g, gi, b) })
              (modStage pn g (Stage.receive gi c) (modStage pn d (fun y =>
                { y with olds := y.olds.eraseP fun o => o.1 == di && o.2.1 == b }) s)))) ∧
        ((∀ c e f, o ≠ some (e, f, some c)) → passCores pn ((d, di, g, gi, b) :: l) s = passCores pn l s))) ∧
    (∀ y c, (seqAt q s).wait = .qpush pn y false false c → 4096 ≤ c → ∃ t, exec (.probeSend q) s = .next t ∧
      (seqAt q t).wait = .qpush pn y false false 0 ∧ t.probes = s.probes ++ [⟨pn, y, q, 0, reaches (pn, y) s (queueCount s) [(pn, y)]⟩]) ∧
    (∀ p, s.probes[n]? = some p → p.back = true →
      ∃ t, exec (.probeReturn n) s = .next t ∧ t.probes = s.probes.eraseIdx n ∧
        (∀ c, (seqAt p.q s).wait = .qpush p.pipe p.queue false false c → reserveFree p.pipe p.queue s = true →
          (queueAt p.pipe p.queue s).cap ≤ (queueAt p.pipe p.queue s).elems.length →
          (seqAt p.q t).wait = .qpush p.pipe p.queue false true 0)) ∧
    (∀ p, s.probes[n]? = some p → 65536 ≤ p.age →
      exec (.probeDrop n) s = .next { s with probes := s.probes.eraseIdx n }) ∧
    (kilnCmd sag s = 1 → exec (.kilnRescanStreams sag) s = .next (cmdDone sag 0 (rescan sag s))) ∧
    (4 < kilnCmd sag s → exec (.kilnRescanStreams sag) s = .next (cmdDone sag 2 s)) ∧
    (kilnCmd sag s = 2 → launchAt sag (kcbWord sag 64 s) s = none →
      exec (.kilnCancelLaunch sag) s = .next (cmdDone sag 2 s)) ∧
    (∀ m l, kilnCmd sag s = 2 → launchAt sag (kcbWord sag 64 s) s = some (m, l) →
      exec (.kilnCancelLaunch sag) s = .next (cmdDone sag 0 (cancelLaunch m 2
        (trace sag 9 0 (l.seqno % 2 ^ 24 * 256) noCore noCore 0 (tickOf l s) s)))) ∧
    (∀ m u x, cancelLaunch m 2 u = ((u.tasks.filter fun k => k.2.launch == m && !k.2.ended).foldl
        (fun s k => endTask k.1 false s) (killLaunch m 2 u)) ∧
      (find m (cancelLaunch m 2 u).launches = some x → x.dead = true)) ∧
    (∀ k u t, find n u.tasks = some k → k.on = some q → t = endTask n false u → (seqAt q t).run = .off ∧
      ∀ y, find n t.tasks = some y → y.ended = true ∧ y.on = none) ∧
    (kilnCmd sag s = 3 → let a := kcbWord sag 64 s
      (agentRead sag 0 a 64 s = none → exec (.kilnReloadMicrocode sag) s = .next (cmdDone sag 2 s)) ∧
      (∀ h, agentRead sag 0 a 64 s = some h → let sz := Config.imageSize h
        (256 * 1024 < sz → exec (.kilnReloadMicrocode sag) s = .next (cmdDone sag 3 s)) ∧
        (sz ≤ 256 * 1024 → agentRead sag 0 a sz s = none →
          exec (.kilnReloadMicrocode sag) s = .next (cmdDone sag 2 s)) ∧
        (∀ b d v o, sz ≤ 256 * 1024 → agentRead sag 0 a sz s = some b → Config.imageParts b = (d, v, o) →
          let signed := (s.rot.owner = true ∧ imageOk Config.vendorKey ⟨d, v.1, v.2⟩ = true ∧
              imageOk Config.ownerKey ⟨d, o.1, o.2⟩ = true) ∨
            (s.rot.research = true ∧ imageOk Config.researchKey ⟨d, o.1, o.2⟩ = true)
          (signed → exec (.kilnReloadMicrocode sag) s =
            .next (cmdDone sag 0 (rescan sag (extend 3 (sha384Bytes d) (agentSeen sag 0 a sz s))))) ∧
          (¬ signed → exec (.kilnReloadMicrocode sag) s = .next (cmdDone sag 1 (agentSeen sag 0 a sz s)))))) ∧
    (kilnCmd sag s = 4 → (streamPipe sag (kcbWord sag 64 s) s = none →
        exec (.kilnClosePipeline sag) s = .next (cmdDone sag 2 s)) ∧
      (∀ m, streamPipe sag (kcbWord sag 64 s) s = some m → exec (.kilnClosePipeline sag) s =
        .next (cmdDone sag 0 (settlePipes (modPipe m (fun p => { p with closed := true }) s))))) ∧
    (∀ d i j, curSlot sag s = some d → slotFrom sag (sagAt sag s).slot s = some i → slotFrom sag (i + 1) s = some j →
      ∃ t, exec (.slotEnd sag) s = .next t ∧ ((find sag s.sags).isSome = true → (sagAt sag t).slot = j))

/-- O56. Saggars and their resources: starting and stopping one; a grow record's first step marks neutral resources
joining (a record that adds nothing is done), its second installs a hash generation over them, then each cluster joins;
a shrink record marks what leaves, moves its pages one by one, and ends once all is moved, written back and scrubbed; a
cluster's tasks are stopped, and then core i moves to core i: its accumulator banks, glaze words, fronts, BANKROLE, the
SRAM outside the L1, its tasks with their SEQID and CLID, whose number the receiving cluster answers to (R339); the
bandwidth registers. A stop leaves of a saggar no task, no key and no byte, and its resources neutral (R357). A stop where another saggar maps a page of the
quads waits, which is the model's choice (log entry 87). RESULT 1 of an invalid record and the bound on quads as the
model has it are log entry 49; that
BWTOT and BWCAP take the value written, and what of a charge goes past CAP, is log entry 50. -/
def Obligations.SaggarEvents : Prop :=
  ∀ (sag rcd p src dst die : Nat) (req : StartReq) (v : Word) (s : State),
    let b := resizeRcd rcd s
    let z := zSag b
    (s.rot.boot = .up → req.num ≠ 0 → s.pcBusy = none → startOk req s = true → osOk req.os s = true →
      quadsOk req.s2root req.quads.length s = true → exec (.saggarStart req) s = .next (startSaggar req s)) ∧
    (sag ≠ 0 → (find sag s.sags).isSome = true → s.pcBusy = none → sharesQuads sag s = false →
      exec (.saggarStop sag) s = .next (stopSaggar sag s)) ∧
    (s.pcBusy = some (rcd, false) → zOp b ≠ 2 → let u := agentSeen 0 0 (zList b) (2 * zNcl b) (agentSeen 0 0 rcd 64 s)
      exec (.resizeGrow rcd) s = .next (growStart rcd b u) ∧
      (resizeOk rcd b u = false → growStart rcd b u = finishRecord rcd 1 3 u) ∧
      (∀ cl gs, resizeOk rcd b u = true → listed b u = some cl → pickGroups (zGroups b) u cl [] = some gs →
        distinct cl = true → (∀ c ∈ cl, c < 512 ∧ clusterState c u = .neutral) →
        (neutralQuads (zQuads b) u).length = zQuads b →
        (zQuads b ≠ 0 → quadsOk (sagAt z u).s2root ((sagAt z u).quads.length + zQuads b) u = true) →
        let t := growStart rcd b u
        (cl = [] → zQuads b = 0 → t = finishRecord rcd 0 4 u) ∧
        (cl ≠ [] ∨ zQuads b ≠ 0 → t.pcBusy = some (rcd, true) ∧ t.sags = u.sags ∧
          (∀ c ∈ cl, clusterState c t = .joining z) ∧ (∀ d ∈ neutralQuads (zQuads b) u, quadState d t = .joining z) ∧
          ∀ g ∈ gs, groupState g t = .joining z))) ∧
    (s.pcBusy = some (rcd, true) → zOp b ≠ 2 → (find z s.sags).isSome = true →
      (inState (.joining z) s.groupSt ≠ [] ∨ inState (.joining z) s.quadSt ≠ []) →
      inState (.joining z) s.clState ≠ [] → ∃ t, exec (.resizeGrow rcd) s = .next t ∧
        (sagAt z t).gen = (sagAt z s).gen + 1 ∧ (sagAt z t).sweep = true ∧
        (sagAt z t).quads = (sagAt z s).quads ++ inState (.joining z) s.quadSt ∧
        ∀ d ∈ inState (.joining z) s.quadSt, quadState d t = .owned z) ∧
    (s.pcBusy = some (rcd, false) → zOp b = 2 → let u := agentSeen 0 0 rcd 64 s
      exec (.resizeShrink rcd) s = .next (shrinkCheck rcd b u) ∧
      (resizeOk rcd b u = false → shrinkCheck rcd b u = finishRecord rcd 1 0 u)) ∧
    (s.pcBusy = some (rcd, true) → zOp b = 2 → (sagAt z s).quadsOut ≠ [] → ∀ m,
      nextMove (sagAt z s).quadsOut (sagAt z s).quads (mappingOf s) = some m →
      exec (.resizeShrink rcd) s = .next (movePage m s)) ∧
    (s.pcBusy = some (rcd, true) → zOp b = 2 →
      ((sagAt z s).quadsOut = [] ∨ nextMove (sagAt z s).quadsOut (sagAt z s).quads (mappingOf s) = none) →
      shrinkReady z s = true →
      (inState (.leaving z) s.clState ≠ [] ∨ inState (.leaving z) s.quadSt ≠ [] →
        exec (.resizeShrink rcd) s = .next (shrinkScrub z s)) ∧
      (inState (.leaving z) s.clState = [] → inState (.leaving z) s.quadSt = [] →
        exec (.resizeShrink rcd) s = .next (shrinkEnd rcd z s))) ∧
    (let t := stopSaggar sag s
     find sag t.sags = none ∧ (∀ y ∈ t.tasks, y.2.sag ≠ sag) ∧ (∀ y ∈ t.launches, y.2.sag ≠ sag) ∧
      (∀ y ∈ t.pipes, y.2.sag ≠ sag) ∧ (∀ c ∈ t.mem, Config.quadOf c.1 ∉ ofSaggar sag s.quadSt) ∧
      (∀ c ∈ ofSaggar sag s.clState, clusterState c t = .neutral ∧ ∀ i, i < 8 → coreAt (8 * c + i) t = Core.init ∧
        ∀ j, j < 2 → (seqAt (16 * c + 2 * i + j) t).run = .off) ∧
      (∀ d ∈ ofSaggar sag s.quadSt, quadState d t = .neutral) ∧
      (∀ g ∈ ofSaggar sag s.groupSt, groupState g t = .neutral) ∧
      (∀ a, (portAt a s).owner = some sag → (portAt a t).owner = none) ∧
      (∀ st (m : Map RState), ofSaggar sag m = inState (.owned sag) m ++ inState (.leaving sag) m ++ inState (.joining sag) m ∧
        ∀ a, a ∈ inState st m ↔ (a, st) ∈ m)) ∧
    (∀ u, resizeOk rcd b u = true → let g := sagAt z u
      let held := g.clusters.filter (· < 512)
      let mine := groupsOf z u
      let gone := held.drop (held.length - zNcl b)
      let keep := g.quads.length - zQuads b
      let gs := releaseGroups (zGroups b) mine gone []
      let t := shrinkCheck rcd b u
      let few := held.length < zNcl b ∨ g.quads.length < zQuads b ∨ mine.length < zGroups b * zNcl b
      let all := g.quads.length = zQuads b ∨ mine.length = zGroups b * zNcl b
      (few → t = finishRecord rcd 2 0 u) ∧ (¬few → all → t = finishRecord rcd 4 0 u) ∧
      (¬few → ¬all → t.pcBusy = some (rcd, true) ∧ t.mem = u.mem ∧ t.seqs = u.seqs ∧ (sagAt z t).leaving = gone ∧
        (sagAt z t).quads = g.quads.take keep ∧ (sagAt z t).quadsOut = g.quads.drop keep ∧ (sagAt z t).gen = g.gen + 1 ∧
        (sagAt z t).sweep = true ∧
        (∀ c, clusterState c t = if c ∈ gone then .leaving z else clusterState c u) ∧
        (∀ d, quadState d t = if d ∈ g.quads.drop keep then .leaving z else quadState d u) ∧
        (∀ x, groupState x t = if x ∈ gs then .leaving z else groupState x u) ∧ ∀ x ∈ gs, x ∈ mine)) ∧
    (∀ m : PageMove, let u := m.collect s
      let t := movePage m s
      let inLeaf := fun a => ∃ l ∈ m.leaves, l.1 ≤ a ∧ a < l.1 + 8
      (s.memOk → (∀ i, i < 2 ^ m.sz → ¬inLeaf (m.dst + i) → byteAt (m.dst + i) t = byteAt (m.src + i) u) ∧
        (∀ a, (a < m.dst ∨ m.dst + 2 ^ m.sz ≤ a) → ¬inLeaf a → byteAt a t = byteAt a u) ∧
        (m.leaves.Pairwise (fun x y => x.1 + 8 ≤ y.1 ∨ y.1 + 8 ≤ x.1) → ∀ l ∈ m.leaves, let e := word8 u.mem l.1
          let a := pageBase e l.2
          (l.1 + 8 ≤ m.dst ∨ m.dst + 2 ^ m.sz ≤ l.1) → entryBad true e = false → isPointer e = false → m.src ≤ a →
            a + 2 ^ l.2 ≤ m.src + 2 ^ m.sz →
            word8 t.mem l.1 = leafFrame e (a - m.src + m.dst) % 2 ^ 64)) ∧
      (∀ k, ∀ l ∈ (coreAt k t).l1, 128 * l.1 < m.src ∨ m.src + 2 ^ m.sz ≤ 128 * l.1) ∧ t.tasks = s.tasks ∧
      (s.upsets = [] → m.src ≠ m.dst →
        (∀ a, (∀ x ∈ s.cores, ∀ y ∈ x.2.l1, y.1 = a / 128 → y.2.dirty.getLsbD (a % 128) = false) →
          byteAt a u = byteAt a s) ∧
        ∀ k c a l, (k, c) ∈ s.cores → (a / 128, l) ∈ c.l1 → l.dirty.getLsbD (a % 128) = true →
          m.src ≤ a / 128 * 128 → a / 128 * 128 < m.src + 2 ^ m.sz →
          (∀ x ∈ s.cores, ∀ y ∈ x.2.l1, y.1 = a / 128 → y.2.dirty.getLsbD (a % 128) = true →
            y.2.byte (a % 128) = l.byte (a % 128)) → byteAt a u = l.byte (a % 128))) ∧
    (let t := shrinkScrub z s
     (∀ c ∈ inState (.leaving z) s.clState, clusterState c t = .scrubbing) ∧
      (∀ d ∈ inState (.leaving z) s.quadSt, quadState d t = .scrubbing) ∧
      (∀ k, k / 8 ∈ (sagAt z s).leaving → (coreAt k t).l1 = []) ∧
      (∀ k, ∀ l ∈ (coreAt k t).l1, Config.quadOf (128 * l.1) ∉ (sagAt z s).quadsOut) ∧
      (∀ k, (seqAt k t).flight = [])) ∧
    (let t := shrinkEnd rcd z s
     let g := sagAt z s
     t.pcBusy = none ∧ (∀ c ∈ g.leaving, clusterState c t = .neutral ∧ ∀ i, i < 8 → coreAt (8 * c + i) t = Core.init ∧
        ∀ j, j < 2 → (seqAt (16 * c + 2 * i + j) t).run = .off) ∧
      (∀ d ∈ g.quadsOut, quadState d t = .neutral) ∧ (∀ x ∈ inState .scrubbing s.groupSt, groupState x t = .neutral) ∧
      ((find z s.sags).isSome = true → (sagAt z t).leaving = [] ∧ (sagAt z t).quadsOut = []) ∧
      ∃ w u, w % 256 = 0 ∧ bit w 63 = true ∧ t.mem = (agentPut 0 0 (rcd + 24) w u).mem ∧
        ∀ c ∈ u.mem, Config.quadOf c.1 ∉ g.quadsOut) ∧
    (let t := haltCluster p s
     (∀ i, i < 16 → let x := seqAt (p * 16 + i) s
        let y := seqAt (p * 16 + i) t
        (x.run ≠ .running → y = x) ∧
        (x.run = .running → let h := { x with halt := true, freeze := if x.preq then x.freeze else 0 }
          y = { h with land := if x.land = .none then h.landing else x.land })) ∧
      (∀ r, r / 16 ≠ p → seqAt r t = seqAt r s) ∧ t.mem = s.mem ∧ t.cores = s.cores ∧ t.tasks = s.tasks) ∧
    ((sagAt sag s).sweep = true → ∃ t, exec (.hashSweepComplete sag) s = .next t ∧ t.mem = s.mem ∧ t.seqs = s.seqs ∧
      ((find sag s.sags).isSome = true → (sagAt sag t).sweep = false) ∧
      ∀ g ∈ inState (.leaving sag) s.groupSt, groupState g t = .scrubbing) ∧
    (clusterState p s = .joining sag → inState (.joining sag) s.groupSt = [] →
      ∃ t, exec (.clusterJoin sag p) s = .next t ∧ clusterState p t = .owned sag) ∧
    ((sagAt sag s).moving = none → (sagAt sag s).leaving.contains src = true → clusterBusy sag src s = true →
      clusterFree sag dst s = true → exec (.clusterMigration sag src dst) s =
        .next (haltCluster src (modSag sag (fun g => { g with moving := some (src, dst) }) s))) ∧
    ((sagAt sag s).moving = some (src, dst) → let u := drainCluster src s
      clusterQuiet src u = true → clusterLands src u = true → ∃ t, exec (.clusterMigration sag src dst) s = .next t ∧
        ((find sag s.sags).isSome = true → (sagAt sag t).moving = none) ∧
        ∀ i, (i < 8 → let c := coreAt (src * 8 + i) u
          let d := coreAt (dst * 8 + i) t
          d.bands = c.bands ∧ d.acc = c.acc ∧ d.glaze = c.glaze ∧ d.fronts = c.fronts ∧ d.bankrole = c.bankrole ∧
            ∀ a, roleOf c (a / 65536) ≠ 0 → look 0 a d.sram = look 0 a c.sram) ∧
          (i < 16 → (src ≠ dst → (seqAt (src * 16 + i) t).run = .off) ∧
            ∀ k, (seqAt (src * 16 + i) u).run ≠ .off → find (seqAt (src * 16 + i) u).task u.tasks = some k →
              let y := seqAt (dst * 16 + i) t
              y.run = .running ∧ y.task = (seqAt (src * 16 + i) u).task ∧ y.seqid = BitVec.ofNat 13 k.sid ∧
              y.clid = BitVec.ofNat 9 (k.sid / 16) ∧
              ((find sag s.sags).isSome = true → k.sag = sag → k.ended = false → k.sid / 16 = logCluster sag src u →
                find (k.sid / 16) (sagAt sag t).answers = some dst))) ∧
    (die < 32 → ∃ t, exec (.bandwidthWindowEnd die) s = .next t ∧ t.mem = s.mem ∧ t.seqs = s.seqs ∧ t.sags = s.sags ∧
      ∀ g ∈ s.sags, (bwAt (bwKey die g.1) t).cur = 0) ∧
    (die < 32 → (find sag s.sags).isSome = true →
      (∃ t, exec (.bwtotWrite die sag (.tot v)) s = .next t ∧ t.mem = s.mem ∧
        bwAt (bwKey die sag) t = { bwAt (bwKey die sag) s with tot := v }) ∧
      (∃ t, exec (.bwtotWrite die sag (.cap v)) s = .next t ∧ t.mem = s.mem ∧
        bwAt (bwKey die sag) t = { bwAt (bwKey die sag) s with cap := v.setWidth 32 })) ∧
    (∀ (x : Bw) (n past : Nat), (x.cap = 0 → x.room n past = n) ∧
      (x.cap ≠ 0 → x.cap.toNat ≤ x.cur.toNat → x.room n past = 0) ∧
      (x.cap ≠ 0 → n < x.cap.toNat - x.cur.toNat → x.room n past = n) ∧ x.room n past ≤ n)

/-- O57. The platform: boot measures each image in order into its register and starts saggar 0, or stops at the first
that does not verify; droop and the power cap change clocks only; attestation adds a report of every measurement
register; a nonce is issued; an unlock with a matching, signed token cancels all work, leaves no memory but the host's
and no saggar a key, and another token changes nothing; lifecycle and link changes. The model's own here: log entries
53 (the boot's inputs and order), 54 (reports, tokens, the state after an unlock), 55 (cap and clocks), 58 (links). -/
def Obligations.PlatformEvents : Prop :=
  (∀ (n : Nat) (x : List Byte) (s : State),
      look 0 n (extend n x s).rot.regs = sha384 (leBytes 48 (look 0 n s.rot.regs).toNat ++ x) ∧
      (∀ m, m ≠ n → look 0 m (extend n x s).rot.regs = look 0 m s.rot.regs) ∧ (extend n x s).mem = s.mem) ∧
  (∀ (n : Nat) (i : Image) (ok : State → Bool) (l : List (Nat × Image × (State → Bool))) (s : State),
      bootImages [] s = (true, s) ∧
      (ok s = true → bootImages ((n, i, ok) :: l) s = bootImages l (extend n (digestOf i) s)) ∧
      (ok s = false → bootImages ((n, i, ok) :: l) s = (false, s))) ∧
  (∀ (die cap mhz sag p w r : Nat) (f : Flash) (t : DebugToken) (l : Lifecycle) (nonce : BitVec 384)
      (ws : List HostWrite) (s : State),
    (s.rot.boot = .off → f.sag0.num = 0 → startOk f.sag0 s = true →
      (vendorOk f.rot s = false → exec (.powerOnBoot f) s = .next (bootStop s)) ∧
      (vendorOk f.rot s = true → let s0 := extend 0 (digestOf f.rot) s
        (aliasKeyed f.hss s0 = none → exec (.powerOnBoot f) s = .next (bootStop s0)) ∧
        (∀ s1 s2, aliasKeyed f.hss s0 = some s1 →
          (bootImages (bootList f) s1 = (false, s2) → exec (.powerOnBoot f) s = .next (bootStop s2)) ∧
          (bootImages (bootList f) s1 = (true, s2) → osOk f.sag0.os s2 = false →
            exec (.powerOnBoot f) s = .next (bootStop s2)) ∧
          (bootImages (bootList f) s1 = (true, s2) → osOk f.sag0.os s2 = true → ∃ u,
            exec (.powerOnBoot f) s = .next u ∧ u.rot.boot = .up ∧ (find 0 u.sags).isSome = true ∧
            (sagAt 0 u).clusters = f.sag0.clusters ∧
            look 0 6 u.rot.regs =
              sha384 (leBytes 48 (look 0 6 s2.rot.regs).toNat ++ digestOf f.sag0.os))))) ∧
    (die < 32 → (clkAt die s).droop = false → ∃ u, exec (.droopDetected die) s = .next u ∧
      (clkAt die u).droop = true ∧ u = { s with clks := u.clks }) ∧
    (die < 32 → (clkAt die s).droop = true → ∃ u, exec (.droopCleared die) s = .next u ∧
      (clkAt die u).droop = false ∧ u = { s with clks := u.clks }) ∧
    (s.rot.boot = .up →
      (1 ≤ cap → cap ≤ 190 → exec (.powerCapSet cap) s = .next { s with cap := cap }) ∧
      (die < 32 → 1 ≤ mhz → mhz ≤ 4000 → mhz % 100 = 0 → ∃ u, exec (.powerCapClockChange die mhz) s = .next u ∧
        (clkAt die u).mhz = mhz ∧ u = { s with clks := u.clks }) ∧
      ((find sag s.sags).isSome = true → ∃ u a, exec (.attestationRequest sag nonce) s = .next u ∧
        u.rot.reports = s.rot.reports ++ [a] ∧ a.regs = (List.range 16).map (fun n => look 0 n s.rot.regs) ∧
        a.nonce = nonce ∧ u.mem = s.mem) ∧
      (∃ u, exec .debugNonceRequest s = .next u ∧ u.rot.nonce.isSome = true ∧ u.mem = s.mem) ∧
      (s.pcBusy = none → tokenMatches t s = true → tokenSigned t s = true → ∃ u, exec (.debugUnlock t) s = .next u ∧
        (∀ c, c ∈ u.mem ↔ c ∈ s.mem ∧ hostRange c.1 = true) ∧ u.tasks = [] ∧ u.launches = [] ∧ u.pipes = [] ∧
        u.seqs = [] ∧ u.cores = [] ∧ (∀ g ∈ u.sags, g.2.keyed = false) ∧ u.rot.debug = some t.perm ∧
        u.rot.nonce = none) ∧
      (s.pcBusy = none → (tokenMatches t s = false ∨ tokenSigned t s = false) → exec (.debugUnlock t) s = .next s) ∧
      (l ≠ s.rot.life → ∃ u, exec (.lifecycleChange l) s = .next u ∧ u.rot.life = l ∧ u.mem = s.mem) ∧
      (p < 4 → w ∈ [1, 2, 4, 8, 16] → 1 ≤ r → r ≤ 7 → ((endpoints s).contains p = true ∨ ws = []) →
        ∃ u, exec (.pcieLinkTraining p w r ws) s = .next u ∧ u.mem = s.mem ∧
          pcieAt p u = ws.foldl (fun x h => (x.write h).flush) ((pcieAt p s).train w r))))

/-- O58. The host, the platform window and the ports: doorbells, signals, host interrupts, register writes, ring tails,
the interrupt that a SEQID names, pending on the sequencer that answers to it or kept for one that runs under another
number (R362), frames, each in the next posted buffer with its length and checks in a descriptor marked DONE, and
descriptors (one whose frame's class is paused is not finished), NVMe commands. The model's own here: log
entries 56 (rings, descriptors and frames), 58 (host accesses and NVMe), 57 and 75 (checksums and pauses), 73 (when a
vector is masked). -/
def Obligations.HostAndPortEvents : Prop :=
  ∀ (port sag off : Nat) (v : Word) (fr : Frame) (ns : BitVec 32) (cmd : List Byte) (s : State),
    (s.rot.boot = .up → (endpoints s).contains port = true → (pcieAt port s).width ≠ 0 → off < 65536 →
      let page := off / 4096
      ((find page s.sags).isNone = true ∨ off % 4096 ≠ 0 → exec (.hostDoorbellWrite port off v) s = .next s) ∧
      ((find page s.sags).isSome = true → off % 4096 = 0 → exec (.hostDoorbellWrite port off v) s =
        .next (raiseNamed page 2 (sagAt page s).dbtgt (modSag page (fun g =>
          if (endpoints s).head? = some port then { g with dbell0 := v } else { g with dbell1 := v }) s)))) ∧
    ((find sag s.sags).isSome = true →
      exec (.signalWrite sag v) s = .next (raiseNamed sag 1 v s) ∧
      (∃ t, exec (.hostirqWrite sag) s = .next t ∧ t.mem = s.mem ∧ t.seqs = s.seqs ∧
        (∀ p ∈ endpoints s, pcieAt p t = (pcieAt p s).send sag)) ∧
      (exec (.platformRegisterWrite sag 0x10 v) s =
        .next (modSag sag (fun g => { g with dbtgt := v &&& 0x8000000000001FFF#64 }) s)) ∧
      (∀ o, portReg sag off s = some (port, o) → ownEvent sag off s = false → off ≠ 0x10 → off ≠ 0x28 →
        exec (.platformRegisterWrite sag off v) s = .next (modPort port (portWrite o v) s)) ∧
      (owns sag port s = false → exec (.pctlWrite sag port v) s = .next s ∧ exec (.txtailWrite sag port v) s = .next s ∧
        exec (.rxtailWrite sag port v) s = .next s) ∧
      (owns sag port s = true →
        (∃ t, exec (.pctlWrite sag port v) s = .next t ∧ (portAt port t).en = v.getLsbD 0 ∧ t.mem = s.mem) ∧
        (∃ t, exec (.txtailWrite sag port v) s = .next t ∧ (portAt port t).txTail = v ∧ t.mem = s.mem) ∧
        (∃ t, exec (.rxtailWrite sag port v) s = .next t ∧ (portAt port t).rxTail = v ∧ t.mem = s.mem)) ∧
      (port < 4 → s.cfg.pcieEp.getLsbD port = false → (pcieAt port s).width ≠ 0 →
        (sagAt sag s).ns = ns → (sagAt sag s).nsPort = port → ∃ t, exec (.nvmeCommand sag port ns cmd) s = .next t ∧
          (pcieAt port t).nvme = (pcieAt port s).nvme ++ [(ns, cmd)] ∧ t.mem = s.mem)) ∧
    (∀ src, let sid := v.toNat % 2 ^ 13
      let p := physCluster sag (sid / 16) s
      let own := nth 512 (sid / 16) (sagAt sag s).clusters
      let t := raiseNamed sag src v s
      (v.getLsbD 63 = false → t = s) ∧
      (v.getLsbD 63 = true → p < 512 → let q := 16 * p + sid % 16
        t = modSeq q (fun x => Seq.choose { x with pirq := x.pirq ||| BitVec.ofNat 3 (2 ^ src), evt := x.evt ||| 4 }) s ∧
        (seqAt q t).pirq = (seqAt q s).pirq ||| BitVec.ofNat 3 (2 ^ src) ∧ (seqAt q t).evt = (seqAt q s).evt ||| 4) ∧
      (v.getLsbD 63 = true → 512 ≤ p → (512 ≤ own → t = s) ∧
        (own < 512 → let q := 16 * own + sid % 16
          t.seqs = s.seqs ∧ t.mem = s.mem ∧ ((find sag s.sags).isSome = true → look 0 q (sagAt sag t).irqs =
            look 0 q (sagAt sag s).irqs ||| BitVec.ofNat 3 (2 ^ src))))) ∧
    (∀ (x : Port) (bs : List Byte), let o := x.owner.getD 0
      let d := x.rxBase.toNat + 16 * (x.rxHead.toNat % 2 ^ bits x.ringLen.toNat 12 8)
      let u := iaSeen o d 16 s
      let w := 2 ^ 63 + (goodL4 bs).toNat * 2 ^ 33 + (goodL3 bs).toNat * 2 ^ 32 + bs.length
      let t := fillBuffer port x bs s
      (∀ u1, iaWrite o (cut (iaWord o d s % 2 ^ 48) bs.length) bs u = some u1 →
        ∀ u2, iaWrite o (cut (d + 8) 8) (leBytes 8 w) u1 = some u2 → t.mem = u2.mem) ∧
      (portAt port t).rxHead = (portAt port s).rxHead + 1 ∧ t.seqs = s.seqs) ∧
    (∀ (o a : Nat) (bs : List Byte) (l : List (Nat × Nat)), iaWrite o [] bs s = some s ∧
      ∀ n pa ea, iaPlace o a true s = some (pa, ea) → s.upsets = [] → iaWrite o ((a, n) :: l) bs s =
        iaWrite o l (bs.drop n) { s with mem := writeCells pa (bs.take n) (markLeaves true [ea] s.mem) }) ∧
    (∀ n (x : PPort), x.msixOn = true → x.width ≠ 0 →
      (x.masked n = false → x.send n = { x with sent := x.sent ++ [n] }) ∧
      (x.masked n = true → x.send n = { x with pba := x.pba ||| BitVec.ofNat 16 (2 ^ n) })) ∧
    (∀ o, (find (o / 4096) s.sags).isNone = true ∨ 8 ≤ o % 4096 → hostPageRead o s = some 0) ∧
    (portOpen port s = true → let x := portAt port s
      let f := txDescriptor (x.owner.getD 0) (x.txBase.toNat + 16 * (x.txHead.toNat % x.txLen)) s
      (x.txOver = false → x.txHead ≠ x.txTail → (∀ g, f = some g → x.stalls s.phys g.2.2 = false) →
        ∃ t, exec (.txDescriptorDone port) s = .next t ∧ (portAt port t).txHead = x.txHead + 1 ∧
          (portAt port t).sent = x.sent ++ (f.map fun g => g.2.2).toList) ∧
      (∀ g, f = some g → x.stalls s.phys g.2.2 = true → dueTxDescriptorDone port s = none) ∧
      (fr.bytes.length ≤ 9212 →
        (fr.fcsOk = false → exec (.frameReceived port fr) s = .next (countErr port s)) ∧
        (fr.fcsOk = true → isPfc fr.bytes = true → ∃ t, exec (.frameReceived port fr) s = .next t ∧ t.mem = s.mem ∧
          (portAt port t).rxHead = (portAt port s).rxHead ∧ (portAt port t).rxDrop = (portAt port s).rxDrop) ∧
        (fr.fcsOk = true → isPfc fr.bytes = false → ktpOf (portAt port s) fr.bytes = none →
          ((portAt port s).rxOver = true ∨ (portAt port s).rxHead = (portAt port s).rxTail →
            exec (.frameReceived port fr) s = .next (modPort port (fun x => { x with rxDrop := x.rxDrop + 1 }) s)) ∧
          ((portAt port s).rxOver = false → (portAt port s).rxHead ≠ (portAt port s).rxTail →
            exec (.frameReceived port fr) s = .next (fillBuffer port (portAt port s) fr.bytes s))) ∧
        (fr.fcsOk = true → isPfc fr.bytes = false → ∀ g, ktpOf (portAt port s) fr.bytes = some g →
          ∃ t, segRun port g s = some t ∧ exec (.frameReceived port fr) s = .next t)))

/-- O59. Remote copies: a DATA segment whose elements come next in their flow's copy is performed and the flow goes on,
one already performed is only owed its acknowledgement again; an acknowledgement is sent after eight, and before the
flow goes on to the next copy; an ACK performs
the elements it covers and never fewer than before; an ERROR ends the copy with its ERR; a segment is sent again as it
was, 64 times, and then ends the copy with ERR 0x09; a bad segment is counted. The fields of the datagrams that the
spec does not give are log entry 51. -/
def Obligations.RemoteCopyEvents : Prop :=
  ∀ (p n k ch segno : Nat) (g : KtpSeg) (s : State),
    (portOpen p s = true → segBad g = true → exec (.ktpDataSegment p g) s = .next (countErr p s) ∧
      exec (.ktpAckSegment p g) s = .next (countErr p s) ∧ exec (.ktpErrorSegment p g) s = .next (countErr p s)) ∧
    (portOpen p s = true → segBad g = false →
      (g.type = 1 → ∃ t, exec (.ktpDataSegment p g) s = .next t) ∧
      (∀ x, g.type = 1 → flowAt p g s = some (n, x) → find n s.flows = some x → x.copy = g.copy → x.failed = false →
        x.held = [] → let e := g.esize.toNat
        let desc := if g.flags.getLsbD 0 then g.body.take 48 else x.desc
        (g.elem.toNat + g.nelem.toNat ≤ x.done → ∃ t, exec (.ktpDataSegment p g) s = .next t ∧ t.mem = s.mem ∧
          find n t.flows = some { x with owed := x.owed + 8 }) ∧
        (∀ s1, g.elem.toNat = x.done → 0 < g.nelem.toNat → (g.flags.getLsbD 0 = true ∨ x.desc ≠ []) →
          e ∈ [1, 2, 4] → (segData g).length = g.nelem.toNat * e → x.done + g.nelem.toNat ≤ descTotal desc →
          placeElems x.rsag desc e g.nelem.toNat x.done (segData g) s = (none, s1) →
          ∃ t, exec (.ktpDataSegment p g) s = .next t ∧ t.mem = s1.mem ∧
            find n t.flows = some { x with
              desc := desc, total := descTotal desc, done := x.done + g.nelem.toNat
              owed := x.owed + (if g.flags.getLsbD 1 then 8 else 1) })) ∧
      (∀ x, g.type = 1 → flowAt p g s = some (n, x) → find n s.flows = some x → x.held = [] → x.over = true →
        laterId g.copy x.copy = true → 8 ≤ x.owed → exec (.ktpDataSegment p g) s =
          .next (drainHeld n 1 (takeCur n (x.next g.copy) g
            (modFlow n (fun x => x.next g.copy) (sendAck x x.copy x.done s))))) ∧
      (ackedRun g s = none → (g.type = 2 → exec (.ktpAckSegment p g) s = .next s) ∧
        (g.type = 3 → exec (.ktpErrorSegment p g) s = .next s)) ∧
      (∀ i c r x, ackedRun g s = some (i, c, r, x) →
        (g.type = 2 → ∃ t u y, exec (.ktpAckSegment p g) s = .next t ∧
          (look Chan.init c (coreAt i t).chans).run = some u ∧ u.rem = some y ∧ x.acked ≤ y.acked ∧ u.pos = y.acked ∧
          t.mem = s.mem) ∧
        (g.type = 3 → ∃ t u, exec (.ktpErrorSegment p g) s = .next t ∧
          (look Chan.init c (coreAt i t).chans).run = some u ∧ u.err = g.err.toNat ∧ u.stop = true ∧ t.mem = s.mem))) ∧
    (∀ x, let all := x.done
      (x.failed = true → takeCur n x g s = s) ∧
      (x.failed = false →
        (g.elem.toNat + g.nelem.toNat ≤ all →
          takeCur n x g s = modFlow n (fun x => { x with owed := x.owed + 8 }) s) ∧
        (all < g.elem.toNat + g.nelem.toNat →
          (g.elem.toNat ≤ all → (g.flags.getLsbD 0 = true ∨ x.desc ≠ []) → takeCur n x g s = performSeg n x g s) ∧
          ((all < g.elem.toNat ∨ g.flags.getLsbD 0 = false ∧ x.desc = []) → takeCur n x g s =
            modFlow n (fun x => { x with held := x.held.filter (· ≠ g) ++ [g] }) s)))) ∧
    (∀ (x : KtpRx) (s1 : State), let e := g.esize.toNat
      let desc := if g.flags.getLsbD 0 then g.body.take 48 else x.desc
      let skip := x.done - g.elem.toNat
      let cnt := g.nelem.toNat - skip
      let stops := fun (k err : Nat) (f : KtpRx → KtpRx) (u : State) => modFlow n (fun y => { f y with
        failed := true, held := y.held.filter (·.copy ≠ g.copy) }) (sendErr x k err u)
      let ok := e ∈ [1, 2, 4] ∧ (segData g).length = g.nelem.toNat * e ∧ x.done + cnt ≤ descTotal desc
      (¬ok → performSeg n x g s = stops x.done 0x0C id s) ∧
      (ok → (∀ k, placeElems x.rsag desc e cnt x.done ((segData g).drop (skip * e)) s = (some k, s1) →
          performSeg n x g s = stops k 0x09 (fun y => { y with desc := desc, total := descTotal desc, done := k }) s1) ∧
        (placeElems x.rsag desc e cnt x.done ((segData g).drop (skip * e)) s = (none, s1) → performSeg n x g s =
          modFlow n (fun y => { y with desc := desc, total := descTotal desc, done := x.done + cnt
                                       owed := x.owed + (if g.flags.getLsbD 1 then 8 else 1) }) s1))) ∧
    (∀ (m : Nat), drainHeld n 0 s = s ∧ (find n s.flows = none → drainHeld n (m + 1) s = s) ∧
      ∀ x, find n s.flows = some x → (x.held.find? x.takes = none → drainHeld n (m + 1) s = s) ∧
        ∀ h, x.held.find? x.takes = some h → drainHeld n (m + 1) s = drainHeld n m
          (takeSeg n h (modFlow n (fun x => { x with held := x.held.filter (· ≠ h) }) s))) ∧
    (∀ (x : KtpRx) (copy : BitVec 32) (elem : Nat) (y : KtpTx) (flow : BitVec 32) (b : List Byte),
      let hdr := beBytes 1 1 ++ beBytes 1 2 ++ beBytes 2 0 ++ beBytes 4 x.flow.toNat ++ beBytes 4 copy.toNat ++
        beBytes 4 0 ++ beBytes 4 elem ++ beBytes 2 0 ++ beBytes 1 0 ++ beBytes 1 0 ++ beBytes 8 0
      sendAck x copy elem s = sendOn x.port
        (datagram x.port x.addr (portAt x.port s).ktpPort (Config.ackPort x.addr x.flow) hdr s) s ∧
      sendData y flow b s = sendOn y.port (datagram y.port y.addr (Config.flowPort flow) y.uport b s) s ∧
      (∀ r, let z := portAt r s
        (z.en = false → sendOn r b s = s) ∧
        (z.en = true → (z.stalls s.phys b = false → sendOn r b s = modPort r (fun z => { z with sent := z.sent ++ [b] }) s) ∧
          (z.stalls s.phys b = true → sendOn r b s =
            modPort r (fun z => { z with waiting := z.waiting ++ [b] }) s))) ∧
      (∀ r a (sp dp : BitVec 16), let f := datagram r a sp dp b s
        f.length = 62 + b.length ∧ f.drop 62 = b ∧ (f.drop 38).take 16 = beBytes 16 a.toNat ∧
          (f.drop 54).take 4 = beBytes 2 sp.toNat ++ beBytes 2 dp.toNat ∧
          (f.drop 22).take 16 = beBytes 8 (portAt r s).ipHi.toNat ++ beBytes 8 (portAt r s).ipLo.toNat)) ∧
    (∀ x, find n s.flows = some x → 8 ≤ x.owed → exec (.ktpAckSend n) s =
      .next (sendAck x x.copy x.done (modFlow n (fun x => { x with owed := x.owed % 8 }) s))) ∧
    (∀ r x e, (look Chan.init ch (coreAt k s).chans).run = some r → r.rem = some x →
      x.segs.find? (fun y => y.1 == segno) = some e →
      (64 ≤ e.2.2.2.1 → ∃ t u, exec (.ktpRetransmitTimeout k ch segno) s = .next t ∧
        (look Chan.init ch (coreAt k t).chans).run = some u ∧ u.err = 0x09 ∧ u.stop = true ∧ u.pos = x.acked) ∧
      (e.2.2.2.1 < 64 → exec (.ktpRetransmitTimeout k ch segno) s =
        .next (sendData x (flowOf r.copy.sag k ch s) e.2.2.2.2 (setRun k ch (some { r with rem := some { x with
          segs := x.segs.map fun y => if y.1 = segno then (segno, e.2.1, e.2.2.1, e.2.2.2.1 + 1, e.2.2.2.2) else y } })
          s))))

/-! ## The invariant -/

/-- O60. Every step keeps memory in its one form: addresses strictly rising, and no byte listed that holds what an
unlisted byte reads. -/
def Obligations.StepsKeepMemoryForm : Prop :=
  ∀ s t : State, s.memOk → step s = .next t → t.memOk
end

