-- ==== Sys2Proof/Laws/Map.lean ====
section
/-! SUPPORT. Finite maps: what each operation lists, and that it keeps the one form. -/

namespace Sys2Proof.Machine

variable {α : Type}

/-! ## What is listed -/

theorem look_del_same (d : α) (k : Nat) (m : Map α) : look d k (del k m) = d := by
  induction m with
  | nil => rfl
  | cons x m ih => by_cases h : x.1 = k <;> simp [del, look, h, ih]

theorem look_del_ne (d : α) {j k : Nat} (h : j ≠ k) (m : Map α) : look d j (del k m) = look d j m := by
  induction m with
  | nil => rfl
  | cons x m ih =>
    by_cases hk : x.1 = k
    · simp [del, look, hk, ih, Ne.symm h]
    · by_cases hj : x.1 = j <;> simp [del, look, hk, hj, ih, h]

theorem look_ins_ne (d v : α) {j k : Nat} (h : j ≠ k) (m : Map α) : look d j (ins k v m) = look d j m := by
  induction m with
  | nil => simp [ins, look, Ne.symm h]
  | cons x m ih =>
    by_cases hk : k < x.1
    · simp [ins, look, hk, Ne.symm h]
    · simp only [ins, hk, if_false, look, ih]

theorem look_upd_same (d v : α) (k : Nat) (m : Map α) : look d k (upd k v m) = v := by
  induction m with
  | nil => simp [upd, del, ins, look]
  | cons x m ih =>
    by_cases h : x.1 = k
    · simpa [upd, del, h] using ih
    · by_cases hk : k < x.1
      · simp [upd, del, ins, look, h, hk]
      · simpa [upd, del, ins, look, h, hk] using ih

theorem look_upd_ne (d v : α) {j k : Nat} (h : j ≠ k) (m : Map α) : look d j (upd k v m) = look d j m := by
  rw [upd, look_ins_ne d v h, look_del_ne d h]

/-- A read of what was written. -/
theorem look_put_same [DecidableEq α] (d v : α) (k : Nat) (m : Map α) : look d k (put d k v m) = v := by
  unfold put
  split
  · next h => rw [look_del_same, h]
  · exact look_upd_same d v k m

/-- A write leaves every other key. -/
theorem look_put_ne [DecidableEq α] (d v : α) {j k : Nat} (h : j ≠ k) (m : Map α) :
    look d j (put d k v m) = look d j m := by
  unfold put
  split
  · exact look_del_ne d h m
  · exact look_upd_ne d v h m

theorem find_upd_same (v : α) (k : Nat) (m : Map α) : find k (upd k v m) = some v := by
  induction m with
  | nil => simp [upd, del, ins, find]
  | cons x m ih =>
    by_cases h : x.1 = k
    · simpa [upd, del, h] using ih
    · by_cases hk : k < x.1
      · simp [upd, del, ins, find, h, hk]
      · simpa [upd, del, ins, find, h, hk] using ih

/-! ## The one form: rising keys, no default listed -/

theorem sorted_iff (m : Map α) : sorted m = true ↔ m.Pairwise (fun a b => a.1 < b.1) := by
  induction m with
  | nil => simp [sorted]
  | cons x m ih =>
    cases m with
    | nil => simp [sorted]
    | cons y m =>
      simp only [sorted, Bool.and_eq_true, decide_eq_true_eq, ih]
      rw [List.pairwise_cons (a := x)]
      constructor
      · rintro ⟨h, hp⟩
        refine ⟨fun z hz => ?_, hp⟩
        rcases List.mem_cons.1 hz with rfl | hz
        · exact h
        · exact Nat.lt_trans h ((List.pairwise_cons.1 hp).1 z hz)
      · rintro ⟨h, hp⟩
        exact ⟨h y List.mem_cons_self, hp⟩

theorem proper_iff [DecidableEq α] (d : α) (m : Map α) : proper d m = true ↔ ∀ p ∈ m, p.2 ≠ d := by
  induction m with
  | nil => simp [proper]
  | cons x m ih => simp [proper, ih]

theorem del_eq (k : Nat) (m : Map α) : del k m = m.filter (fun p => p.1 ≠ k) := by
  induction m with
  | nil => rfl
  | cons x m ih => by_cases h : x.1 = k <;> simp [del, h, ih]

theorem mem_ins (k : Nat) (v : α) (m : Map α) (p : Nat × α) : p ∈ ins k v m ↔ p = (k, v) ∨ p ∈ m := by
  induction m with
  | nil => simp [ins]
  | cons x m ih =>
    by_cases h : k < x.1
    · simp [ins, h]
    · simp [ins, h, ih, or_left_comm]

theorem sorted_ins (k : Nat) (v : α) (m : Map α) (h : sorted m = true) (hk : ∀ p ∈ m, p.1 ≠ k) :
    sorted (ins k v m) = true := by
  rw [sorted_iff] at h ⊢
  induction m with
  | nil => simp [ins]
  | cons x m ih =>
    have hx := List.pairwise_cons.1 h
    by_cases hl : k < x.1
    · simp only [ins, hl, if_true]
      refine List.pairwise_cons.2 ⟨fun z hz => ?_, h⟩
      rcases List.mem_cons.1 hz with rfl | hz
      · exact hl
      · exact Nat.lt_trans hl (hx.1 z hz)
    · simp only [ins, hl, if_false]
      refine List.pairwise_cons.2 ⟨fun z hz => ?_, ih hx.2 fun p hp => hk p (List.mem_cons_of_mem _ hp)⟩
      rcases (mem_ins k v m z).1 hz with rfl | hz
      · have := hk x List.mem_cons_self
        simp only
        omega
      · exact hx.1 z hz

theorem sorted_filter (f : Nat × α → Bool) (m : Map α) (h : sorted m = true) : sorted (m.filter f) = true := by
  rw [sorted_iff] at h ⊢
  exact h.filter f

theorem sorted_del (k : Nat) (m : Map α) (h : sorted m = true) : sorted (del k m) = true := by
  rw [del_eq]
  exact sorted_filter _ m h

theorem del_ne (k : Nat) (m : Map α) : ∀ p ∈ del k m, p.1 ≠ k := by
  intro p hp
  rw [del_eq] at hp
  simpa using (List.mem_filter.1 hp).2

theorem sorted_upd (k : Nat) (v : α) (m : Map α) (h : sorted m = true) : sorted (upd k v m) = true :=
  sorted_ins k v _ (sorted_del k m h) (del_ne k m)

theorem sorted_put [DecidableEq α] (d v : α) (k : Nat) (m : Map α) (h : sorted m = true) :
    sorted (put d k v m) = true := by
  unfold put
  split
  · exact sorted_del k m h
  · exact sorted_upd k v m h

theorem proper_filter [DecidableEq α] (d : α) (f : Nat × α → Bool) (m : Map α) (h : proper d m = true) :
    proper d (m.filter f) = true := by
  rw [proper_iff] at h ⊢
  exact fun p hp => h p (List.mem_filter.1 hp).1

theorem proper_put [DecidableEq α] (d v : α) (k : Nat) (m : Map α) (h : proper d m = true) :
    proper d (put d k v m) = true := by
  unfold put
  split
  · rw [del_eq]
    exact proper_filter d _ m h
  · next hv =>
    rw [proper_iff] at h ⊢
    intro p hp
    rcases (mem_ins k v _ p).1 hp with rfl | hp
    · exact hv
    · rw [del_eq] at hp
      exact h p (List.mem_filter.1 hp).1

end Sys2Proof.Machine
end

