-- ==== Sys2Proof/Laws/State.lean ====
section
/-! SUPPORT. What each update of State leaves as it was: one lemma per field. -/

namespace Sys2Proof.Machine

/-! `modSeq` changes `seqs` alone. -/

@[simp] theorem modSeq_cur (q : Nat) (f : Seq → Seq) (s : State) : (modSeq q f s).cur = s.cur := rfl
@[simp] theorem modSeq_turn (q : Nat) (f : Seq → Seq) (s : State) : (modSeq q f s).turn = s.turn := rfl
@[simp] theorem modSeq_skews (q : Nat) (f : Seq → Seq) (s : State) : (modSeq q f s).skews = s.skews := rfl
@[simp] theorem modSeq_agenda (q : Nat) (f : Seq → Seq) (s : State) : (modSeq q f s).agenda = s.agenda := rfl
@[simp] theorem modSeq_cycle (q : Nat) (f : Seq → Seq) (s : State) : (modSeq q f s).cycle = s.cycle := rfl
@[simp] theorem modSeq_freeCtr (q : Nat) (f : Seq → Seq) (s : State) : (modSeq q f s).freeCtr = s.freeCtr := rfl
@[simp] theorem modSeq_serial (q : Nat) (f : Seq → Seq) (s : State) : (modSeq q f s).serial = s.serial := rfl
@[simp] theorem modSeq_mem (q : Nat) (f : Seq → Seq) (s : State) : (modSeq q f s).mem = s.mem := rfl
@[simp] theorem modSeq_cores (q : Nat) (f : Seq → Seq) (s : State) : (modSeq q f s).cores = s.cores := rfl
@[simp] theorem modSeq_sags (q : Nat) (f : Seq → Seq) (s : State) : (modSeq q f s).sags = s.sags := rfl
@[simp] theorem modSeq_tasks (q : Nat) (f : Seq → Seq) (s : State) : (modSeq q f s).tasks = s.tasks := rfl
@[simp] theorem modSeq_launches (q : Nat) (f : Seq → Seq) (s : State) : (modSeq q f s).launches = s.launches := rfl
@[simp] theorem modSeq_pipes (q : Nat) (f : Seq → Seq) (s : State) : (modSeq q f s).pipes = s.pipes := rfl
@[simp] theorem modSeq_probes (q : Nat) (f : Seq → Seq) (s : State) : (modSeq q f s).probes = s.probes := rfl
@[simp] theorem modSeq_clState (q : Nat) (f : Seq → Seq) (s : State) : (modSeq q f s).clState = s.clState := rfl
@[simp] theorem modSeq_quadSt (q : Nat) (f : Seq → Seq) (s : State) : (modSeq q f s).quadSt = s.quadSt := rfl
@[simp] theorem modSeq_groupSt (q : Nat) (f : Seq → Seq) (s : State) : (modSeq q f s).groupSt = s.groupSt := rfl
@[simp] theorem modSeq_pcBusy (q : Nat) (f : Seq → Seq) (s : State) : (modSeq q f s).pcBusy = s.pcBusy := rfl
@[simp] theorem modSeq_ports (q : Nat) (f : Seq → Seq) (s : State) : (modSeq q f s).ports = s.ports := rfl
@[simp] theorem modSeq_flows (q : Nat) (f : Seq → Seq) (s : State) : (modSeq q f s).flows = s.flows := rfl
@[simp] theorem modSeq_pcie (q : Nat) (f : Seq → Seq) (s : State) : (modSeq q f s).pcie = s.pcie := rfl
@[simp] theorem modSeq_rot (q : Nat) (f : Seq → Seq) (s : State) : (modSeq q f s).rot = s.rot := rfl
@[simp] theorem modSeq_cfg (q : Nat) (f : Seq → Seq) (s : State) : (modSeq q f s).cfg = s.cfg := rfl
@[simp] theorem modSeq_cap (q : Nat) (f : Seq → Seq) (s : State) : (modSeq q f s).cap = s.cap := rfl
@[simp] theorem modSeq_bw (q : Nat) (f : Seq → Seq) (s : State) : (modSeq q f s).bw = s.bw := rfl
@[simp] theorem modSeq_clks (q : Nat) (f : Seq → Seq) (s : State) : (modSeq q f s).clks = s.clks := rfl
@[simp] theorem modSeq_upsets (q : Nat) (f : Seq → Seq) (s : State) : (modSeq q f s).upsets = s.upsets := rfl
@[simp] theorem modSeq_errLog (q : Nat) (f : Seq → Seq) (s : State) : (modSeq q f s).errLog = s.errLog := rfl
@[simp] theorem modSeq_phys (q : Nat) (f : Seq → Seq) (s : State) : (modSeq q f s).phys = s.phys := rfl

/-! `modMe` changes `seqs` alone. -/

@[simp] theorem modMe_cur (f : Seq → Seq) (s : State) : (modMe f s).cur = s.cur := rfl
@[simp] theorem modMe_turn (f : Seq → Seq) (s : State) : (modMe f s).turn = s.turn := rfl
@[simp] theorem modMe_skews (f : Seq → Seq) (s : State) : (modMe f s).skews = s.skews := rfl
@[simp] theorem modMe_agenda (f : Seq → Seq) (s : State) : (modMe f s).agenda = s.agenda := rfl
@[simp] theorem modMe_cycle (f : Seq → Seq) (s : State) : (modMe f s).cycle = s.cycle := rfl
@[simp] theorem modMe_freeCtr (f : Seq → Seq) (s : State) : (modMe f s).freeCtr = s.freeCtr := rfl
@[simp] theorem modMe_serial (f : Seq → Seq) (s : State) : (modMe f s).serial = s.serial := rfl
@[simp] theorem modMe_mem (f : Seq → Seq) (s : State) : (modMe f s).mem = s.mem := rfl
@[simp] theorem modMe_cores (f : Seq → Seq) (s : State) : (modMe f s).cores = s.cores := rfl
@[simp] theorem modMe_sags (f : Seq → Seq) (s : State) : (modMe f s).sags = s.sags := rfl
@[simp] theorem modMe_tasks (f : Seq → Seq) (s : State) : (modMe f s).tasks = s.tasks := rfl
@[simp] theorem modMe_launches (f : Seq → Seq) (s : State) : (modMe f s).launches = s.launches := rfl
@[simp] theorem modMe_pipes (f : Seq → Seq) (s : State) : (modMe f s).pipes = s.pipes := rfl
@[simp] theorem modMe_probes (f : Seq → Seq) (s : State) : (modMe f s).probes = s.probes := rfl
@[simp] theorem modMe_clState (f : Seq → Seq) (s : State) : (modMe f s).clState = s.clState := rfl
@[simp] theorem modMe_quadSt (f : Seq → Seq) (s : State) : (modMe f s).quadSt = s.quadSt := rfl
@[simp] theorem modMe_groupSt (f : Seq → Seq) (s : State) : (modMe f s).groupSt = s.groupSt := rfl
@[simp] theorem modMe_pcBusy (f : Seq → Seq) (s : State) : (modMe f s).pcBusy = s.pcBusy := rfl
@[simp] theorem modMe_ports (f : Seq → Seq) (s : State) : (modMe f s).ports = s.ports := rfl
@[simp] theorem modMe_flows (f : Seq → Seq) (s : State) : (modMe f s).flows = s.flows := rfl
@[simp] theorem modMe_pcie (f : Seq → Seq) (s : State) : (modMe f s).pcie = s.pcie := rfl
@[simp] theorem modMe_rot (f : Seq → Seq) (s : State) : (modMe f s).rot = s.rot := rfl
@[simp] theorem modMe_cfg (f : Seq → Seq) (s : State) : (modMe f s).cfg = s.cfg := rfl
@[simp] theorem modMe_cap (f : Seq → Seq) (s : State) : (modMe f s).cap = s.cap := rfl
@[simp] theorem modMe_bw (f : Seq → Seq) (s : State) : (modMe f s).bw = s.bw := rfl
@[simp] theorem modMe_clks (f : Seq → Seq) (s : State) : (modMe f s).clks = s.clks := rfl
@[simp] theorem modMe_upsets (f : Seq → Seq) (s : State) : (modMe f s).upsets = s.upsets := rfl
@[simp] theorem modMe_errLog (f : Seq → Seq) (s : State) : (modMe f s).errLog = s.errLog := rfl
@[simp] theorem modMe_phys (f : Seq → Seq) (s : State) : (modMe f s).phys = s.phys := rfl

/-! `modCore` changes `cores` alone. -/

@[simp] theorem modCore_cur (k : Nat) (f : Core → Core) (s : State) : (modCore k f s).cur = s.cur := rfl
@[simp] theorem modCore_turn (k : Nat) (f : Core → Core) (s : State) : (modCore k f s).turn = s.turn := rfl
@[simp] theorem modCore_skews (k : Nat) (f : Core → Core) (s : State) : (modCore k f s).skews = s.skews := rfl
@[simp] theorem modCore_agenda (k : Nat) (f : Core → Core) (s : State) : (modCore k f s).agenda = s.agenda := rfl
@[simp] theorem modCore_cycle (k : Nat) (f : Core → Core) (s : State) : (modCore k f s).cycle = s.cycle := rfl
@[simp] theorem modCore_freeCtr (k : Nat) (f : Core → Core) (s : State) : (modCore k f s).freeCtr = s.freeCtr := rfl
@[simp] theorem modCore_serial (k : Nat) (f : Core → Core) (s : State) : (modCore k f s).serial = s.serial := rfl
@[simp] theorem modCore_mem (k : Nat) (f : Core → Core) (s : State) : (modCore k f s).mem = s.mem := rfl
@[simp] theorem modCore_seqs (k : Nat) (f : Core → Core) (s : State) : (modCore k f s).seqs = s.seqs := rfl
@[simp] theorem modCore_sags (k : Nat) (f : Core → Core) (s : State) : (modCore k f s).sags = s.sags := rfl
@[simp] theorem modCore_tasks (k : Nat) (f : Core → Core) (s : State) : (modCore k f s).tasks = s.tasks := rfl
@[simp] theorem modCore_launches (k : Nat) (f : Core → Core) (s : State) : (modCore k f s).launches = s.launches := rfl
@[simp] theorem modCore_pipes (k : Nat) (f : Core → Core) (s : State) : (modCore k f s).pipes = s.pipes := rfl
@[simp] theorem modCore_probes (k : Nat) (f : Core → Core) (s : State) : (modCore k f s).probes = s.probes := rfl
@[simp] theorem modCore_clState (k : Nat) (f : Core → Core) (s : State) : (modCore k f s).clState = s.clState := rfl
@[simp] theorem modCore_quadSt (k : Nat) (f : Core → Core) (s : State) : (modCore k f s).quadSt = s.quadSt := rfl
@[simp] theorem modCore_groupSt (k : Nat) (f : Core → Core) (s : State) : (modCore k f s).groupSt = s.groupSt := rfl
@[simp] theorem modCore_pcBusy (k : Nat) (f : Core → Core) (s : State) : (modCore k f s).pcBusy = s.pcBusy := rfl
@[simp] theorem modCore_ports (k : Nat) (f : Core → Core) (s : State) : (modCore k f s).ports = s.ports := rfl
@[simp] theorem modCore_flows (k : Nat) (f : Core → Core) (s : State) : (modCore k f s).flows = s.flows := rfl
@[simp] theorem modCore_pcie (k : Nat) (f : Core → Core) (s : State) : (modCore k f s).pcie = s.pcie := rfl
@[simp] theorem modCore_rot (k : Nat) (f : Core → Core) (s : State) : (modCore k f s).rot = s.rot := rfl
@[simp] theorem modCore_cfg (k : Nat) (f : Core → Core) (s : State) : (modCore k f s).cfg = s.cfg := rfl
@[simp] theorem modCore_cap (k : Nat) (f : Core → Core) (s : State) : (modCore k f s).cap = s.cap := rfl
@[simp] theorem modCore_bw (k : Nat) (f : Core → Core) (s : State) : (modCore k f s).bw = s.bw := rfl
@[simp] theorem modCore_clks (k : Nat) (f : Core → Core) (s : State) : (modCore k f s).clks = s.clks := rfl
@[simp] theorem modCore_upsets (k : Nat) (f : Core → Core) (s : State) : (modCore k f s).upsets = s.upsets := rfl
@[simp] theorem modCore_errLog (k : Nat) (f : Core → Core) (s : State) : (modCore k f s).errLog = s.errLog := rfl
@[simp] theorem modCore_phys (k : Nat) (f : Core → Core) (s : State) : (modCore k f s).phys = s.phys := rfl

/-! `modSag` changes `sags` alone. -/

@[simp] theorem modSag_cur (n : Nat) (f : Saggar → Saggar) (s : State) : (modSag n f s).cur = s.cur := rfl
@[simp] theorem modSag_turn (n : Nat) (f : Saggar → Saggar) (s : State) : (modSag n f s).turn = s.turn := rfl
@[simp] theorem modSag_skews (n : Nat) (f : Saggar → Saggar) (s : State) : (modSag n f s).skews = s.skews := rfl
@[simp] theorem modSag_agenda (n : Nat) (f : Saggar → Saggar) (s : State) : (modSag n f s).agenda = s.agenda := rfl
@[simp] theorem modSag_cycle (n : Nat) (f : Saggar → Saggar) (s : State) : (modSag n f s).cycle = s.cycle := rfl
@[simp] theorem modSag_freeCtr (n : Nat) (f : Saggar → Saggar) (s : State) : (modSag n f s).freeCtr = s.freeCtr := rfl
@[simp] theorem modSag_serial (n : Nat) (f : Saggar → Saggar) (s : State) : (modSag n f s).serial = s.serial := rfl
@[simp] theorem modSag_mem (n : Nat) (f : Saggar → Saggar) (s : State) : (modSag n f s).mem = s.mem := rfl
@[simp] theorem modSag_seqs (n : Nat) (f : Saggar → Saggar) (s : State) : (modSag n f s).seqs = s.seqs := rfl
@[simp] theorem modSag_cores (n : Nat) (f : Saggar → Saggar) (s : State) : (modSag n f s).cores = s.cores := rfl
@[simp] theorem modSag_tasks (n : Nat) (f : Saggar → Saggar) (s : State) : (modSag n f s).tasks = s.tasks := rfl
@[simp] theorem modSag_launches (n : Nat) (f : Saggar → Saggar) (s : State) : (modSag n f s).launches = s.launches := rfl
@[simp] theorem modSag_pipes (n : Nat) (f : Saggar → Saggar) (s : State) : (modSag n f s).pipes = s.pipes := rfl
@[simp] theorem modSag_probes (n : Nat) (f : Saggar → Saggar) (s : State) : (modSag n f s).probes = s.probes := rfl
@[simp] theorem modSag_clState (n : Nat) (f : Saggar → Saggar) (s : State) : (modSag n f s).clState = s.clState := rfl
@[simp] theorem modSag_quadSt (n : Nat) (f : Saggar → Saggar) (s : State) : (modSag n f s).quadSt = s.quadSt := rfl
@[simp] theorem modSag_groupSt (n : Nat) (f : Saggar → Saggar) (s : State) : (modSag n f s).groupSt = s.groupSt := rfl
@[simp] theorem modSag_pcBusy (n : Nat) (f : Saggar → Saggar) (s : State) : (modSag n f s).pcBusy = s.pcBusy := rfl
@[simp] theorem modSag_ports (n : Nat) (f : Saggar → Saggar) (s : State) : (modSag n f s).ports = s.ports := rfl
@[simp] theorem modSag_flows (n : Nat) (f : Saggar → Saggar) (s : State) : (modSag n f s).flows = s.flows := rfl
@[simp] theorem modSag_pcie (n : Nat) (f : Saggar → Saggar) (s : State) : (modSag n f s).pcie = s.pcie := rfl
@[simp] theorem modSag_rot (n : Nat) (f : Saggar → Saggar) (s : State) : (modSag n f s).rot = s.rot := rfl
@[simp] theorem modSag_cfg (n : Nat) (f : Saggar → Saggar) (s : State) : (modSag n f s).cfg = s.cfg := rfl
@[simp] theorem modSag_cap (n : Nat) (f : Saggar → Saggar) (s : State) : (modSag n f s).cap = s.cap := rfl
@[simp] theorem modSag_bw (n : Nat) (f : Saggar → Saggar) (s : State) : (modSag n f s).bw = s.bw := rfl
@[simp] theorem modSag_clks (n : Nat) (f : Saggar → Saggar) (s : State) : (modSag n f s).clks = s.clks := rfl
@[simp] theorem modSag_upsets (n : Nat) (f : Saggar → Saggar) (s : State) : (modSag n f s).upsets = s.upsets := rfl
@[simp] theorem modSag_errLog (n : Nat) (f : Saggar → Saggar) (s : State) : (modSag n f s).errLog = s.errLog := rfl
@[simp] theorem modSag_phys (n : Nat) (f : Saggar → Saggar) (s : State) : (modSag n f s).phys = s.phys := rfl

/-! `modTask` changes `tasks` alone. -/

@[simp] theorem modTask_cur (n : Nat) (f : Task → Task) (s : State) : (modTask n f s).cur = s.cur := rfl
@[simp] theorem modTask_turn (n : Nat) (f : Task → Task) (s : State) : (modTask n f s).turn = s.turn := rfl
@[simp] theorem modTask_skews (n : Nat) (f : Task → Task) (s : State) : (modTask n f s).skews = s.skews := rfl
@[simp] theorem modTask_agenda (n : Nat) (f : Task → Task) (s : State) : (modTask n f s).agenda = s.agenda := rfl
@[simp] theorem modTask_cycle (n : Nat) (f : Task → Task) (s : State) : (modTask n f s).cycle = s.cycle := rfl
@[simp] theorem modTask_freeCtr (n : Nat) (f : Task → Task) (s : State) : (modTask n f s).freeCtr = s.freeCtr := rfl
@[simp] theorem modTask_serial (n : Nat) (f : Task → Task) (s : State) : (modTask n f s).serial = s.serial := rfl
@[simp] theorem modTask_mem (n : Nat) (f : Task → Task) (s : State) : (modTask n f s).mem = s.mem := rfl
@[simp] theorem modTask_seqs (n : Nat) (f : Task → Task) (s : State) : (modTask n f s).seqs = s.seqs := rfl
@[simp] theorem modTask_cores (n : Nat) (f : Task → Task) (s : State) : (modTask n f s).cores = s.cores := rfl
@[simp] theorem modTask_sags (n : Nat) (f : Task → Task) (s : State) : (modTask n f s).sags = s.sags := rfl
@[simp] theorem modTask_launches (n : Nat) (f : Task → Task) (s : State) : (modTask n f s).launches = s.launches := rfl
@[simp] theorem modTask_pipes (n : Nat) (f : Task → Task) (s : State) : (modTask n f s).pipes = s.pipes := rfl
@[simp] theorem modTask_probes (n : Nat) (f : Task → Task) (s : State) : (modTask n f s).probes = s.probes := rfl
@[simp] theorem modTask_clState (n : Nat) (f : Task → Task) (s : State) : (modTask n f s).clState = s.clState := rfl
@[simp] theorem modTask_quadSt (n : Nat) (f : Task → Task) (s : State) : (modTask n f s).quadSt = s.quadSt := rfl
@[simp] theorem modTask_groupSt (n : Nat) (f : Task → Task) (s : State) : (modTask n f s).groupSt = s.groupSt := rfl
@[simp] theorem modTask_pcBusy (n : Nat) (f : Task → Task) (s : State) : (modTask n f s).pcBusy = s.pcBusy := rfl
@[simp] theorem modTask_ports (n : Nat) (f : Task → Task) (s : State) : (modTask n f s).ports = s.ports := rfl
@[simp] theorem modTask_flows (n : Nat) (f : Task → Task) (s : State) : (modTask n f s).flows = s.flows := rfl
@[simp] theorem modTask_pcie (n : Nat) (f : Task → Task) (s : State) : (modTask n f s).pcie = s.pcie := rfl
@[simp] theorem modTask_rot (n : Nat) (f : Task → Task) (s : State) : (modTask n f s).rot = s.rot := rfl
@[simp] theorem modTask_cfg (n : Nat) (f : Task → Task) (s : State) : (modTask n f s).cfg = s.cfg := rfl
@[simp] theorem modTask_cap (n : Nat) (f : Task → Task) (s : State) : (modTask n f s).cap = s.cap := rfl
@[simp] theorem modTask_bw (n : Nat) (f : Task → Task) (s : State) : (modTask n f s).bw = s.bw := rfl
@[simp] theorem modTask_clks (n : Nat) (f : Task → Task) (s : State) : (modTask n f s).clks = s.clks := rfl
@[simp] theorem modTask_upsets (n : Nat) (f : Task → Task) (s : State) : (modTask n f s).upsets = s.upsets := rfl
@[simp] theorem modTask_errLog (n : Nat) (f : Task → Task) (s : State) : (modTask n f s).errLog = s.errLog := rfl
@[simp] theorem modTask_phys (n : Nat) (f : Task → Task) (s : State) : (modTask n f s).phys = s.phys := rfl

/-! `modLaunch` changes `launches` alone. -/

@[simp] theorem modLaunch_cur (n : Nat) (f : Launch → Launch) (s : State) : (modLaunch n f s).cur = s.cur := rfl
@[simp] theorem modLaunch_turn (n : Nat) (f : Launch → Launch) (s : State) : (modLaunch n f s).turn = s.turn := rfl
@[simp] theorem modLaunch_skews (n : Nat) (f : Launch → Launch) (s : State) : (modLaunch n f s).skews = s.skews := rfl
@[simp] theorem modLaunch_agenda (n : Nat) (f : Launch → Launch) (s : State) : (modLaunch n f s).agenda = s.agenda := rfl
@[simp] theorem modLaunch_cycle (n : Nat) (f : Launch → Launch) (s : State) : (modLaunch n f s).cycle = s.cycle := rfl
@[simp] theorem modLaunch_freeCtr (n : Nat) (f : Launch → Launch) (s : State) : (modLaunch n f s).freeCtr = s.freeCtr := rfl
@[simp] theorem modLaunch_serial (n : Nat) (f : Launch → Launch) (s : State) : (modLaunch n f s).serial = s.serial := rfl
@[simp] theorem modLaunch_mem (n : Nat) (f : Launch → Launch) (s : State) : (modLaunch n f s).mem = s.mem := rfl
@[simp] theorem modLaunch_seqs (n : Nat) (f : Launch → Launch) (s : State) : (modLaunch n f s).seqs = s.seqs := rfl
@[simp] theorem modLaunch_cores (n : Nat) (f : Launch → Launch) (s : State) : (modLaunch n f s).cores = s.cores := rfl
@[simp] theorem modLaunch_sags (n : Nat) (f : Launch → Launch) (s : State) : (modLaunch n f s).sags = s.sags := rfl
@[simp] theorem modLaunch_tasks (n : Nat) (f : Launch → Launch) (s : State) : (modLaunch n f s).tasks = s.tasks := rfl
@[simp] theorem modLaunch_pipes (n : Nat) (f : Launch → Launch) (s : State) : (modLaunch n f s).pipes = s.pipes := rfl
@[simp] theorem modLaunch_probes (n : Nat) (f : Launch → Launch) (s : State) : (modLaunch n f s).probes = s.probes := rfl
@[simp] theorem modLaunch_clState (n : Nat) (f : Launch → Launch) (s : State) : (modLaunch n f s).clState = s.clState := rfl
@[simp] theorem modLaunch_quadSt (n : Nat) (f : Launch → Launch) (s : State) : (modLaunch n f s).quadSt = s.quadSt := rfl
@[simp] theorem modLaunch_groupSt (n : Nat) (f : Launch → Launch) (s : State) : (modLaunch n f s).groupSt = s.groupSt := rfl
@[simp] theorem modLaunch_pcBusy (n : Nat) (f : Launch → Launch) (s : State) : (modLaunch n f s).pcBusy = s.pcBusy := rfl
@[simp] theorem modLaunch_ports (n : Nat) (f : Launch → Launch) (s : State) : (modLaunch n f s).ports = s.ports := rfl
@[simp] theorem modLaunch_flows (n : Nat) (f : Launch → Launch) (s : State) : (modLaunch n f s).flows = s.flows := rfl
@[simp] theorem modLaunch_pcie (n : Nat) (f : Launch → Launch) (s : State) : (modLaunch n f s).pcie = s.pcie := rfl
@[simp] theorem modLaunch_rot (n : Nat) (f : Launch → Launch) (s : State) : (modLaunch n f s).rot = s.rot := rfl
@[simp] theorem modLaunch_cfg (n : Nat) (f : Launch → Launch) (s : State) : (modLaunch n f s).cfg = s.cfg := rfl
@[simp] theorem modLaunch_cap (n : Nat) (f : Launch → Launch) (s : State) : (modLaunch n f s).cap = s.cap := rfl
@[simp] theorem modLaunch_bw (n : Nat) (f : Launch → Launch) (s : State) : (modLaunch n f s).bw = s.bw := rfl
@[simp] theorem modLaunch_clks (n : Nat) (f : Launch → Launch) (s : State) : (modLaunch n f s).clks = s.clks := rfl
@[simp] theorem modLaunch_upsets (n : Nat) (f : Launch → Launch) (s : State) : (modLaunch n f s).upsets = s.upsets := rfl
@[simp] theorem modLaunch_errLog (n : Nat) (f : Launch → Launch) (s : State) : (modLaunch n f s).errLog = s.errLog := rfl
@[simp] theorem modLaunch_phys (n : Nat) (f : Launch → Launch) (s : State) : (modLaunch n f s).phys = s.phys := rfl

/-! `modPipe` changes `pipes` alone. -/

@[simp] theorem modPipe_cur (n : Nat) (f : Pipe → Pipe) (s : State) : (modPipe n f s).cur = s.cur := rfl
@[simp] theorem modPipe_turn (n : Nat) (f : Pipe → Pipe) (s : State) : (modPipe n f s).turn = s.turn := rfl
@[simp] theorem modPipe_skews (n : Nat) (f : Pipe → Pipe) (s : State) : (modPipe n f s).skews = s.skews := rfl
@[simp] theorem modPipe_agenda (n : Nat) (f : Pipe → Pipe) (s : State) : (modPipe n f s).agenda = s.agenda := rfl
@[simp] theorem modPipe_cycle (n : Nat) (f : Pipe → Pipe) (s : State) : (modPipe n f s).cycle = s.cycle := rfl
@[simp] theorem modPipe_freeCtr (n : Nat) (f : Pipe → Pipe) (s : State) : (modPipe n f s).freeCtr = s.freeCtr := rfl
@[simp] theorem modPipe_serial (n : Nat) (f : Pipe → Pipe) (s : State) : (modPipe n f s).serial = s.serial := rfl
@[simp] theorem modPipe_mem (n : Nat) (f : Pipe → Pipe) (s : State) : (modPipe n f s).mem = s.mem := rfl
@[simp] theorem modPipe_seqs (n : Nat) (f : Pipe → Pipe) (s : State) : (modPipe n f s).seqs = s.seqs := rfl
@[simp] theorem modPipe_cores (n : Nat) (f : Pipe → Pipe) (s : State) : (modPipe n f s).cores = s.cores := rfl
@[simp] theorem modPipe_sags (n : Nat) (f : Pipe → Pipe) (s : State) : (modPipe n f s).sags = s.sags := rfl
@[simp] theorem modPipe_tasks (n : Nat) (f : Pipe → Pipe) (s : State) : (modPipe n f s).tasks = s.tasks := rfl
@[simp] theorem modPipe_launches (n : Nat) (f : Pipe → Pipe) (s : State) : (modPipe n f s).launches = s.launches := rfl
@[simp] theorem modPipe_probes (n : Nat) (f : Pipe → Pipe) (s : State) : (modPipe n f s).probes = s.probes := rfl
@[simp] theorem modPipe_clState (n : Nat) (f : Pipe → Pipe) (s : State) : (modPipe n f s).clState = s.clState := rfl
@[simp] theorem modPipe_quadSt (n : Nat) (f : Pipe → Pipe) (s : State) : (modPipe n f s).quadSt = s.quadSt := rfl
@[simp] theorem modPipe_groupSt (n : Nat) (f : Pipe → Pipe) (s : State) : (modPipe n f s).groupSt = s.groupSt := rfl
@[simp] theorem modPipe_pcBusy (n : Nat) (f : Pipe → Pipe) (s : State) : (modPipe n f s).pcBusy = s.pcBusy := rfl
@[simp] theorem modPipe_ports (n : Nat) (f : Pipe → Pipe) (s : State) : (modPipe n f s).ports = s.ports := rfl
@[simp] theorem modPipe_flows (n : Nat) (f : Pipe → Pipe) (s : State) : (modPipe n f s).flows = s.flows := rfl
@[simp] theorem modPipe_pcie (n : Nat) (f : Pipe → Pipe) (s : State) : (modPipe n f s).pcie = s.pcie := rfl
@[simp] theorem modPipe_rot (n : Nat) (f : Pipe → Pipe) (s : State) : (modPipe n f s).rot = s.rot := rfl
@[simp] theorem modPipe_cfg (n : Nat) (f : Pipe → Pipe) (s : State) : (modPipe n f s).cfg = s.cfg := rfl
@[simp] theorem modPipe_cap (n : Nat) (f : Pipe → Pipe) (s : State) : (modPipe n f s).cap = s.cap := rfl
@[simp] theorem modPipe_bw (n : Nat) (f : Pipe → Pipe) (s : State) : (modPipe n f s).bw = s.bw := rfl
@[simp] theorem modPipe_clks (n : Nat) (f : Pipe → Pipe) (s : State) : (modPipe n f s).clks = s.clks := rfl
@[simp] theorem modPipe_upsets (n : Nat) (f : Pipe → Pipe) (s : State) : (modPipe n f s).upsets = s.upsets := rfl
@[simp] theorem modPipe_errLog (n : Nat) (f : Pipe → Pipe) (s : State) : (modPipe n f s).errLog = s.errLog := rfl
@[simp] theorem modPipe_phys (n : Nat) (f : Pipe → Pipe) (s : State) : (modPipe n f s).phys = s.phys := rfl

/-! `modPort` changes `ports` alone. -/

@[simp] theorem modPort_cur (n : Nat) (f : Port → Port) (s : State) : (modPort n f s).cur = s.cur := rfl
@[simp] theorem modPort_turn (n : Nat) (f : Port → Port) (s : State) : (modPort n f s).turn = s.turn := rfl
@[simp] theorem modPort_skews (n : Nat) (f : Port → Port) (s : State) : (modPort n f s).skews = s.skews := rfl
@[simp] theorem modPort_agenda (n : Nat) (f : Port → Port) (s : State) : (modPort n f s).agenda = s.agenda := rfl
@[simp] theorem modPort_cycle (n : Nat) (f : Port → Port) (s : State) : (modPort n f s).cycle = s.cycle := rfl
@[simp] theorem modPort_freeCtr (n : Nat) (f : Port → Port) (s : State) : (modPort n f s).freeCtr = s.freeCtr := rfl
@[simp] theorem modPort_serial (n : Nat) (f : Port → Port) (s : State) : (modPort n f s).serial = s.serial := rfl
@[simp] theorem modPort_mem (n : Nat) (f : Port → Port) (s : State) : (modPort n f s).mem = s.mem := rfl
@[simp] theorem modPort_seqs (n : Nat) (f : Port → Port) (s : State) : (modPort n f s).seqs = s.seqs := rfl
@[simp] theorem modPort_cores (n : Nat) (f : Port → Port) (s : State) : (modPort n f s).cores = s.cores := rfl
@[simp] theorem modPort_sags (n : Nat) (f : Port → Port) (s : State) : (modPort n f s).sags = s.sags := rfl
@[simp] theorem modPort_tasks (n : Nat) (f : Port → Port) (s : State) : (modPort n f s).tasks = s.tasks := rfl
@[simp] theorem modPort_launches (n : Nat) (f : Port → Port) (s : State) : (modPort n f s).launches = s.launches := rfl
@[simp] theorem modPort_pipes (n : Nat) (f : Port → Port) (s : State) : (modPort n f s).pipes = s.pipes := rfl
@[simp] theorem modPort_probes (n : Nat) (f : Port → Port) (s : State) : (modPort n f s).probes = s.probes := rfl
@[simp] theorem modPort_clState (n : Nat) (f : Port → Port) (s : State) : (modPort n f s).clState = s.clState := rfl
@[simp] theorem modPort_quadSt (n : Nat) (f : Port → Port) (s : State) : (modPort n f s).quadSt = s.quadSt := rfl
@[simp] theorem modPort_groupSt (n : Nat) (f : Port → Port) (s : State) : (modPort n f s).groupSt = s.groupSt := rfl
@[simp] theorem modPort_pcBusy (n : Nat) (f : Port → Port) (s : State) : (modPort n f s).pcBusy = s.pcBusy := rfl
@[simp] theorem modPort_flows (n : Nat) (f : Port → Port) (s : State) : (modPort n f s).flows = s.flows := rfl
@[simp] theorem modPort_pcie (n : Nat) (f : Port → Port) (s : State) : (modPort n f s).pcie = s.pcie := rfl
@[simp] theorem modPort_rot (n : Nat) (f : Port → Port) (s : State) : (modPort n f s).rot = s.rot := rfl
@[simp] theorem modPort_cfg (n : Nat) (f : Port → Port) (s : State) : (modPort n f s).cfg = s.cfg := rfl
@[simp] theorem modPort_cap (n : Nat) (f : Port → Port) (s : State) : (modPort n f s).cap = s.cap := rfl
@[simp] theorem modPort_bw (n : Nat) (f : Port → Port) (s : State) : (modPort n f s).bw = s.bw := rfl
@[simp] theorem modPort_clks (n : Nat) (f : Port → Port) (s : State) : (modPort n f s).clks = s.clks := rfl
@[simp] theorem modPort_upsets (n : Nat) (f : Port → Port) (s : State) : (modPort n f s).upsets = s.upsets := rfl
@[simp] theorem modPort_errLog (n : Nat) (f : Port → Port) (s : State) : (modPort n f s).errLog = s.errLog := rfl
@[simp] theorem modPort_phys (n : Nat) (f : Port → Port) (s : State) : (modPort n f s).phys = s.phys := rfl

/-! `modPcie` changes `pcie` alone. -/

@[simp] theorem modPcie_cur (n : Nat) (f : PPort → PPort) (s : State) : (modPcie n f s).cur = s.cur := rfl
@[simp] theorem modPcie_turn (n : Nat) (f : PPort → PPort) (s : State) : (modPcie n f s).turn = s.turn := rfl
@[simp] theorem modPcie_skews (n : Nat) (f : PPort → PPort) (s : State) : (modPcie n f s).skews = s.skews := rfl
@[simp] theorem modPcie_agenda (n : Nat) (f : PPort → PPort) (s : State) : (modPcie n f s).agenda = s.agenda := rfl
@[simp] theorem modPcie_cycle (n : Nat) (f : PPort → PPort) (s : State) : (modPcie n f s).cycle = s.cycle := rfl
@[simp] theorem modPcie_freeCtr (n : Nat) (f : PPort → PPort) (s : State) : (modPcie n f s).freeCtr = s.freeCtr := rfl
@[simp] theorem modPcie_serial (n : Nat) (f : PPort → PPort) (s : State) : (modPcie n f s).serial = s.serial := rfl
@[simp] theorem modPcie_mem (n : Nat) (f : PPort → PPort) (s : State) : (modPcie n f s).mem = s.mem := rfl
@[simp] theorem modPcie_seqs (n : Nat) (f : PPort → PPort) (s : State) : (modPcie n f s).seqs = s.seqs := rfl
@[simp] theorem modPcie_cores (n : Nat) (f : PPort → PPort) (s : State) : (modPcie n f s).cores = s.cores := rfl
@[simp] theorem modPcie_sags (n : Nat) (f : PPort → PPort) (s : State) : (modPcie n f s).sags = s.sags := rfl
@[simp] theorem modPcie_tasks (n : Nat) (f : PPort → PPort) (s : State) : (modPcie n f s).tasks = s.tasks := rfl
@[simp] theorem modPcie_launches (n : Nat) (f : PPort → PPort) (s : State) : (modPcie n f s).launches = s.launches := rfl
@[simp] theorem modPcie_pipes (n : Nat) (f : PPort → PPort) (s : State) : (modPcie n f s).pipes = s.pipes := rfl
@[simp] theorem modPcie_probes (n : Nat) (f : PPort → PPort) (s : State) : (modPcie n f s).probes = s.probes := rfl
@[simp] theorem modPcie_clState (n : Nat) (f : PPort → PPort) (s : State) : (modPcie n f s).clState = s.clState := rfl
@[simp] theorem modPcie_quadSt (n : Nat) (f : PPort → PPort) (s : State) : (modPcie n f s).quadSt = s.quadSt := rfl
@[simp] theorem modPcie_groupSt (n : Nat) (f : PPort → PPort) (s : State) : (modPcie n f s).groupSt = s.groupSt := rfl
@[simp] theorem modPcie_pcBusy (n : Nat) (f : PPort → PPort) (s : State) : (modPcie n f s).pcBusy = s.pcBusy := rfl
@[simp] theorem modPcie_ports (n : Nat) (f : PPort → PPort) (s : State) : (modPcie n f s).ports = s.ports := rfl
@[simp] theorem modPcie_flows (n : Nat) (f : PPort → PPort) (s : State) : (modPcie n f s).flows = s.flows := rfl
@[simp] theorem modPcie_rot (n : Nat) (f : PPort → PPort) (s : State) : (modPcie n f s).rot = s.rot := rfl
@[simp] theorem modPcie_cfg (n : Nat) (f : PPort → PPort) (s : State) : (modPcie n f s).cfg = s.cfg := rfl
@[simp] theorem modPcie_cap (n : Nat) (f : PPort → PPort) (s : State) : (modPcie n f s).cap = s.cap := rfl
@[simp] theorem modPcie_bw (n : Nat) (f : PPort → PPort) (s : State) : (modPcie n f s).bw = s.bw := rfl
@[simp] theorem modPcie_clks (n : Nat) (f : PPort → PPort) (s : State) : (modPcie n f s).clks = s.clks := rfl
@[simp] theorem modPcie_upsets (n : Nat) (f : PPort → PPort) (s : State) : (modPcie n f s).upsets = s.upsets := rfl
@[simp] theorem modPcie_errLog (n : Nat) (f : PPort → PPort) (s : State) : (modPcie n f s).errLog = s.errLog := rfl
@[simp] theorem modPcie_phys (n : Nat) (f : PPort → PPort) (s : State) : (modPcie n f s).phys = s.phys := rfl

/-! `modFlow` changes `flows` alone. -/

@[simp] theorem modFlow_cur (n : Nat) (f : KtpRx → KtpRx) (s : State) : (modFlow n f s).cur = s.cur := rfl
@[simp] theorem modFlow_turn (n : Nat) (f : KtpRx → KtpRx) (s : State) : (modFlow n f s).turn = s.turn := rfl
@[simp] theorem modFlow_skews (n : Nat) (f : KtpRx → KtpRx) (s : State) : (modFlow n f s).skews = s.skews := rfl
@[simp] theorem modFlow_agenda (n : Nat) (f : KtpRx → KtpRx) (s : State) : (modFlow n f s).agenda = s.agenda := rfl
@[simp] theorem modFlow_cycle (n : Nat) (f : KtpRx → KtpRx) (s : State) : (modFlow n f s).cycle = s.cycle := rfl
@[simp] theorem modFlow_freeCtr (n : Nat) (f : KtpRx → KtpRx) (s : State) : (modFlow n f s).freeCtr = s.freeCtr := rfl
@[simp] theorem modFlow_serial (n : Nat) (f : KtpRx → KtpRx) (s : State) : (modFlow n f s).serial = s.serial := rfl
@[simp] theorem modFlow_mem (n : Nat) (f : KtpRx → KtpRx) (s : State) : (modFlow n f s).mem = s.mem := rfl
@[simp] theorem modFlow_seqs (n : Nat) (f : KtpRx → KtpRx) (s : State) : (modFlow n f s).seqs = s.seqs := rfl
@[simp] theorem modFlow_cores (n : Nat) (f : KtpRx → KtpRx) (s : State) : (modFlow n f s).cores = s.cores := rfl
@[simp] theorem modFlow_sags (n : Nat) (f : KtpRx → KtpRx) (s : State) : (modFlow n f s).sags = s.sags := rfl
@[simp] theorem modFlow_tasks (n : Nat) (f : KtpRx → KtpRx) (s : State) : (modFlow n f s).tasks = s.tasks := rfl
@[simp] theorem modFlow_launches (n : Nat) (f : KtpRx → KtpRx) (s : State) : (modFlow n f s).launches = s.launches := rfl
@[simp] theorem modFlow_pipes (n : Nat) (f : KtpRx → KtpRx) (s : State) : (modFlow n f s).pipes = s.pipes := rfl
@[simp] theorem modFlow_probes (n : Nat) (f : KtpRx → KtpRx) (s : State) : (modFlow n f s).probes = s.probes := rfl
@[simp] theorem modFlow_clState (n : Nat) (f : KtpRx → KtpRx) (s : State) : (modFlow n f s).clState = s.clState := rfl
@[simp] theorem modFlow_quadSt (n : Nat) (f : KtpRx → KtpRx) (s : State) : (modFlow n f s).quadSt = s.quadSt := rfl
@[simp] theorem modFlow_groupSt (n : Nat) (f : KtpRx → KtpRx) (s : State) : (modFlow n f s).groupSt = s.groupSt := rfl
@[simp] theorem modFlow_pcBusy (n : Nat) (f : KtpRx → KtpRx) (s : State) : (modFlow n f s).pcBusy = s.pcBusy := rfl
@[simp] theorem modFlow_ports (n : Nat) (f : KtpRx → KtpRx) (s : State) : (modFlow n f s).ports = s.ports := rfl
@[simp] theorem modFlow_pcie (n : Nat) (f : KtpRx → KtpRx) (s : State) : (modFlow n f s).pcie = s.pcie := rfl
@[simp] theorem modFlow_rot (n : Nat) (f : KtpRx → KtpRx) (s : State) : (modFlow n f s).rot = s.rot := rfl
@[simp] theorem modFlow_cfg (n : Nat) (f : KtpRx → KtpRx) (s : State) : (modFlow n f s).cfg = s.cfg := rfl
@[simp] theorem modFlow_cap (n : Nat) (f : KtpRx → KtpRx) (s : State) : (modFlow n f s).cap = s.cap := rfl
@[simp] theorem modFlow_bw (n : Nat) (f : KtpRx → KtpRx) (s : State) : (modFlow n f s).bw = s.bw := rfl
@[simp] theorem modFlow_clks (n : Nat) (f : KtpRx → KtpRx) (s : State) : (modFlow n f s).clks = s.clks := rfl
@[simp] theorem modFlow_upsets (n : Nat) (f : KtpRx → KtpRx) (s : State) : (modFlow n f s).upsets = s.upsets := rfl
@[simp] theorem modFlow_errLog (n : Nat) (f : KtpRx → KtpRx) (s : State) : (modFlow n f s).errLog = s.errLog := rfl
@[simp] theorem modFlow_phys (n : Nat) (f : KtpRx → KtpRx) (s : State) : (modFlow n f s).phys = s.phys := rfl

/-! `modClk` changes `clks` alone. -/

@[simp] theorem modClk_cur (n : Nat) (f : DieClk → DieClk) (s : State) : (modClk n f s).cur = s.cur := rfl
@[simp] theorem modClk_turn (n : Nat) (f : DieClk → DieClk) (s : State) : (modClk n f s).turn = s.turn := rfl
@[simp] theorem modClk_skews (n : Nat) (f : DieClk → DieClk) (s : State) : (modClk n f s).skews = s.skews := rfl
@[simp] theorem modClk_agenda (n : Nat) (f : DieClk → DieClk) (s : State) : (modClk n f s).agenda = s.agenda := rfl
@[simp] theorem modClk_cycle (n : Nat) (f : DieClk → DieClk) (s : State) : (modClk n f s).cycle = s.cycle := rfl
@[simp] theorem modClk_freeCtr (n : Nat) (f : DieClk → DieClk) (s : State) : (modClk n f s).freeCtr = s.freeCtr := rfl
@[simp] theorem modClk_serial (n : Nat) (f : DieClk → DieClk) (s : State) : (modClk n f s).serial = s.serial := rfl
@[simp] theorem modClk_mem (n : Nat) (f : DieClk → DieClk) (s : State) : (modClk n f s).mem = s.mem := rfl
@[simp] theorem modClk_seqs (n : Nat) (f : DieClk → DieClk) (s : State) : (modClk n f s).seqs = s.seqs := rfl
@[simp] theorem modClk_cores (n : Nat) (f : DieClk → DieClk) (s : State) : (modClk n f s).cores = s.cores := rfl
@[simp] theorem modClk_sags (n : Nat) (f : DieClk → DieClk) (s : State) : (modClk n f s).sags = s.sags := rfl
@[simp] theorem modClk_tasks (n : Nat) (f : DieClk → DieClk) (s : State) : (modClk n f s).tasks = s.tasks := rfl
@[simp] theorem modClk_launches (n : Nat) (f : DieClk → DieClk) (s : State) : (modClk n f s).launches = s.launches := rfl
@[simp] theorem modClk_pipes (n : Nat) (f : DieClk → DieClk) (s : State) : (modClk n f s).pipes = s.pipes := rfl
@[simp] theorem modClk_probes (n : Nat) (f : DieClk → DieClk) (s : State) : (modClk n f s).probes = s.probes := rfl
@[simp] theorem modClk_clState (n : Nat) (f : DieClk → DieClk) (s : State) : (modClk n f s).clState = s.clState := rfl
@[simp] theorem modClk_quadSt (n : Nat) (f : DieClk → DieClk) (s : State) : (modClk n f s).quadSt = s.quadSt := rfl
@[simp] theorem modClk_groupSt (n : Nat) (f : DieClk → DieClk) (s : State) : (modClk n f s).groupSt = s.groupSt := rfl
@[simp] theorem modClk_pcBusy (n : Nat) (f : DieClk → DieClk) (s : State) : (modClk n f s).pcBusy = s.pcBusy := rfl
@[simp] theorem modClk_ports (n : Nat) (f : DieClk → DieClk) (s : State) : (modClk n f s).ports = s.ports := rfl
@[simp] theorem modClk_flows (n : Nat) (f : DieClk → DieClk) (s : State) : (modClk n f s).flows = s.flows := rfl
@[simp] theorem modClk_pcie (n : Nat) (f : DieClk → DieClk) (s : State) : (modClk n f s).pcie = s.pcie := rfl
@[simp] theorem modClk_rot (n : Nat) (f : DieClk → DieClk) (s : State) : (modClk n f s).rot = s.rot := rfl
@[simp] theorem modClk_cfg (n : Nat) (f : DieClk → DieClk) (s : State) : (modClk n f s).cfg = s.cfg := rfl
@[simp] theorem modClk_cap (n : Nat) (f : DieClk → DieClk) (s : State) : (modClk n f s).cap = s.cap := rfl
@[simp] theorem modClk_bw (n : Nat) (f : DieClk → DieClk) (s : State) : (modClk n f s).bw = s.bw := rfl

/-! `modBun` changes `seqs` alone. -/

@[simp] theorem modBun_cur (f : Bun → Bun) (s : State) : (modBun f s).cur = s.cur := rfl
@[simp] theorem modBun_turn (f : Bun → Bun) (s : State) : (modBun f s).turn = s.turn := rfl
@[simp] theorem modBun_skews (f : Bun → Bun) (s : State) : (modBun f s).skews = s.skews := rfl
@[simp] theorem modBun_agenda (f : Bun → Bun) (s : State) : (modBun f s).agenda = s.agenda := rfl
@[simp] theorem modBun_cycle (f : Bun → Bun) (s : State) : (modBun f s).cycle = s.cycle := rfl
@[simp] theorem modBun_freeCtr (f : Bun → Bun) (s : State) : (modBun f s).freeCtr = s.freeCtr := rfl
@[simp] theorem modBun_serial (f : Bun → Bun) (s : State) : (modBun f s).serial = s.serial := rfl
@[simp] theorem modBun_mem (f : Bun → Bun) (s : State) : (modBun f s).mem = s.mem := rfl
@[simp] theorem modBun_cores (f : Bun → Bun) (s : State) : (modBun f s).cores = s.cores := rfl
@[simp] theorem modBun_sags (f : Bun → Bun) (s : State) : (modBun f s).sags = s.sags := rfl
@[simp] theorem modBun_tasks (f : Bun → Bun) (s : State) : (modBun f s).tasks = s.tasks := rfl
@[simp] theorem modBun_launches (f : Bun → Bun) (s : State) : (modBun f s).launches = s.launches := rfl
@[simp] theorem modBun_pipes (f : Bun → Bun) (s : State) : (modBun f s).pipes = s.pipes := rfl
@[simp] theorem modBun_probes (f : Bun → Bun) (s : State) : (modBun f s).probes = s.probes := rfl
@[simp] theorem modBun_clState (f : Bun → Bun) (s : State) : (modBun f s).clState = s.clState := rfl
@[simp] theorem modBun_quadSt (f : Bun → Bun) (s : State) : (modBun f s).quadSt = s.quadSt := rfl
@[simp] theorem modBun_groupSt (f : Bun → Bun) (s : State) : (modBun f s).groupSt = s.groupSt := rfl
@[simp] theorem modBun_pcBusy (f : Bun → Bun) (s : State) : (modBun f s).pcBusy = s.pcBusy := rfl
@[simp] theorem modBun_ports (f : Bun → Bun) (s : State) : (modBun f s).ports = s.ports := rfl
@[simp] theorem modBun_flows (f : Bun → Bun) (s : State) : (modBun f s).flows = s.flows := rfl
@[simp] theorem modBun_pcie (f : Bun → Bun) (s : State) : (modBun f s).pcie = s.pcie := rfl
@[simp] theorem modBun_rot (f : Bun → Bun) (s : State) : (modBun f s).rot = s.rot := rfl
@[simp] theorem modBun_cfg (f : Bun → Bun) (s : State) : (modBun f s).cfg = s.cfg := rfl
@[simp] theorem modBun_cap (f : Bun → Bun) (s : State) : (modBun f s).cap = s.cap := rfl
@[simp] theorem modBun_bw (f : Bun → Bun) (s : State) : (modBun f s).bw = s.bw := rfl
@[simp] theorem modBun_clks (f : Bun → Bun) (s : State) : (modBun f s).clks = s.clks := rfl
@[simp] theorem modBun_upsets (f : Bun → Bun) (s : State) : (modBun f s).upsets = s.upsets := rfl
@[simp] theorem modBun_errLog (f : Bun → Bun) (s : State) : (modBun f s).errLog = s.errLog := rfl
@[simp] theorem modBun_phys (f : Bun → Bun) (s : State) : (modBun f s).phys = s.phys := rfl

/-! `setMem` changes `mem` alone. -/

@[simp] theorem setMem_cur (a : Nat) (b : List Byte) (s : State) : (setMem a b s).cur = s.cur := rfl
@[simp] theorem setMem_turn (a : Nat) (b : List Byte) (s : State) : (setMem a b s).turn = s.turn := rfl
@[simp] theorem setMem_skews (a : Nat) (b : List Byte) (s : State) : (setMem a b s).skews = s.skews := rfl
@[simp] theorem setMem_agenda (a : Nat) (b : List Byte) (s : State) : (setMem a b s).agenda = s.agenda := rfl
@[simp] theorem setMem_cycle (a : Nat) (b : List Byte) (s : State) : (setMem a b s).cycle = s.cycle := rfl
@[simp] theorem setMem_freeCtr (a : Nat) (b : List Byte) (s : State) : (setMem a b s).freeCtr = s.freeCtr := rfl
@[simp] theorem setMem_serial (a : Nat) (b : List Byte) (s : State) : (setMem a b s).serial = s.serial := rfl
@[simp] theorem setMem_seqs (a : Nat) (b : List Byte) (s : State) : (setMem a b s).seqs = s.seqs := rfl
@[simp] theorem setMem_cores (a : Nat) (b : List Byte) (s : State) : (setMem a b s).cores = s.cores := rfl
@[simp] theorem setMem_sags (a : Nat) (b : List Byte) (s : State) : (setMem a b s).sags = s.sags := rfl
@[simp] theorem setMem_tasks (a : Nat) (b : List Byte) (s : State) : (setMem a b s).tasks = s.tasks := rfl
@[simp] theorem setMem_launches (a : Nat) (b : List Byte) (s : State) : (setMem a b s).launches = s.launches := rfl
@[simp] theorem setMem_pipes (a : Nat) (b : List Byte) (s : State) : (setMem a b s).pipes = s.pipes := rfl
@[simp] theorem setMem_probes (a : Nat) (b : List Byte) (s : State) : (setMem a b s).probes = s.probes := rfl
@[simp] theorem setMem_clState (a : Nat) (b : List Byte) (s : State) : (setMem a b s).clState = s.clState := rfl
@[simp] theorem setMem_quadSt (a : Nat) (b : List Byte) (s : State) : (setMem a b s).quadSt = s.quadSt := rfl
@[simp] theorem setMem_groupSt (a : Nat) (b : List Byte) (s : State) : (setMem a b s).groupSt = s.groupSt := rfl
@[simp] theorem setMem_pcBusy (a : Nat) (b : List Byte) (s : State) : (setMem a b s).pcBusy = s.pcBusy := rfl
@[simp] theorem setMem_ports (a : Nat) (b : List Byte) (s : State) : (setMem a b s).ports = s.ports := rfl
@[simp] theorem setMem_flows (a : Nat) (b : List Byte) (s : State) : (setMem a b s).flows = s.flows := rfl
@[simp] theorem setMem_pcie (a : Nat) (b : List Byte) (s : State) : (setMem a b s).pcie = s.pcie := rfl
@[simp] theorem setMem_rot (a : Nat) (b : List Byte) (s : State) : (setMem a b s).rot = s.rot := rfl
@[simp] theorem setMem_cfg (a : Nat) (b : List Byte) (s : State) : (setMem a b s).cfg = s.cfg := rfl
@[simp] theorem setMem_cap (a : Nat) (b : List Byte) (s : State) : (setMem a b s).cap = s.cap := rfl
@[simp] theorem setMem_bw (a : Nat) (b : List Byte) (s : State) : (setMem a b s).bw = s.bw := rfl
@[simp] theorem setMem_clks (a : Nat) (b : List Byte) (s : State) : (setMem a b s).clks = s.clks := rfl
@[simp] theorem setMem_upsets (a : Nat) (b : List Byte) (s : State) : (setMem a b s).upsets = s.upsets := rfl
@[simp] theorem setMem_errLog (a : Nat) (b : List Byte) (s : State) : (setMem a b s).errLog = s.errLog := rfl
@[simp] theorem setMem_phys (a : Nat) (b : List Byte) (s : State) : (setMem a b s).phys = s.phys := rfl

/-! `marked` changes `mem` alone. -/

@[simp] theorem marked_cur (w : Bool) (l : List Nat) (s : State) : (marked w l s).cur = s.cur := rfl
@[simp] theorem marked_turn (w : Bool) (l : List Nat) (s : State) : (marked w l s).turn = s.turn := rfl
@[simp] theorem marked_skews (w : Bool) (l : List Nat) (s : State) : (marked w l s).skews = s.skews := rfl
@[simp] theorem marked_agenda (w : Bool) (l : List Nat) (s : State) : (marked w l s).agenda = s.agenda := rfl
@[simp] theorem marked_cycle (w : Bool) (l : List Nat) (s : State) : (marked w l s).cycle = s.cycle := rfl
@[simp] theorem marked_freeCtr (w : Bool) (l : List Nat) (s : State) : (marked w l s).freeCtr = s.freeCtr := rfl
@[simp] theorem marked_serial (w : Bool) (l : List Nat) (s : State) : (marked w l s).serial = s.serial := rfl
@[simp] theorem marked_seqs (w : Bool) (l : List Nat) (s : State) : (marked w l s).seqs = s.seqs := rfl
@[simp] theorem marked_cores (w : Bool) (l : List Nat) (s : State) : (marked w l s).cores = s.cores := rfl
@[simp] theorem marked_sags (w : Bool) (l : List Nat) (s : State) : (marked w l s).sags = s.sags := rfl
@[simp] theorem marked_tasks (w : Bool) (l : List Nat) (s : State) : (marked w l s).tasks = s.tasks := rfl
@[simp] theorem marked_launches (w : Bool) (l : List Nat) (s : State) : (marked w l s).launches = s.launches := rfl
@[simp] theorem marked_pipes (w : Bool) (l : List Nat) (s : State) : (marked w l s).pipes = s.pipes := rfl
@[simp] theorem marked_probes (w : Bool) (l : List Nat) (s : State) : (marked w l s).probes = s.probes := rfl
@[simp] theorem marked_clState (w : Bool) (l : List Nat) (s : State) : (marked w l s).clState = s.clState := rfl
@[simp] theorem marked_quadSt (w : Bool) (l : List Nat) (s : State) : (marked w l s).quadSt = s.quadSt := rfl
@[simp] theorem marked_groupSt (w : Bool) (l : List Nat) (s : State) : (marked w l s).groupSt = s.groupSt := rfl
@[simp] theorem marked_pcBusy (w : Bool) (l : List Nat) (s : State) : (marked w l s).pcBusy = s.pcBusy := rfl
@[simp] theorem marked_ports (w : Bool) (l : List Nat) (s : State) : (marked w l s).ports = s.ports := rfl
@[simp] theorem marked_flows (w : Bool) (l : List Nat) (s : State) : (marked w l s).flows = s.flows := rfl
@[simp] theorem marked_pcie (w : Bool) (l : List Nat) (s : State) : (marked w l s).pcie = s.pcie := rfl
@[simp] theorem marked_rot (w : Bool) (l : List Nat) (s : State) : (marked w l s).rot = s.rot := rfl
@[simp] theorem marked_cfg (w : Bool) (l : List Nat) (s : State) : (marked w l s).cfg = s.cfg := rfl
@[simp] theorem marked_cap (w : Bool) (l : List Nat) (s : State) : (marked w l s).cap = s.cap := rfl
@[simp] theorem marked_bw (w : Bool) (l : List Nat) (s : State) : (marked w l s).bw = s.bw := rfl
@[simp] theorem marked_clks (w : Bool) (l : List Nat) (s : State) : (marked w l s).clks = s.clks := rfl
@[simp] theorem marked_upsets (w : Bool) (l : List Nat) (s : State) : (marked w l s).upsets = s.upsets := rfl
@[simp] theorem marked_errLog (w : Bool) (l : List Nat) (s : State) : (marked w l s).errLog = s.errLog := rfl
@[simp] theorem marked_phys (w : Bool) (l : List Nat) (s : State) : (marked w l s).phys = s.phys := rfl

/-! `setCluster` changes `clState` alone. -/

@[simp] theorem setCluster_cur (st : RState) (p : Nat) (s : State) : (setCluster st p s).cur = s.cur := rfl
@[simp] theorem setCluster_turn (st : RState) (p : Nat) (s : State) : (setCluster st p s).turn = s.turn := rfl
@[simp] theorem setCluster_skews (st : RState) (p : Nat) (s : State) : (setCluster st p s).skews = s.skews := rfl
@[simp] theorem setCluster_agenda (st : RState) (p : Nat) (s : State) : (setCluster st p s).agenda = s.agenda := rfl
@[simp] theorem setCluster_cycle (st : RState) (p : Nat) (s : State) : (setCluster st p s).cycle = s.cycle := rfl
@[simp] theorem setCluster_freeCtr (st : RState) (p : Nat) (s : State) : (setCluster st p s).freeCtr = s.freeCtr := rfl
@[simp] theorem setCluster_serial (st : RState) (p : Nat) (s : State) : (setCluster st p s).serial = s.serial := rfl
@[simp] theorem setCluster_mem (st : RState) (p : Nat) (s : State) : (setCluster st p s).mem = s.mem := rfl
@[simp] theorem setCluster_seqs (st : RState) (p : Nat) (s : State) : (setCluster st p s).seqs = s.seqs := rfl
@[simp] theorem setCluster_cores (st : RState) (p : Nat) (s : State) : (setCluster st p s).cores = s.cores := rfl
@[simp] theorem setCluster_sags (st : RState) (p : Nat) (s : State) : (setCluster st p s).sags = s.sags := rfl
@[simp] theorem setCluster_tasks (st : RState) (p : Nat) (s : State) : (setCluster st p s).tasks = s.tasks := rfl
@[simp] theorem setCluster_launches (st : RState) (p : Nat) (s : State) : (setCluster st p s).launches = s.launches := rfl
@[simp] theorem setCluster_pipes (st : RState) (p : Nat) (s : State) : (setCluster st p s).pipes = s.pipes := rfl
@[simp] theorem setCluster_probes (st : RState) (p : Nat) (s : State) : (setCluster st p s).probes = s.probes := rfl
@[simp] theorem setCluster_quadSt (st : RState) (p : Nat) (s : State) : (setCluster st p s).quadSt = s.quadSt := rfl
@[simp] theorem setCluster_groupSt (st : RState) (p : Nat) (s : State) : (setCluster st p s).groupSt = s.groupSt := rfl
@[simp] theorem setCluster_pcBusy (st : RState) (p : Nat) (s : State) : (setCluster st p s).pcBusy = s.pcBusy := rfl
@[simp] theorem setCluster_ports (st : RState) (p : Nat) (s : State) : (setCluster st p s).ports = s.ports := rfl
@[simp] theorem setCluster_flows (st : RState) (p : Nat) (s : State) : (setCluster st p s).flows = s.flows := rfl
@[simp] theorem setCluster_pcie (st : RState) (p : Nat) (s : State) : (setCluster st p s).pcie = s.pcie := rfl
@[simp] theorem setCluster_rot (st : RState) (p : Nat) (s : State) : (setCluster st p s).rot = s.rot := rfl
@[simp] theorem setCluster_cfg (st : RState) (p : Nat) (s : State) : (setCluster st p s).cfg = s.cfg := rfl
@[simp] theorem setCluster_cap (st : RState) (p : Nat) (s : State) : (setCluster st p s).cap = s.cap := rfl
@[simp] theorem setCluster_bw (st : RState) (p : Nat) (s : State) : (setCluster st p s).bw = s.bw := rfl
@[simp] theorem setCluster_clks (st : RState) (p : Nat) (s : State) : (setCluster st p s).clks = s.clks := rfl
@[simp] theorem setCluster_upsets (st : RState) (p : Nat) (s : State) : (setCluster st p s).upsets = s.upsets := rfl
@[simp] theorem setCluster_errLog (st : RState) (p : Nat) (s : State) : (setCluster st p s).errLog = s.errLog := rfl
@[simp] theorem setCluster_phys (st : RState) (p : Nat) (s : State) : (setCluster st p s).phys = s.phys := rfl

/-! `setQuad` changes `quadSt` alone. -/

@[simp] theorem setQuad_cur (st : RState) (p : Nat) (s : State) : (setQuad st p s).cur = s.cur := rfl
@[simp] theorem setQuad_turn (st : RState) (p : Nat) (s : State) : (setQuad st p s).turn = s.turn := rfl
@[simp] theorem setQuad_skews (st : RState) (p : Nat) (s : State) : (setQuad st p s).skews = s.skews := rfl
@[simp] theorem setQuad_agenda (st : RState) (p : Nat) (s : State) : (setQuad st p s).agenda = s.agenda := rfl
@[simp] theorem setQuad_cycle (st : RState) (p : Nat) (s : State) : (setQuad st p s).cycle = s.cycle := rfl
@[simp] theorem setQuad_freeCtr (st : RState) (p : Nat) (s : State) : (setQuad st p s).freeCtr = s.freeCtr := rfl
@[simp] theorem setQuad_serial (st : RState) (p : Nat) (s : State) : (setQuad st p s).serial = s.serial := rfl
@[simp] theorem setQuad_mem (st : RState) (p : Nat) (s : State) : (setQuad st p s).mem = s.mem := rfl
@[simp] theorem setQuad_seqs (st : RState) (p : Nat) (s : State) : (setQuad st p s).seqs = s.seqs := rfl
@[simp] theorem setQuad_cores (st : RState) (p : Nat) (s : State) : (setQuad st p s).cores = s.cores := rfl
@[simp] theorem setQuad_sags (st : RState) (p : Nat) (s : State) : (setQuad st p s).sags = s.sags := rfl
@[simp] theorem setQuad_tasks (st : RState) (p : Nat) (s : State) : (setQuad st p s).tasks = s.tasks := rfl
@[simp] theorem setQuad_launches (st : RState) (p : Nat) (s : State) : (setQuad st p s).launches = s.launches := rfl
@[simp] theorem setQuad_pipes (st : RState) (p : Nat) (s : State) : (setQuad st p s).pipes = s.pipes := rfl
@[simp] theorem setQuad_probes (st : RState) (p : Nat) (s : State) : (setQuad st p s).probes = s.probes := rfl
@[simp] theorem setQuad_clState (st : RState) (p : Nat) (s : State) : (setQuad st p s).clState = s.clState := rfl
@[simp] theorem setQuad_groupSt (st : RState) (p : Nat) (s : State) : (setQuad st p s).groupSt = s.groupSt := rfl
@[simp] theorem setQuad_pcBusy (st : RState) (p : Nat) (s : State) : (setQuad st p s).pcBusy = s.pcBusy := rfl
@[simp] theorem setQuad_ports (st : RState) (p : Nat) (s : State) : (setQuad st p s).ports = s.ports := rfl
@[simp] theorem setQuad_flows (st : RState) (p : Nat) (s : State) : (setQuad st p s).flows = s.flows := rfl
@[simp] theorem setQuad_pcie (st : RState) (p : Nat) (s : State) : (setQuad st p s).pcie = s.pcie := rfl
@[simp] theorem setQuad_rot (st : RState) (p : Nat) (s : State) : (setQuad st p s).rot = s.rot := rfl
@[simp] theorem setQuad_cfg (st : RState) (p : Nat) (s : State) : (setQuad st p s).cfg = s.cfg := rfl
@[simp] theorem setQuad_cap (st : RState) (p : Nat) (s : State) : (setQuad st p s).cap = s.cap := rfl
@[simp] theorem setQuad_bw (st : RState) (p : Nat) (s : State) : (setQuad st p s).bw = s.bw := rfl
@[simp] theorem setQuad_clks (st : RState) (p : Nat) (s : State) : (setQuad st p s).clks = s.clks := rfl
@[simp] theorem setQuad_upsets (st : RState) (p : Nat) (s : State) : (setQuad st p s).upsets = s.upsets := rfl
@[simp] theorem setQuad_errLog (st : RState) (p : Nat) (s : State) : (setQuad st p s).errLog = s.errLog := rfl
@[simp] theorem setQuad_phys (st : RState) (p : Nat) (s : State) : (setQuad st p s).phys = s.phys := rfl

/-! `setGroup` changes `groupSt` alone. -/

@[simp] theorem setGroup_cur (st : RState) (p : Nat) (s : State) : (setGroup st p s).cur = s.cur := rfl
@[simp] theorem setGroup_turn (st : RState) (p : Nat) (s : State) : (setGroup st p s).turn = s.turn := rfl
@[simp] theorem setGroup_skews (st : RState) (p : Nat) (s : State) : (setGroup st p s).skews = s.skews := rfl
@[simp] theorem setGroup_agenda (st : RState) (p : Nat) (s : State) : (setGroup st p s).agenda = s.agenda := rfl
@[simp] theorem setGroup_cycle (st : RState) (p : Nat) (s : State) : (setGroup st p s).cycle = s.cycle := rfl
@[simp] theorem setGroup_freeCtr (st : RState) (p : Nat) (s : State) : (setGroup st p s).freeCtr = s.freeCtr := rfl
@[simp] theorem setGroup_serial (st : RState) (p : Nat) (s : State) : (setGroup st p s).serial = s.serial := rfl
@[simp] theorem setGroup_mem (st : RState) (p : Nat) (s : State) : (setGroup st p s).mem = s.mem := rfl
@[simp] theorem setGroup_seqs (st : RState) (p : Nat) (s : State) : (setGroup st p s).seqs = s.seqs := rfl
@[simp] theorem setGroup_cores (st : RState) (p : Nat) (s : State) : (setGroup st p s).cores = s.cores := rfl
@[simp] theorem setGroup_sags (st : RState) (p : Nat) (s : State) : (setGroup st p s).sags = s.sags := rfl
@[simp] theorem setGroup_tasks (st : RState) (p : Nat) (s : State) : (setGroup st p s).tasks = s.tasks := rfl
@[simp] theorem setGroup_launches (st : RState) (p : Nat) (s : State) : (setGroup st p s).launches = s.launches := rfl
@[simp] theorem setGroup_pipes (st : RState) (p : Nat) (s : State) : (setGroup st p s).pipes = s.pipes := rfl
@[simp] theorem setGroup_probes (st : RState) (p : Nat) (s : State) : (setGroup st p s).probes = s.probes := rfl
@[simp] theorem setGroup_clState (st : RState) (p : Nat) (s : State) : (setGroup st p s).clState = s.clState := rfl
@[simp] theorem setGroup_quadSt (st : RState) (p : Nat) (s : State) : (setGroup st p s).quadSt = s.quadSt := rfl
@[simp] theorem setGroup_pcBusy (st : RState) (p : Nat) (s : State) : (setGroup st p s).pcBusy = s.pcBusy := rfl
@[simp] theorem setGroup_ports (st : RState) (p : Nat) (s : State) : (setGroup st p s).ports = s.ports := rfl
@[simp] theorem setGroup_flows (st : RState) (p : Nat) (s : State) : (setGroup st p s).flows = s.flows := rfl
@[simp] theorem setGroup_pcie (st : RState) (p : Nat) (s : State) : (setGroup st p s).pcie = s.pcie := rfl
@[simp] theorem setGroup_rot (st : RState) (p : Nat) (s : State) : (setGroup st p s).rot = s.rot := rfl
@[simp] theorem setGroup_cfg (st : RState) (p : Nat) (s : State) : (setGroup st p s).cfg = s.cfg := rfl
@[simp] theorem setGroup_cap (st : RState) (p : Nat) (s : State) : (setGroup st p s).cap = s.cap := rfl
@[simp] theorem setGroup_bw (st : RState) (p : Nat) (s : State) : (setGroup st p s).bw = s.bw := rfl
@[simp] theorem setGroup_clks (st : RState) (p : Nat) (s : State) : (setGroup st p s).clks = s.clks := rfl
@[simp] theorem setGroup_upsets (st : RState) (p : Nat) (s : State) : (setGroup st p s).upsets = s.upsets := rfl
@[simp] theorem setGroup_errLog (st : RState) (p : Nat) (s : State) : (setGroup st p s).errLog = s.errLog := rfl
@[simp] theorem setGroup_phys (st : RState) (p : Nat) (s : State) : (setGroup st p s).phys = s.phys := rfl

end Sys2Proof.Machine
end

