-- ==== Sys2Proof/Laws/Mem.lean ====
section
/-! SUPPORT. Memory: bytes read after they are written, and the one form that every operation on it keeps. -/

namespace Sys2Proof.Machine

theorem wf_nil : Memory.wf [] = true := rfl

theorem wf_put (a : Nat) (b : Byte) (m : List Host.Cell) (h : Memory.wf m = true) :
    Memory.wf (put 0 a b m) = true := by
  simp only [Memory.wf, Bool.and_eq_true] at h ⊢
  exact ⟨sorted_put 0 b a m h.1, proper_put 0 b a m h.2⟩

theorem wf_filter (f : Host.Cell → Bool) (m : List Host.Cell) (h : Memory.wf m = true) :
    Memory.wf (m.filter f) = true := by
  simp only [Memory.wf, Bool.and_eq_true] at h ⊢
  exact ⟨sorted_filter f m h.1, proper_filter 0 f m h.2⟩

theorem wf_writeCells (l : List Byte) : ∀ (a : Nat) (m : List Host.Cell), Memory.wf m = true →
    Memory.wf (writeCells a l m) = true := by
  induction l with
  | nil => exact fun _ _ h => h
  | cons b l ih => exact fun a m h => ih (a + 1) _ (wf_put a b m h)

theorem wf_markLeaves (w : Bool) (l : List Nat) : ∀ m, Memory.wf m = true → Memory.wf (markLeaves w l m) = true := by
  induction l with
  | nil => exact fun _ h => h
  | cons a l ih =>
    intro m h
    simp only [markLeaves]
    apply ih
    split
    · exact wf_put _ _ _ (wf_put _ _ _ h)
    · exact wf_put _ _ _ h

theorem wf_spill (ln : Nat) (l : Line) (n : Nat) : ∀ m, Memory.wf m = true → Memory.wf (spill ln l n m) = true := by
  induction n with
  | zero => exact fun _ h => h
  | succ i ih =>
    intro m h
    simp only [spill]
    apply ih
    split
    · exact wf_put _ _ _ h
    · exact h

theorem wf_spillAll (r : Map Line) : ∀ m, Memory.wf m = true → Memory.wf (spillAll r m) = true := by
  induction r with
  | nil => exact fun _ h => h
  | cons x r ih => exact fun m h => ih _ (wf_spill x.1 x.2 128 m h)

theorem wf_flipIn (l : List (Nat × Nat)) : ∀ m, Memory.wf m = true → Memory.wf (flipIn l m) = true := by
  induction l with
  | nil => exact fun _ h => h
  | cons p l ih => exact fun m h => ih _ (wf_writeCells _ _ _ h)

/-- A fold of memory operations that keep the form keeps it. -/
theorem wf_foldl {β : Type} (f : List Host.Cell → β → List Host.Cell)
    (hf : ∀ m b, Memory.wf m = true → Memory.wf (f m b) = true) (l : List β) :
    ∀ m, Memory.wf m = true → Memory.wf (l.foldl f m) = true := by
  induction l with
  | nil => exact fun _ h => h
  | cons b l ih => exact fun m h => ih _ (hf m b h)

theorem wf_move (p : PageMove) (m : List Host.Cell) (h : Memory.wf m = true) : Memory.wf (p.cells m) = true := by
  refine wf_foldl _ (fun m l h => ?_) _ _ (wf_foldl _ (fun _ _ h => wf_put _ _ _ h) _ _ (wf_filter _ _ h))
  split
  · exact wf_writeCells _ _ _ h
  · exact h

/-! ## Reads and writes -/

theorem look_writeCells_out (l : List Byte) : ∀ (a i : Nat) (m : List Host.Cell), (i < a ∨ a + l.length ≤ i) →
    look 0 i (writeCells a l m) = look 0 i m := by
  induction l with
  | nil => exact fun _ _ _ _ => rfl
  | cons b l ih =>
    intro a i m h
    simp only [List.length_cons] at h
    simp only [writeCells]
    rw [ih (a + 1) i _ (by omega), look_put_ne 0 b (by omega)]

/-- A byte outside a write reads as before. -/
theorem byteAt_setMem_out (a i : Nat) (l : List Byte) (s : State) (h : i < a ∨ a + l.length ≤ i) :
    byteAt i (setMem a l s) = byteAt i s := look_writeCells_out l a i s.mem h

theorem readCells_length (m : List Host.Cell) (n : Nat) : ∀ a, (readCells m a n).length = n := by
  induction n with
  | zero => exact fun _ => rfl
  | succ n ih => exact fun a => by simp [readCells, ih]

theorem readCells_writeCells (l : List Byte) : ∀ (a : Nat) (m : List Host.Cell),
    readCells (writeCells a l m) a l.length = l := by
  induction l with
  | nil => exact fun _ _ => rfl
  | cons b l ih =>
    intro a m
    simp only [List.length_cons, readCells, writeCells]
    rw [look_writeCells_out l (a + 1) a _ (by omega), look_put_same, ih]

/-- Bytes written read back. -/
theorem readCells_setMem (a : Nat) (l : List Byte) (s : State) : readCells (setMem a l s).mem a l.length = l :=
  readCells_writeCells l a s.mem

theorem leBytes_length (n : Nat) : ∀ v, (leBytes n v).length = n := by
  induction n with
  | zero => exact fun _ => rfl
  | succ n ih => exact fun v => by simp [leBytes, ih]

theorem leNat_leBytes (n : Nat) : ∀ v, leNat (leBytes n v) = v % 256 ^ n := by
  induction n with
  | zero => exact fun v => by simp [leBytes, leNat, Nat.mod_one]
  | succ n ih =>
    intro v
    simp only [leBytes, leNat, ih, BitVec.toNat_ofNat]
    show v % 256 + 256 * (v / 256 % 256 ^ n) = v % 256 ^ (n + 1)
    rw [Nat.pow_succ, Nat.mul_comm (256 ^ n) 256, Nat.mod_mul]

/-! ## Operations on State that keep the form -/

theorem memOk_setMem (a : Nat) (b : List Byte) (s : State) (h : Memory.wf s.mem = true) :
    Memory.wf (setMem a b s).mem = true := wf_writeCells b a s.mem h

theorem memOk_marked (w : Bool) (l : List Nat) (s : State) (h : Memory.wf s.mem = true) :
    Memory.wf (marked w l s).mem = true := wf_markLeaves w l s.mem h

/-- A fold of operations that keep the form keeps it. -/
theorem memOk_foldl {β : Type} (f : State → β → State) (hf : ∀ s b, Memory.wf s.mem = true → Memory.wf (f s b).mem = true)
    (l : List β) : ∀ s, Memory.wf s.mem = true → Memory.wf (l.foldl f s).mem = true := by
  induction l with
  | nil => exact fun _ h => h
  | cons b l ih => exact fun s h => ih _ (hf s b h)

theorem acquire_mem (k c : Nat) (s : State) : (acquire k c s).mem = s.mem := by
  unfold acquire
  split <;> rfl

theorem l1Read_mem (k n : Nat) : ∀ pa s, (l1Read k pa n s).2.mem = s.mem := by
  induction n with
  | zero => exact fun _ _ => rfl
  | succ n ih =>
    intro pa s
    simp only [l1Read]
    rw [ih]
    split <;> rfl

theorem l1Write_mem (k : Nat) (l : List Byte) : ∀ pa s, (l1Write k pa l s).mem = s.mem := by
  induction l with
  | nil => exact fun _ _ => rfl
  | cons b l ih => exact fun pa s => by simp only [l1Write]; rw [ih]; rfl

theorem memOk_countCoreErr (k : Option Nat) (lo n : Nat) (s : State) (h : Memory.wf s.mem = true) :
    Memory.wf (countCoreErr k lo n s).mem = true := by
  cases k <;> exact h

@[simp] theorem mapCopies_mem (f : Copy → Copy) (s : State) : (mapCopies f s).mem = s.mem := rfl
@[simp] theorem mapCopies_seqs (f : Copy → Copy) (s : State) : (mapCopies f s).seqs = s.seqs := rfl

theorem memOk_zeroLine (ln : Nat) (s : State) (h : Memory.wf s.mem = true) : Memory.wf (zeroLine ln s).mem = true := by
  unfold zeroLine
  split
  · rw [mapCopies_mem]
    exact memOk_setMem _ _ _ h
  · split <;> exact h

theorem memOk_healLines (k : Option Nat) (l : List Nat) (s : State) (h : Memory.wf s.mem = true) :
    Memory.wf (healLines k l s).mem = true := by
  unfold healLines
  split
  · exact h
  · exact memOk_foldl _ (fun _ _ h => memOk_zeroLine _ _ h) _ _
      (memOk_countCoreErr _ _ _ _ (memOk_countCoreErr _ _ _ _ h))

theorem memOk_heal (k : Option Nat) (p : Place) (n : Nat) (s : State) (h : Memory.wf s.mem = true) :
    Memory.wf (heal k p n s).mem = true := memOk_healLines _ _ _ h

theorem memOk_homeward (k : Nat) (m : Map Line) (s : State) (h : Memory.wf s.mem = true) :
    Memory.wf (homeward k m s).mem = true := by
  have h1 : Memory.wf (evicted k m s).2.mem = true := by
    unfold evicted
    split
    · exact h
    · exact memOk_healLines _ _ _ h
  refine wf_spillAll _ _ ?_
  show Memory.wf (mergeHome k (evicted k m s).1 (evicted k m s).2).mem = true
  unfold mergeHome
  split
  · exact h1
  · refine memOk_foldl _ (fun s p h => ?_) _ _ h1
    split
    · exact h
    · split
      · exact h
      · exact memOk_healLines _ _ _ h

theorem memOk_flushLine (k ln : Nat) (s : State) (h : Memory.wf s.mem = true) :
    Memory.wf (flushLine k ln s).mem = true := by
  unfold flushLine
  split
  · exact h
  · exact memOk_homeward _ _ _ h

theorem memOk_flushRange (k pa n : Nat) (s : State) (h : Memory.wf s.mem = true) :
    Memory.wf (flushRange k pa n s).mem = true := by
  refine memOk_foldl _ (fun s i hs => ?_) _ s h
  split
  · exact memOk_flushLine _ _ _ hs
  · exact hs

theorem memOk_release (k c : Nat) (s : State) (h : Memory.wf s.mem = true) : Memory.wf (release k c s).mem = true := by
  unfold release
  split
  · exact h
  · exact memOk_homeward _ _ _ h

theorem memOk_readPlace (k : Nat) (p : Place) (n : Nat) (s : State) (h : Memory.wf s.mem = true) :
    Memory.wf (readPlace k p n s).2.mem = true := by
  unfold readPlace
  split
  · exact h
  · exact h
  · split
    · rw [l1Read_mem]
      exact h
    · exact memOk_flushRange _ _ _ _ h

theorem memOk_writePlace (k : Nat) (p : Place) (b : List Byte) (s : State) (h : Memory.wf s.mem = true) :
    Memory.wf (writePlace k p b s).mem = true := by
  unfold writePlace
  split
  · exact h
  · exact h
  · split
    · rw [l1Write_mem]
      exact h
    · exact memOk_setMem _ _ _ (memOk_flushRange _ _ _ _ h)

theorem memOk_readPlaces (k : Nat) (l : List (Place × Nat)) : ∀ s, Memory.wf s.mem = true →
    Memory.wf (readPlaces k l s).2.mem = true := by
  induction l with
  | nil => exact fun _ h => h
  | cons p l ih => exact fun s h => ih _ (memOk_readPlace k p.1 p.2 s h)

theorem memOk_healAll (k : Option Nat) (ps : List (Place × Nat)) (s : State) (h : Memory.wf s.mem = true) :
    Memory.wf (healAll k ps s).mem = true := memOk_foldl _ (fun _ p h => memOk_heal k p.1 p.2 _ h) _ _ h

theorem memOk_healTables (k : Option Nat) (v : View) (as : List (Nat × Nat)) (s : State) (h : Memory.wf s.mem = true) :
    Memory.wf (healTables k v as s).mem = true := by
  unfold healTables
  split
  · exact h
  · exact memOk_foldl _ (fun _ _ h => memOk_foldl _ (fun _ _ h => memOk_heal _ _ _ _ h) _ _ h) _ _ h

theorem memOk_healStore (k : Option Nat) (p : Place) (n : Nat) (s : State) (h : Memory.wf s.mem = true) :
    Memory.wf (healStore k p n s).mem = true := by
  unfold healStore
  split
  · exact h
  · exact memOk_heal _ _ _ _ h

theorem memOk_storePlace (k : Nat) (p : Place) (b : List Byte) (s : State) (h : Memory.wf s.mem = true) :
    Memory.wf (storePlace k p b s).mem = true := memOk_writePlace _ _ _ _ (memOk_healStore _ _ _ _ h)

/-- Without memory errors nothing heals. -/
theorem healLines_none (k : Option Nat) (l : List Nat) (s : State) (h : s.upsets = []) : healLines k l s = s := by
  simp [healLines, h]

theorem heal_none (k : Option Nat) (p : Place) (n : Nat) (s : State) (h : s.upsets = []) : heal k p n s = s :=
  healLines_none _ _ _ h

/-- Without memory errors a write-back only brings the dirty bytes home. -/
theorem homeward_none (k : Nat) (m : Map Line) (s : State) (h : s.upsets = []) :
    homeward k m s = { s with mem := spillAll m s.mem } := by
  simp [homeward, evicted, mergeHome, h]

/-- Without memory errors a release brings every dirty byte home, and the lines held whole stay. -/
theorem release_none (k c : Nat) (s : State) (hc : c ≠ 0) (h : s.upsets = []) :
    release k c s = modCore k (fun c => { c with l1 := cleaned c.l1 }) { s with mem := spillAll (coreAt k s).l1 s.mem } := by
  simp [release, hc, homeward_none _ _ _ h]

theorem healAll_none (k : Option Nat) (ps : List (Place × Nat)) (s : State) (h : s.upsets = []) :
    healAll k ps s = s := by
  induction ps with
  | nil => rfl
  | cons p ps ih => simpa [healAll, heal_none _ _ _ _ h] using ih

theorem healStore_none (k : Option Nat) (p : Place) (n : Nat) (s : State) (h : s.upsets = []) :
    healStore k p n s = s := by
  simp [healStore, h]

theorem healTables_none (k : Option Nat) (v : View) (as : List (Nat × Nat)) (s : State) (h : s.upsets = []) :
    healTables k v as s = s := by
  simp [healTables, h]

/-- Without memory errors no read is stopped. -/
theorem machineCheck_none (q : Nat) (as : List (Nat × Nat)) (ps : List (Place × Nat)) (s : State)
    (h : s.upsets = []) : machineCheck q as ps s = none := by
  simp [machineCheck, upsetLines, upsetIn, h]

/-- Without memory errors a walk reads the tables as they stand. -/
theorem readable_none (s : State) (m : List Host.Cell) (h : s.upsets = []) : readable s m = m := by
  simp [readable, h]

/-- Without memory errors a translation fault keeps its cause. -/
theorem trapCause_none (q c : Nat) (v : Word) (s : State) (h : s.upsets = []) : trapCause q c v s = (c, v) := by
  simp [trapCause, tableStops, tableUpsets, h]

theorem flushLine_none (k ln : Nat) (s : State) (h : s.upsets = []) : (flushLine k ln s).upsets = [] := by
  unfold flushLine
  split
  · exact h
  · simpa [homeward_none _ _ _ h] using h

theorem flushRange_none (k pa n : Nat) (s : State) (h : s.upsets = []) : (flushRange k pa n s).upsets = [] := by
  unfold flushRange
  generalize List.range (n / 128 + 2) = l
  induction l generalizing s with
  | nil => exact h
  | cons i l ih =>
    refine ih _ ?_
    dsimp only
    split
    · exact flushLine_none _ _ _ h
    · exact h

/-- Without memory errors a read at the home only writes the core's own copies back. -/
theorem toHome_none (k pa n : Nat) (s : State) (h : s.upsets = []) : toHome k pa n s = flushRange k pa n s :=
  heal_none _ _ _ _ (flushRange_none k pa n s h)

theorem memOk_toHome (k pa n : Nat) (s : State) (h : Memory.wf s.mem = true) : Memory.wf (toHome k pa n s).mem = true :=
  memOk_heal _ _ _ _ (memOk_flushRange _ _ _ _ h)

/-- Noting an access marks its leaves. -/
@[simp] theorem noted_mem (w : Bool) (ms : List Nat) (ps : List (Place × Nat)) (s : State) :
    (noted w ms ps s).mem = markLeaves w ms s.mem := rfl

theorem memOk_remark (l : List (Nat × Bool)) (s : State) (h : Memory.wf s.mem = true) :
    Memory.wf (remark l s).mem = true := memOk_foldl _ (fun _ _ h => memOk_marked _ _ _ h) _ _ h

theorem walked_none (a n : Nat) (s : State) (h : s.upsets = []) : walked a n s = s := healTables_none _ _ _ _ h

theorem memOk_walked (a n : Nat) (s : State) (h : Memory.wf s.mem = true) : Memory.wf (walked a n s).mem = true :=
  memOk_healTables _ _ _ _ h

theorem memOk_load {a n : Nat} {s t : State} {b : List Byte} (hl : load a n s = .ok (b, t))
    (h : Memory.wf s.mem = true) : Memory.wf t.mem = true := by
  unfold load at hl
  split at hl
  · cases hl
  · split at hl
    · cases hl
    · have ht : _ = t := congrArg Prod.snd (Except.ok.inj hl)
      exact ht ▸ memOk_readPlaces _ _ _ (memOk_healAll _ _ _ (memOk_healTables _ _ _ _ (memOk_marked _ _ _ h)))

theorem memOk_store {a : Nat} {b : List Byte} {ap : Bool} {s t : State} (hs : store a b ap s = .ok t)
    (h : Memory.wf s.mem = true) : Memory.wf t.mem = true := by
  unfold store at hs
  split at hs
  · cases hs
  · cases hs
    exact memOk_healTables _ _ _ _ (memOk_marked _ _ _ h)

theorem memOk_writeHomes (l : List (Place × Nat)) : ∀ (b : List Byte) (s : State), Memory.wf s.mem = true →
    Memory.wf (writeHomes l b s).mem = true := by
  induction l with
  | nil => exact fun _ _ h => h
  | cons p l ih =>
    intro b s h
    obtain ⟨p, n⟩ := p
    cases p with
    | phys pa k => exact ih _ _ (memOk_setMem _ _ _ h)
    | sram c off => exact ih _ _ h
    | aper c => exact ih _ _ h

theorem memOk_fetchWord {q a : Nat} {s t : State} {w : Slot} (hf : fetchWord q a s = .ok (w, t))
    (h : Memory.wf s.mem = true) : Memory.wf t.mem = true := by
  unfold fetchWord at hf
  split at hf
  · cases hf
  · next pa kind ms _ =>
    have h0 : Memory.wf (healTables (some (q / 2)) (viewOf q s) [(a, 4)] (marked false ms s)).mem = true :=
      memOk_healTables _ _ _ _ (memOk_marked _ _ _ h)
    have h1 := memOk_heal (some (q / 2)) (.phys pa .so) 4 _ h0
    dsimp only at hf
    repeat' split at hf
    all_goals first
      | cases hf; done
      | obtain ⟨-, rfl⟩ := Prod.mk.inj (Except.ok.inj hf)
        first
          | exact h0
          | exact h1
  · cases hf

theorem memOk_fetchAll (q : Nat) (l : List Nat) : ∀ s, Memory.wf s.mem = true → Memory.wf (fetchAll q l s).mem = true := by
  induction l with
  | nil => exact fun _ h => h
  | cons a l ih =>
    intro s h
    simp only [fetchAll]
    split
    · next hf => exact ih _ (memOk_fetchWord hf h)
    · exact h

theorem memOk_agentSeen (sag vdev a n : Nat) (s : State) (h : Memory.wf s.mem = true) :
    Memory.wf (agentSeen sag vdev a n s).mem = true := by
  unfold agentSeen
  split
  · exact memOk_healTables _ _ _ _ h
  · exact memOk_healAll _ _ _ (memOk_healTables _ _ _ _ (memOk_marked _ _ _ h))

theorem memOk_agentWrite (sag vdev a : Nat) (b : List Byte) (s : State) (h : Memory.wf s.mem = true) :
    Memory.wf (agentWrite sag vdev a b s).mem = true := by
  unfold agentWrite
  split
  · exact h
  · exact memOk_writeHomes _ _ _ (memOk_foldl _ (fun _ _ h => memOk_healStore _ _ _ _ h) _ _ (memOk_marked _ _ _ h))

end Sys2Proof.Machine
end

