-- ==== Sys2Proof/Laws/Reg.lean ====
section
/-! SUPPORT. Sequencers and cores after an update; what a register write on its way changes. -/

namespace Sys2Proof.Machine

/-- A second update of one key replaces the first. -/
theorem upd_upd {α : Type} (k : Nat) (v w : α) (m : Map α) : upd k v (upd k w m) = upd k v m := by
  have h : ∀ m : Map α, (∀ p ∈ m, p.1 ≠ k) → del k (ins k w m) = m := by
    intro m hm
    induction m with
    | nil => simp [ins, del]
    | cons p l ih =>
      obtain ⟨j, x⟩ := p
      have hj : j ≠ k := hm (j, x) (by simp)
      have hl := ih fun p hp => hm p (by simp [hp])
      have hd : ∀ l : Map α, (∀ p ∈ l, p.1 ≠ k) → del k l = l := by
        intro l hl
        induction l with
        | nil => rfl
        | cons p l ih2 =>
          obtain ⟨i, y⟩ := p
          have : i ≠ k := hl (i, y) (by simp)
          simp [del, this, ih2 fun p hp => hl p (by simp [hp])]
      simp only [ins]
      split
      · simp only [del, if_true, hj, if_false, hd l fun p hp => hm p (by simp [hp])]
      · simp only [del, hj, if_false, hl]
  rw [upd, upd, h _ (del_ne k m)]
  rfl

@[simp] theorem seqAt_modSeq (q : Nat) (f : Seq → Seq) (s : State) : seqAt q (modSeq q f s) = f (seqAt q s) :=
  look_upd_same _ _ _ _

theorem seqAt_modSeq_ne {p q : Nat} (h : p ≠ q) (f : Seq → Seq) (s : State) :
    seqAt p (modSeq q f s) = seqAt p s := look_upd_ne _ _ h _

@[simp] theorem me_modMe (f : Seq → Seq) (s : State) : me (modMe f s) = f (me s) := seqAt_modSeq _ _ _

theorem modSeq_modSeq (q : Nat) (f g : Seq → Seq) (s : State) :
    modSeq q f (modSeq q g s) = modSeq q (fun x => f (g x)) s := by
  rw [modSeq, seqAt_modSeq]
  simp only [modSeq, upd_upd]

theorem modMe_modMe (f g : Seq → Seq) (s : State) : modMe f (modMe g s) = modMe (fun x => f (g x)) s :=
  modSeq_modSeq _ _ _ _

@[simp] theorem coreAt_modCore (k : Nat) (f : Core → Core) (s : State) : coreAt k (modCore k f s) = f (coreAt k s) :=
  look_upd_same _ _ _ _

theorem coreAt_modCore_ne {j k : Nat} (h : j ≠ k) (f : Core → Core) (s : State) :
    coreAt j (modCore k f s) = coreAt j s := look_upd_ne _ _ h _

@[simp] theorem seqAt_modCore (q k : Nat) (f : Core → Core) (s : State) : seqAt q (modCore k f s) = seqAt q s := rfl
@[simp] theorem me_modCore (k : Nat) (f : Core → Core) (s : State) : me (modCore k f s) = me s := rfl
@[simp] theorem coreAt_modSeq (q k : Nat) (f : Seq → Seq) (s : State) : coreAt k (modSeq q f s) = coreAt k s := rfl
@[simp] theorem coreAt_modMe (k : Nat) (f : Seq → Seq) (s : State) : coreAt k (modMe f s) = coreAt k s := rfl
@[simp] theorem myCore_modMe (f : Seq → Seq) (s : State) : myCore (modMe f s) = myCore s := rfl
@[simp] theorem myK_modMe (f : Seq → Seq) (s : State) : myK (modMe f s) = myK s := rfl
@[simp] theorem myK_modCore (k : Nat) (f : Core → Core) (s : State) : myK (modCore k f s) = myK s := rfl

/-- Noting an access changes no sequencer but what its bundle has seen and read. -/
theorem noted_me (w : Bool) (ms : List Nat) (ps : List (Place × Nat)) (s : State) :
    me (noted w ms ps s) = { me s with bun := { (me s).bun with
      seen := (me s).bun.seen ++ ms.map fun a => (a, w)
      reads := (me s).bun.reads ++ ps } } := seqAt_modSeq s.cur _ (marked w ms s)

theorem noted_seqAt (w : Bool) (ms : List Nat) (ps : List (Place × Nat)) {q : Nat} {s : State} (h : q ≠ s.cur) :
    seqAt q (noted w ms ps s) = seqAt q s := seqAt_modSeq_ne h _ (marked w ms s)

/-- A change of nothing but a bundle's parts leaves every register operand. -/
theorem sreg_modMe (n : BitVec 6) (f : Seq → Seq) (s : State) (h : (f (me s)).s = (me s).s) :
    sreg n (modMe f s) = sreg n s := by simp only [sreg, me_modMe, Seq.rs, h]

@[simp] theorem sreg_addHop (n : BitVec 6) (o : Hop) (s : State) : sreg n (addHop o s) = sreg n s :=
  sreg_modMe _ _ _ rfl

/-- Flags that are none change nothing that a later write does not replace. -/
theorem issue_raise_zero (d : Dest) (v : VWord) (l : Nat) (k : Bool) (s : State) :
    issue d v l k (raise 0 s) = issue d v l k s := by
  simp only [issue, raise, modBun, modMe_modMe]
  congr 1
  funext x
  simp

/-- What a register write on its way changes: the list of such writes. -/
theorem issue_spec (d : Dest) (v : VWord) (l : Nat) (k : Bool) (s : State) :
    me (issue d v l k s) = { me s with inflight := (me s).inflight ++ [⟨d, v, l, k⟩] } := me_modMe _ _

/-- What a vector operand that can be read gives. -/
theorem withVec_of_srcOf {v : BitVec 6} {s t : State} {x : VWord} (h : srcOf v s = some (x, t))
    (f : VWord → State → Res) : withVec v s f = f x t := by
  unfold srcOf at h
  unfold withVec
  cases hv : handleOf v with
  | none => rw [hv] at h; cases h; rfl
  | some n =>
    rw [hv] at h
    cases hf : find n (me s).handles with
    | none => simp [hf] at h
    | some d =>
      simp only [hf] at h ⊢
      split at h
      · next h1 =>
        split at h
        · next h2 => cases h; simp only [h1, if_true, Nat.not_le.mpr h2, if_false]
        · cases h
      · next h1 =>
        split at h
        · next h2 => cases h; simp only [h1, Bool.false_eq_true, if_false, Nat.pos_iff_ne_zero.mp h2]
        · cases h

/-- What a vector destination that can be written gives. -/
theorem withDest_of_destOf {v : BitVec 6} {s t : State} {e : Nat} (h : destOf v s = some (e, t))
    (f : Nat → State → Res) : withDest v s f = f e t := by
  unfold destOf at h
  unfold withDest
  cases hv : handleOf v with
  | none => rw [hv] at h; cases h; rfl
  | some n =>
    rw [hv] at h
    cases hf : find n (me s).handles with
    | none => simp [hf] at h
    | some d =>
      simp only [hf] at h ⊢
      split at h
      · next h1 => cases h; simp only [h1.1, Bool.false_eq_true, if_false, Nat.not_le.mpr h1.2]
      · cases h

/-- A vector operand's read changes the handle changes of its bundle alone. -/
theorem srcOf_state {v : BitVec 6} {s t : State} {x : VWord} (h : srcOf v s = some (x, t)) :
    t = s ∨ ∃ n, t = addHop (.consume n) s := by
  unfold srcOf at h
  cases hv : handleOf v with
  | none => rw [hv] at h; cases h; exact .inl rfl
  | some n =>
    rw [hv] at h
    cases hf : find n (me s).handles with
    | none => simp [hf] at h
    | some d =>
      simp only [hf] at h
      split at h
      · split at h
        · cases h; exact .inl rfl
        · cases h
      · split at h
        · cases h
          by_cases hd : hopDone (.consume n) s = true
          · rw [if_pos hd]; exact .inl rfl
          · rw [if_neg hd]; exact .inr ⟨n, rfl⟩
        · cases h

/-- And so does a vector destination's choice. -/
theorem destOf_state {v : BitVec 6} {s t : State} {e : Nat} (h : destOf v s = some (e, t)) :
    t = s ∨ ∃ n, t = addHop (.produce n) s := by
  unfold destOf at h
  repeat' split at h
  all_goals first
    | (cases h; first | exact .inl rfl | exact .inr ⟨_, rfl⟩)
    | cases h

end Sys2Proof.Machine
end

