-- ==== Sys2Proof/Laws/Commit.lean ====
section
/-! SUPPORT. What a commit leaves in the queues: its effects hold back no bundle and let none go, the oldest bundles
commit in order, and a sequencer whose queues are empty has nothing to commit. -/

namespace Sys2Proof.Machine

/-- A fold of steps that keep a value keeps it. -/
theorem foldl_keeps {β γ : Type} (f : State → β → State) (v : State → γ) (hf : ∀ s b, v (f s b) = v s) (l : List β) :
    ∀ s, v (l.foldl f s) = v s := by
  induction l with
  | nil => intro s; rfl
  | cons b l ih => intro s; simp only [List.foldl_cons, ih, hf]

theorem zeroLine_seqs (ln : Nat) (s : State) : (zeroLine ln s).seqs = s.seqs := by
  unfold zeroLine; split_ifs <;> simp only [setMem, modCore, mapCopies]

theorem countCoreErr_seqs (k : Option Nat) (lo n : Nat) (s : State) : (countCoreErr k lo n s).seqs = s.seqs := by
  cases k <;> rfl

theorem healLines_seqs (k : Option Nat) (l : List Nat) (s : State) : (healLines k l s).seqs = s.seqs := by
  simp only [healLines]; split
  · rfl
  · rw [foldl_keeps _ (·.seqs) fun s b => zeroLine_seqs b s]; simp [dropUpsets, countCoreErr_seqs]

theorem heal_seqs (k : Option Nat) (p : Place) (n : Nat) (s : State) : (heal k p n s).seqs = s.seqs :=
  healLines_seqs ..

/-- A write-back changes no sequencer. -/
theorem homeward_seqs (k : Nat) (m : Map Line) (s : State) : (homeward k m s).seqs = s.seqs := by
  have h1 : (evicted k m s).2.seqs = s.seqs := by
    unfold evicted; split
    · rfl
    · exact healLines_seqs ..
  refine Eq.trans ?_ h1
  show (mergeHome k (evicted k m s).1 (evicted k m s).2).seqs = _
  unfold mergeHome; split
  · rfl
  · refine foldl_keeps _ (·.seqs) (fun s p => ?_) _ _
    split_ifs
    · rfl
    · rfl
    · exact healLines_seqs ..

theorem release_seqs (k c : Nat) (s : State) : (release k c s).seqs = s.seqs := by
  simp only [release]; split
  · rfl
  · exact homeward_seqs ..

theorem healStore_seqs (k : Option Nat) (p : Place) (n : Nat) (s : State) : (healStore k p n s).seqs = s.seqs := by
  simp only [healStore]; split
  · rfl
  · rw [heal_seqs]; rfl

theorem l1Write_seqs (k : Nat) (l : List Byte) : ∀ pa s, (l1Write k pa l s).seqs = s.seqs := by
  induction l with
  | nil => intro pa s; rfl
  | cons b l ih => intro pa s; simp only [l1Write, ih]; rfl

theorem flushLine_seqs (k ln : Nat) (s : State) : (flushLine k ln s).seqs = s.seqs := by
  simp only [flushLine]; split
  · rfl
  · exact homeward_seqs ..

theorem flushRange_seqs (k pa n : Nat) (s : State) : (flushRange k pa n s).seqs = s.seqs := by
  refine foldl_keeps _ (·.seqs) (fun s b => ?_) _ _
  split
  · exact flushLine_seqs ..
  · rfl

/-- A store, wherever it goes, changes no sequencer. -/
theorem storePlace_seqs (k : Nat) (p : Place) (b : List Byte) (s : State) : (storePlace k p b s).seqs = s.seqs := by
  simp only [storePlace, writePlace]; split
  · exact healStore_seqs ..
  · exact healStore_seqs ..
  · split
    · rw [l1Write_seqs, healStore_seqs]
    · rw [show ∀ a l (s : State), (setMem a l s).seqs = s.seqs from fun _ _ _ => rfl, flushRange_seqs, healStore_seqs]

theorem applyStore_seqs (q : Nat) (p : PStore) (s : State) : (applyStore q p s).seqs = s.seqs := by
  simp only [applyStore]; split
  · rfl
  · exact storePlace_seqs ..

theorem publishAll_seqs (q : Nat) (l : List (Nat × Nat)) (s : State) : (publishAll q l s).seqs = s.seqs := by
  simp only [publishAll]; split
  · rfl
  · exact release_seqs ..

/-- A change of a sequencer that leaves its queues leaves every sequencer's. -/
theorem modSeq_flight (q r : Nat) {f : Seq → Seq} (h : ∀ x, (f x).flight = x.flight) (s : State) :
    (seqAt r (modSeq q f s)).flight = (seqAt r s).flight := by
  by_cases e : r = q
  · subst e; rw [seqAt_modSeq, h]
  · rw [seqAt_modSeq_ne e]

theorem seqAt_of_seqs {s t : State} (h : t.seqs = s.seqs) (r : Nat) : seqAt r t = seqAt r s := by
  simp only [seqAt, h]

theorem startCopy_seqs (k ch q : Nat) (w : BitVec 32) (p : Word) (f : Option Fill) (s : State) :
    (startCopy k ch q w p f s).seqs = s.seqs := rfl

/-- The fills that a handle asks for hold back no bundle. -/
theorem feed_flight (q r hn n : Nat) : ∀ s, (seqAt r (feed q hn n s)).flight = (seqAt r s).flight := by
  induction n with
  | zero => intro s; rfl
  | succ n ih =>
    intro s
    simp only [feed]; split
    · rfl
    · split
      · rw [ih, seqAt_of_seqs (startCopy_seqs ..)]; exact modSeq_flight q r (fun _ => by rfl) s
      · rfl

theorem applyHop_flight (q r : Nat) (o : Hop) (s : State) : (seqAt r (applyHop q o s)).flight = (seqAt r s).flight := by
  cases o <;> simp only [applyHop, feed_flight] <;> exact modSeq_flight q r (fun _ => by rfl) _

theorem csrSet_flight (i : Nat) (v : Word) (x : Seq) : (csrSet i v x).flight = x.flight := by
  unfold csrSet; split <;> rfl

theorem csrWrite_flight (q r i : Nat) (op : CsrOp) (v : Word) (s : State) :
    (seqAt r (csrWrite q i op v s)).flight = (seqAt r s).flight := by
  simp only [csrWrite]; split
  · simp only [setBankrole, seqAt_modCore]; split
    · exact congrArg Seq.flight (seqAt_of_seqs (homeward_seqs ..) r)
    · rfl
  · split <;> rfl
  · exact modSeq_flight q r (csrSet_flight i _) s

theorem handOff_flight (c : MCall) (r : Nat) (s : State) : (seqAt r (handOff c s)).flight = (seqAt r s).flight := by
  simp only [handOff, seqAt_modCore]; exact modSeq_flight c.q r (fun _ => by rfl) s

/-- The effects of a commit hold back no bundle and let none go. -/
theorem effectsOf_flight (q r : Nat) (b : Bun) (s : State) : (seqAt r (effectsOf q b s)).flight = (seqAt r s).flight := by
  simp only [effectsOf]
  rw [modSeq_flight q r (fun _ => by rfl)]
  have h : ∀ t : State, (seqAt r (publishAll q b.publish t)).flight = (seqAt r t).flight := fun t => by
    rw [seqAt_of_seqs (publishAll_seqs ..)]
  have h1 : (seqAt r (b.hops.foldl (fun s h => applyHop q h s) (b.stores.foldl (fun s p => applyStore q p s) s))).flight =
      (seqAt r s).flight := by
    rw [foldl_keeps _ (fun s => (seqAt r s).flight) (fun s o => applyHop_flight q r o s),
      foldl_keeps _ (fun s => (seqAt r s).flight) (fun s p => by rw [seqAt_of_seqs (applyStore_seqs q p s)])]
  split <;> (try rw [handOff_flight]) <;> split <;> (try split) <;> (try rw [csrWrite_flight]) <;> rw [h, h1]

/-- The oldest bundles commit in order, and the others stay. -/
theorem commitOldest_flight (q n : Nat) : ∀ s, (seqAt q (commitOldest q n s)).flight = (seqAt q s).flight.drop n := by
  induction n with
  | zero => intro s; rfl
  | succ n ih =>
    intro s
    simp only [commitOldest]; split
    · next h => simp [h]
    · next b l h => rw [ih, effectsOf_flight, seqAt_modSeq, h]; rfl

/-- A sequencer whose queues are empty has nothing to commit. -/
theorem settleQueues_empty {q : Nat} {s : State} (a e : Nat) (h : (seqAt q s).flight = []) : settleQueues q a e s = s := by
  simp [settleQueues, h]

theorem drain_empty {q : Nat} {s : State} (h : (seqAt q s).flight = []) : drain q s = s := settleQueues_empty 0 0 h

/-- Every dispatched bundle has committed. -/
theorem drain_flight (q : Nat) (s : State) : (seqAt q (drain q s)).flight = [] := by
  by_cases h : (seqAt q s).flight = []
  · rw [drain_empty h, h]
  · simp [drain, settleQueues, commitOldest_flight, h]

/-- A bundle that holds no effect but flags changes only them and LTICK. -/
theorem effectsOf_plain (q : Nat) (b : Bun) (s : State) (h1 : b.stores = []) (h2 : b.hops = []) (h3 : b.publish = [])
    (h4 : b.ctl = .none) (h5 : b.mcall = none) :
    effectsOf q b s = modSeq q (fun x =>
      { x with fflags := x.fflags ||| b.flags, ltick := if x.mode = .u then x.ltick + 1 else x.ltick }) s := by
  simp [effectsOf, h1, h2, h3, h4, h5, publishAll]

end Sys2Proof.Machine
end

