-- ==== Sys2Proof/Laws/Decode.lean ====
section
/-! SUPPORT. What the decoder reads: one field, and the reader of each major (Table 3.5). A word's instruction is found
from its major by the lemma of that major, then from its minor, then field by field. -/

namespace Sys2Proof

/-- A field of a word is the value it was written with. -/
theorem fld_eq {n : Nat} (x : BitVec n) (w k : Nat) (h : w / k % 2 ^ n = x.toNat) : fld w k n = x := by
  apply BitVec.eq_of_toNat_eq
  simpa [fld] using h

theorem decodeNat_0 (w : Nat) (h : w / 33554432 % 64 = 0) : decodeNat w = decCTL w := by
  rw [decodeNat, h]; rfl

theorem decodeNat_1 (w : Nat) (h : w / 33554432 % 64 = 1) : decodeNat w = decBR w := by
  rw [decodeNat, h]; rfl

theorem decodeNat_2 (w : Nat) (h : w / 33554432 % 64 = 2) : decodeNat w = decCALL w := by
  rw [decodeNat, h]; rfl

theorem decodeNat_3 (w : Nat) (h : w / 33554432 % 64 = 3) : decodeNat w = decBRP w := by
  rw [decodeNat, h]; rfl

theorem decodeNat_4 (w : Nat) (h : w / 33554432 % 64 = 4) : decodeNat w = decJUMP w := by
  rw [decodeNat, h]; rfl

theorem decodeNat_5 (w : Nat) (h : w / 33554432 % 64 = 5) : decodeNat w = decLOOP w := by
  rw [decodeNat, h]; rfl

theorem decodeNat_6 (w : Nat) (h : w / 33554432 % 64 = 6) : decodeNat w = decLOOPX w := by
  rw [decodeNat, h]; rfl

theorem decodeNat_7 (w : Nat) (h : w / 33554432 % 64 = 7) : decodeNat w = decSYS w := by
  rw [decodeNat, h]; rfl

theorem decodeNat_8 (w : Nat) (h : w / 33554432 % 64 = 8) : decodeNat w = decSALU w := by
  rw [decodeNat, h]; rfl

theorem decodeNat_9 (w : Nat) (h : w / 33554432 % 64 = 9) : decodeNat w = decSMUL w := by
  rw [decodeNat, h]; rfl

theorem decodeNat_10 (w : Nat) (h : w / 33554432 % 64 = 10) : decodeNat w = decADDI w := by
  rw [decodeNat, h]; rfl

theorem decodeNat_11 (w : Nat) (h : w / 33554432 % 64 = 11) : decodeNat w = decLOGI w := by
  rw [decodeNat, h]; rfl

theorem decodeNat_12 (w : Nat) (h : w / 33554432 % 64 = 12) : decodeNat w = decSHI w := by
  rw [decodeNat, h]; rfl

theorem decodeNat_13 (w : Nat) (h : w / 33554432 % 64 = 13) : decodeNat w = decMOVW w := by
  rw [decodeNat, h]; rfl

theorem decodeNat_14 (w : Nat) (h : w / 33554432 % 64 = 14) : decodeNat w = decMOVH w := by
  rw [decodeNat, h]; rfl

theorem decodeNat_15 (w : Nat) (h : w / 33554432 % 64 = 15) : decodeNat w = decSCMP w := by
  rw [decodeNat, h]; rfl

theorem decodeNat_16 (w : Nat) (h : w / 33554432 % 64 = 16) : decodeNat w = decPRED w := by
  rw [decodeNat, h]; rfl

theorem decodeNat_17 (w : Nat) (h : w / 33554432 % 64 = 17) : decodeNat w = decXFER w := by
  rw [decodeNat, h]; rfl

theorem decodeNat_18 (w : Nat) (h : w / 33554432 % 64 = 18) : decodeNat w = decLDS w := by
  rw [decodeNat, h]; rfl

theorem decodeNat_19 (w : Nat) (h : w / 33554432 % 64 = 19) : decodeNat w = decSTS w := by
  rw [decodeNat, h]; rfl

theorem decodeNat_20 (w : Nat) (h : w / 33554432 % 64 = 20) : decodeNat w = decVLD w := by
  rw [decodeNat, h]; rfl

theorem decodeNat_21 (w : Nat) (h : w / 33554432 % 64 = 21) : decodeNat w = decVST w := by
  rw [decodeNat, h]; rfl

theorem decodeNat_22 (w : Nat) (h : w / 33554432 % 64 = 22) : decodeNat w = decVMEM w := by
  rw [decodeNat, h]; rfl

theorem decodeNat_23 (w : Nat) (h : w / 33554432 % 64 = 23) : decodeNat w = decSTRM w := by
  rw [decodeNat, h]; rfl

theorem decodeNat_24 (w : Nat) (h : w / 33554432 % 64 = 24) : decodeNat w = decXENG w := by
  rw [decodeNat, h]; rfl

theorem decodeNat_25 (w : Nat) (h : w / 33554432 % 64 = 25) : decodeNat w = decATOM1 w := by
  rw [decodeNat, h]; rfl

theorem decodeNat_26 (w : Nat) (h : w / 33554432 % 64 = 26) : decodeNat w = decATOM2 w := by
  rw [decodeNat, h]; rfl

theorem decodeNat_27 (w : Nat) (h : w / 33554432 % 64 = 27) : decodeNat w = decATOM3 w := by
  rw [decodeNat, h]; rfl

theorem decodeNat_28 (w : Nat) (h : w / 33554432 % 64 = 28) : decodeNat w = decVADD w := by
  rw [decodeNat, h]; rfl

theorem decodeNat_29 (w : Nat) (h : w / 33554432 % 64 = 29) : decodeNat w = decVSUB w := by
  rw [decodeNat, h]; rfl

theorem decodeNat_30 (w : Nat) (h : w / 33554432 % 64 = 30) : decodeNat w = decVMUL w := by
  rw [decodeNat, h]; rfl

theorem decodeNat_31 (w : Nat) (h : w / 33554432 % 64 = 31) : decodeNat w = decVFMA w := by
  rw [decodeNat, h]; rfl

theorem decodeNat_32 (w : Nat) (h : w / 33554432 % 64 = 32) : decodeNat w = decVFNMA w := by
  rw [decodeNat, h]; rfl

theorem decodeNat_33 (w : Nat) (h : w / 33554432 % 64 = 33) : decodeNat w = decVMINF w := by
  rw [decodeNat, h]; rfl

theorem decodeNat_34 (w : Nat) (h : w / 33554432 % 64 = 34) : decodeNat w = decVMAXF w := by
  rw [decodeNat, h]; rfl

theorem decodeNat_35 (w : Nat) (h : w / 33554432 % 64 = 35) : decodeNat w = decVFCMP w := by
  rw [decodeNat, h]; rfl

theorem decodeNat_36 (w : Nat) (h : w / 33554432 % 64 = 36) : decodeNat w = decVFUN w := by
  rw [decodeNat, h]; rfl

theorem decodeNat_37 (w : Nat) (h : w / 33554432 % 64 = 37) : decodeNat w = decVRED w := by
  rw [decodeNat, h]; rfl

theorem decodeNat_38 (w : Nat) (h : w / 33554432 % 64 = 38) : decodeNat w = decVIARITH w := by
  rw [decodeNat, h]; rfl

theorem decodeNat_39 (w : Nat) (h : w / 33554432 % 64 = 39) : decodeNat w = decVILOGIC w := by
  rw [decodeNat, h]; rfl

theorem decodeNat_40 (w : Nat) (h : w / 33554432 % 64 = 40) : decodeNat w = decVISHIFT w := by
  rw [decodeNat, h]; rfl

theorem decodeNat_41 (w : Nat) (h : w / 33554432 % 64 = 41) : decodeNat w = decVIMINMAX w := by
  rw [decodeNat, h]; rfl

theorem decodeNat_42 (w : Nat) (h : w / 33554432 % 64 = 42) : decodeNat w = decVICMP w := by
  rw [decodeNat, h]; rfl

theorem decodeNat_43 (w : Nat) (h : w / 33554432 % 64 = 43) : decodeNat w = decVPERMG w := by
  rw [decodeNat, h]; rfl

theorem decodeNat_44 (w : Nat) (h : w / 33554432 % 64 = 44) : decodeNat w = decVCVT w := by
  rw [decodeNat, h]; rfl

theorem decodeNat_45 (w : Nat) (h : w / 33554432 % 64 = 45) : decodeNat w = decVQ w := by
  rw [decodeNat, h]; rfl

theorem decodeNat_46 (w : Nat) (h : w / 33554432 % 64 = 46) : decodeNat w = decMCALL w := by
  rw [decodeNat, h]; rfl

theorem decodeNat_47 (w : Nat) (h : w / 33554432 % 64 = 47) : decodeNat w = decMCTL w := by
  rw [decodeNat, h]; rfl

theorem decodeNat_48 (w : Nat) (h : w / 33554432 % 64 = 48) : decodeNat w = decACC w := by
  rw [decodeNat, h]; rfl

theorem decodeNat_49 (w : Nat) (h : w / 33554432 % 64 = 49) : decodeNat w = decAMOV w := by
  rw [decodeNat, h]; rfl

theorem decodeNat_50 (w : Nat) (h : w / 33554432 % 64 = 50) : decodeNat w = decADRAIN w := by
  rw [decodeNat, h]; rfl

theorem decodeNat_51 (w : Nat) (h : w / 33554432 % 64 = 51) : decodeNat w = decAACC w := by
  rw [decodeNat, h]; rfl

theorem decodeNat_52 (w : Nat) (h : w / 33554432 % 64 = 52) : decodeNat w = decDREL w := by
  rw [decodeNat, h]; rfl

theorem decodeNat_54 (w : Nat) (h : w / 33554432 % 64 = 54) : decodeNat w = decDCTL w := by
  rw [decodeNat, h]; rfl

theorem decodeNat_55 (w : Nat) (h : w / 33554432 % 64 = 55) : decodeNat w = decFRONT w := by
  rw [decodeNat, h]; rfl

theorem decodeNat_56 (w : Nat) (h : w / 33554432 % 64 = 56) : decodeNat w = decMSYNC w := by
  rw [decodeNat, h]; rfl

theorem decodeNat_57 (w : Nat) (h : w / 33554432 % 64 = 57) : decodeNat w = decWORK w := by
  rw [decodeNat, h]; rfl

end Sys2Proof
end

