-- ==== Sys2Proof/Tests/Slice0.lean ====
section
/-! SUPPORT. Tests: the words of every slot family, the ill-formed term of every check, one step of each instruction
against values worked from the spec, and a witness for the hypotheses of each statement. -/

namespace Sys2Proof.Tests

open Sys2Proof Sys2Proof.Machine

set_option Elab.async false

/-! ### Decoding: words put together bit by bit from Tables 3.1 to 3.15 -/

theorem test_decode_dispatch :
    decode 0x00000000#32 = some .nop ∧
    decode 0x00C20001#32 = some (.sync 3 2) ∧
    decode 0x010002A2#32 = some (.slack 4 42) ∧
    decode 0x00000003#32 = some .pause := by
  decide +kernel

theorem test_decode_transfers :
    decode 0x0244A2CC#32 = some (.br 1 303820) ∧
    decode 0x05E24BE5#32 = some (.call 7 2247653) ∧
    decode 0x065BD1C5#32 = some (.brp 1 6 1 119237) ∧
    decode 0x09403800#32 = some (.jr 5 14) ∧
    decode 0x08467001#32 = some (.jalr 1 6 28) ∧
    decode 0x09000002#32 = some (.ret 4) := by
  decide +kernel

theorem test_decode_loops :
    decode 0x0A501739#32 = some (.loop 1 16 5945) ∧
    decode 0x0C000000#32 = some .lend ∧
    decode 0x0C000001#32 = some .lendr ∧
    decode 0x0D400002#32 = some (.lbrk 5) ∧
    decode 0x0D04D403#32 = some (.lidx 4 4 53) := by
  decide +kernel

theorem test_decode_system :
    decode 0x0F47F3D0#32 = some (.csrr 5 508 61) ∧
    decode 0x0EA86291#32 = some (.csrw 2 2584 41) ∧
    decode 0x0F7CA842#32 = some (.csrs 5 3882 4) ∧
    decode 0x0F657DA3#32 = some (.csrc 5 2399 26) ∧
    decode 0x0E7E7C04#32 = some (.trap 1 3999) ∧
    decode 0x0E800005#32 = some (.eret 2) ∧
    decode 0x0E63A406#32 = some (.waitev 1 2281) ∧
    decode 0x0FC88807#32 = some (.brkpt 7 546) ∧
    decode 0x0EDAD4A8#32 = some (.tlbinv 3 1717 10) ∧
    decode 0x0F400089#32 = some (.icinv 5 8) ∧
    decode 0x0F40000A#32 = some (.exit 5) ∧
    decode 0x0EC0000B#32 = some (.yield 3) := by
  decide +kernel

theorem test_decode_scalar :
    decode 0x1175B0C0#32 = some (.add 5 53 44 12) ∧
    decode 0x10669691#32 = some (.sub 1 38 37 41) ∧
    decode 0x10981E42#32 = some (.and 2 24 7 36) ∧
    decode 0x11859443#32 = some (.or 6 5 37 4) ∧
    decode 0x114E82C4#32 = some (.xor 5 14 32 44) ∧
    decode 0x115CC955#32 = some (.andn 5 28 50 21) ∧
    decode 0x1126F1E6#32 = some (.shl 4 38 60 30) ∧
    decode 0x10D44337#32 = some (.shr 3 20 16 51) ∧
    decode 0x10ADC908#32 = some (.sra 2 45 50 16) ∧
    decode 0x10655229#32 = some (.rot 1 37 20 34) ∧
    decode 0x11395AFA#32 = some (.min 4 57 22 47) ∧
    decode 0x11139FFB#32 = some (.max 4 19 39 63) ∧
    decode 0x104885BC#32 = some (.minu 1 8 33 27) ∧
    decode 0x10B158AD#32 = some (.maxu 2 49 22 10) ∧
    decode 0x111B0FEE#32 = some (.sel 4 27 3 62) ∧
    decode 0x1385C640#32 = some (.mul 6 5 49 36) ∧
    decode 0x1373E751#32 = some (.mulh 5 51 57 53) ∧
    decode 0x12D6B572#32 = some (.mulhu 3 22 45 23) ∧
    decode 0x13609B43#32 = some (.div 5 32 38 52) ∧
    decode 0x1305D864#32 = some (.divu 4 5 54 6) ∧
    decode 0x12DFB6B5#32 = some (.rem 3 31 45 43) ∧
    decode 0x1244BED6#32 = some (.remu 1 4 47 45) ∧
    decode 0x12EA9407#32 = some (.clz 3 42 37) ∧
    decode 0x13B57408#32 = some (.ctz 6 53 29) ∧
    decode 0x12EE6409#32 = some (.popc 3 46 25) ∧
    decode 0x1397080A#32 = some (.brev 6 23 2) ∧
    decode 0x13172E8B#32 = some (.sh1add 4 23 11 40) ∧
    decode 0x126010EC#32 = some (.sh2add 1 32 4 14) ∧
    decode 0x13D3270D#32 = some (.sh3add 7 19 9 48) ∧
    decode 0x129A6BBE#32 = some (.rngh 2 26 26 59) := by
  decide +kernel

theorem test_decode_immediates :
    decode 0x15E018AB#32 = some (.addi 7 32 6 171) ∧
    decode 0x171A9048#32 = some (.andi 4 26 36 72) ∧
    decode 0x16B571DE#32 = some (.ori 2 53 28 222) ∧
    decode 0x1752BA6B#32 = some (.xori 5 18 46 107) ∧
    decode 0x16CBE762#32 = some (.tsti 3 11 57 98) ∧
    decode 0x188A180C#32 = some (.shli 2 10 6 12) ∧
    decode 0x188FAD0F#32 = some (.shri 2 15 43 15) ∧
    decode 0x1860DA26#32 = some (.srai 1 32 54 38) ∧
    decode 0x18914F01#32 = some (.roti 2 17 19 1) ∧
    decode 0x1A9B88DB#32 = some (.movw 2 27 35035) ∧
    decode 0x1CE890FC#32 = some (.movh 3 40 37116) := by
  decide +kernel

theorem test_decode_compares :
    decode 0x1EC3B779#32 = some (.scmp 3 3 45 55 9) := by
  decide +kernel

theorem test_decode_predicates :
    decode 0x214B2CC0#32 = some (.pand 5 11 11 12) ∧
    decode 0x20483CE1#32 = some (.por 1 8 15 14) ∧
    decode 0x21CE2CD2#32 = some (.pxor 7 14 11 13) ∧
    decode 0x21471C73#32 = some (.pandn 5 7 7 7) ∧
    decode 0x21022004#32 = some (.pnot 4 2 8) ∧
    decode 0x218704D5#32 = some (.psetw 6 7 1 13) ∧
    decode 0x204E2016#32 = some (.pcnt 1 14 8 1) ∧
    decode 0x20562817#32 = some (.pfirst 1 22 10 1) ∧
    decode 0x205A2BF8#32 = some (.scmpi 1 1 10 10 1 31) := by
  decide +kernel

theorem test_decode_crossings :
    decode 0x22E80810#32 = some (.xsv 3 40 2 1) ∧
    decode 0x23CEA191#32 = some (.xsvl 7 14 40 25) ∧
    decode 0x228B47E2#32 = some (.xsp 2 11 17 62) ∧
    decode 0x22C56003#32 = some (.xmp 3 5 24) ∧
    decode 0x23082374#32 = some (.xvs 4 8 8 55) ∧
    decode 0x233F21F5#32 = some (.xps 4 63 8 31) ∧
    decode 0x23140406#32 = some (.xpm 4 20 1) := by
  decide +kernel

theorem test_decode_memory :
    decode 0x2487C2BE#32 = some (.lds 2 7 48 2 1 62) ∧
    decode 0x27ED2F03#32 = some (.sts 7 45 11 3 3) ∧
    decode 0x28BDF61D#32 = some (.vld 2 61 61 541) ∧
    decode 0x2ACAB62D#32 = some (.vst 3 10 45 557) ∧
    decode 0x2C718940#32 = some (.vlds 1 49 34 20) ∧
    decode 0x2DB81AD1#32 = some (.vsts 6 56 6 45) ∧
    decode 0x2DD18982#32 = some (.vgath 7 17 34 24) ∧
    decode 0x2C97C8F3#32 = some (.vscat 2 23 50 15) ∧
    decode 0x2D408F24#32 = some (.pref 5 35 50) := by
  decide +kernel

theorem test_decode_streams :
    decode 0x2F7BA400#32 = some (.hbind 5 3 41) ∧
    decode 0x2EBDD001#32 = some (.hadv 2 5 52) ∧
    decode 0x2FFFDC02#32 = some (.hwait 7 7 55) ∧
    decode 0x2EBF4003#32 = some (.hprod 2 7 16) ∧
    decode 0x2FDAF804#32 = some (.hstat 7 26 6) ∧
    decode 0x2FFA0005#32 = some (.hunbind 7 2) := by
  decide +kernel

theorem test_decode_copies :
    decode 0x30808A00#32 = some (.twait 2 34 32) ∧
    decode 0x30EF0801#32 = some (.tstat 3 47 2) ∧
    decode 0x30734802#32 = some (.twptr 1 51 18) ∧
    decode 0x31004403#32 = some (.publish 4 17) := by
  decide +kernel

theorem test_decode_atomics :
    decode 0x32F774F0#32 = some (.atadd 1 3 1 29 52 60) ∧
    decode 0x33D18F1D#32 = some (.atand 3 2 1 6 15 7) ∧
    decode 0x32D58E7E#32 = some (.ator 1 2 1 22 14 31) ∧
    decode 0x33F7FBAB#32 = some (.atxor 3 3 1 31 59 42) ∧
    decode 0x357DAB20#32 = some (.atmin 2 3 1 54 43 8) ∧
    decode 0x3577F931#32 = some (.atmax 2 3 1 31 57 12) ∧
    decode 0x3571B4F6#32 = some (.atminu 2 3 1 6 52 61) ∧
    decode 0x35D6B0F7#32 = some (.atmaxu 3 2 1 26 48 61) ∧
    decode 0x36F2C908#32 = some (.atswp 1 3 1 11 9 2) ∧
    decode 0x36FD2A29#32 = some (.atcas 1 3 1 52 42 10) ∧
    decode 0x37FAFC02#32 = some (.atld 3 3 1 43 60) ∧
    decode 0x37300207#32 = some (.atst 2 1 1 2 1) := by
  decide +kernel

theorem test_decode_vector_float :
    decode 0x39FFBEA7#32 = some (.vadd 7 63 47 42 1 1 1) ∧
    decode 0x3BCDD787#32 = some (.vsub 7 13 53 56 1 1 1) ∧
    decode 0x3C93850F#32 = some (.vmul 2 19 33 16 3 1 1) ∧
    decode 0x3F5BD897#32 = some (.vfma 5 27 54 9 1 1 1) ∧
    decode 0x41A6D7AF#32 = some (.vfnma 6 38 53 58 3 1 1) ∧
    decode 0x434A8A17#32 = some (.vminf 5 10 34 33 1 1 1) ∧
    decode 0x4541CB47#32 = some (.vmaxf 5 1 50 52 1 1 1) ∧
    decode 0x473C2246#32 = some (.vfcmp 4 3 12 8 36 1 1) := by
  decide +kernel

theorem test_decode_vector_functions :
    decode 0x49A2880F#32 = some (.vrcp 6 34 34 3 1 1) ∧
    decode 0x49444017#32 = some (.vrsq 5 4 16 1 1 1) ∧
    decode 0x49C7842B#32 = some (.vsqrt 7 7 33 2 1 1) ∧
    decode 0x4915A03F#32 = some (.vexp2 4 21 40 3 1 1) ∧
    decode 0x49218C4B#32 = some (.vlog2 4 33 35 2 1 1) ∧
    decode 0x497AF457#32 = some (.vabsf 5 58 61 1 1 1) ∧
    decode 0x4908686B#32 = some (.vnegf 4 8 26 2 1 1) ∧
    decode 0x49907077#32 = some (.vfloor 6 16 28 1 1 1) ∧
    decode 0x49C8E887#32 = some (.vfrac 7 8 58 1 1 1) ∧
    decode 0x4AF92427#32 = some (.vred 3 57 9 2 1 1 1) := by
  decide +kernel

theorem test_decode_vector_int :
    decode 0x4D0BAF64#32 = some (.viadd 4 11 43 54 1) ∧
    decode 0x4CAE7219#32 = some (.visub 2 46 28 33 2) ∧
    decode 0x4CDB357A#32 = some (.vimul 3 27 13 23 2) ∧
    decode 0x4C6F602B#32 = some (.vimulh 1 47 24 2 2) ∧
    decode 0x4F5E76E4#32 = some (.vand 5 30 29 46 1) ∧
    decode 0x4F168A89#32 = some (.vor 4 22 34 40 2) ∧
    decode 0x4F7E1486#32 = some (.vxor 5 62 5 8 1) ∧
    decode 0x4E464527#32 = some (.vandn 1 6 17 18 1) ∧
    decode 0x51CC4B14#32 = some (.vshl 7 12 18 49 1) ∧
    decode 0x51DCDFBD#32 = some (.vshr 7 28 55 59 3) ∧
    decode 0x51FD45A6#32 = some (.vsra 7 61 17 26 1) ∧
    decode 0x517B865B#32 = some (.vrot 5 59 33 37 2) ∧
    decode 0x53951924#32 = some (.vimin 6 21 6 18 1) ∧
    decode 0x53ED31C5#32 = some (.vimax 7 45 12 28 1) ∧
    decode 0x52FD0A96#32 = some (.viminu 3 61 2 41 1) ∧
    decode 0x53D11A77#32 = some (.vimaxu 7 17 6 39 1) ∧
    decode 0x5445E089#32 = some (.vicmp 1 5 56 8 2 1) := by
  decide +kernel

theorem test_decode_permutes :
    decode 0x56E46FC8#32 = some (.vperm 3 36 27 60 2) ∧
    decode 0x57490E2D#32 = some (.vshuf 5 9 3 34 3) ∧
    decode 0x56BD23F6#32 = some (.vsel 2 61 8 63 1) ∧
    decode 0x56C40007#32 = some (.viota 3 4 1) := by
  decide +kernel

theorem test_decode_conversions :
    decode 0x58BC52D7#32 = some (.vcvt 2 60 20 11 5 1 1) ∧
    decode 0x5B21B0C0#32 = some (.vmxsc 4 33 44 12) ∧
    decode 0x5AD7D021#32 = some (.vmxq 3 23 52 2) ∧
    decode 0x5AC30422#32 = some (.vmxdq 3 3 1 2) ∧
    decode 0x5BA193F3#32 = some (.vtern 6 33 36 63) ∧
    decode 0x5AA17C14#32 = some (.vpack 2 33 31 1) ∧
    decode 0x5B07ACF5#32 = some (.vunpack 4 7 43 1 1 3) ∧
    decode 0x5BF96806#32 = some (.vmov 7 57 26) ∧
    decode 0x5B54B4E7#32 = some (.vbcastl 5 20 45 14) ∧
    decode 0x5A9637C8#32 = some (.vscan 2 22 13 3 3) := by
  decide +kernel

theorem test_decode_matrix :
    decode 0x5D890000#32 = some (.mcall 6 72) ∧
    decode 0x5F000000#32 = some (.mwait 4) ∧
    decode 0x5EC0FC41#32 = some (.mgload 3 63 4) ∧
    decode 0x5FC02412#32 = some (.mgsave 7 9 1) ∧
    decode 0x5E690003#32 = some (.mprog 1 41) ∧
    decode 0x5F800004#32 = some (.mresume 6) := by
  decide +kernel

theorem test_decode_accumulators :
    decode 0x60DC2C00#32 = some (.aalloc 3 28 11) ∧
    decode 0x60401AB1#32 = some (.afree 1 6 43) ∧
    decode 0x61C06782#32 = some (.aclr 7 25 56) ∧
    decode 0x6140AFF3#32 = some (.aband 5 43 63) ∧
    decode 0x60E74004#32 = some (.aown 3 39 16) ∧
    decode 0x61930005#32 = some (.abstat 6 19) ∧
    decode 0x625E30BA#32 = some (.aread 1 30 12 11 2 1) ∧
    decode 0x625163EB#32 = some (.awrite 1 17 24 62 2 1) ∧
    decode 0x6483FB95#32 = some (.adrain 2 3 62 57 5) ∧
    decode 0x66973018#32 = some (.aacc 2 23 12 1 2) := by
  decide +kernel

theorem test_decode_relations :
    decode 0x690704C0#32 = some (.dadd 4 3 16 9 1) ∧
    decode 0x68A390C1#32 = some (.dsub 2 17 25 1 1) ∧
    decode 0x68C1B1C2#32 = some (.dle 3 27 3 1) ∧
    decode 0x69013143#32 = some (.dlt 4 19 2 1) ∧
    decode 0x6840A544#32 = some (.deq 1 10 10 1) ∧
    decode 0x68413FC5#32 = some (.dne 1 19 31 1) ∧
    decode 0x69BB7D46#32 = some (.dmulk 6 29 23 26 1) ∧
    decode 0x69D78047#32 = some (.dalld 7 11 24 1) := by
  decide +kernel

theorem test_decode_domain_control :
    decode 0x6C940BC0#32 = some (.dsets 2 10 47) ∧
    decode 0x6D6A0281#32 = some (.dsetv 5 21 10) ∧
    decode 0x6C760D82#32 = some (.drem 1 27 54) ∧
    decode 0x6DBA0843#32 = some (.dlo 6 29 33) ∧
    decode 0x6D9C0BC4#32 = some (.dhi 6 14 47) ∧
    decode 0x6DB40845#32 = some (.dsize 6 26 33) ∧
    decode 0x6C800EC6#32 = some (.dckpt 2 59) ∧
    decode 0x6D400C47#32 = some (.drest 5 49) ∧
    decode 0x6D400008#32 = some (.ddrop 5) ∧
    decode 0x6D400009#32 = some (.dprop 5) ∧
    decode 0x6DC0000A#32 = some (.dclrs 7) ∧
    decode 0x6DF41D4B#32 = some (.dmemb 7 26 1 53) := by
  decide +kernel

theorem test_decode_fronts :
    decode 0x6FA80340#32 = some (.fcfg 6 5 52) ∧
    decode 0x6FB00001#32 = some (.fclr 6 6) ∧
    decode 0x6FB03C62#32 = some (.fins 6 6 15 6) ∧
    decode 0x6E4A0003#32 = some (.fmerge 1 1 2) ∧
    decode 0x6F83F874#32 = some (.fread 6 3 62 7) ∧
    decode 0x6F0701D5#32 = some (.fcnt 4 7 29) ∧
    decode 0x6F410296#32 = some (.frej 5 1 41) ∧
    decode 0x6E460237#32 = some (.fstat 1 6 35) := by
  decide +kernel

theorem test_decode_ordering :
    decode 0x71994000#32 = some (.fence 6 1 2 5) ∧
    decode 0x70640001#32 = some (.bar 1 2 1) ∧
    decode 0x71BC8402#32 = some (.fwait 6 60 33) ∧
    decode 0x71401AB3#32 = some (.ffill 5 6 43) ∧
    decode 0x7145C004#32 = some (.fpoll 5 5 48) := by
  decide +kernel

theorem test_decode_work :
    decode 0x739F4400#32 = some (.launch 6 31 17) ∧
    decode 0x73C5DC01#32 = some (.cwait 7 5 55) ∧
    decode 0x72D0BC02#32 = some (.qpush 3 16 47) ∧
    decode 0x73CE3C03#32 = some (.qpop 7 14 15) ∧
    decode 0x73AAFC04#32 = some (.qpeek 6 42 63) ∧
    decode 0x7320DC05#32 = some (.qstat 4 32 55) ∧
    decode 0x73001406#32 = some (.logmark 4 5) := by
  decide +kernel

/-! ### States and readings -/

/-- A booted module whose sequencer 0 runs a task of saggar 0 in U mode at 0x1_0000. -/
def tU : State := { State.reset.withFetchWord 32 0 with agenda := [] }

/-- Sequencer 0 changed. -/
def tq (f : Seq → Seq) (s : State) : State := modSeq 0 f s

/-- The same in K mode. -/
def tK : State := tq (fun x => { x with mode := .k }) tU

/-- General registers of sequencer 0 set. -/
def tS (l : List (Nat × Nat)) (s : State) : State :=
  tq (fun x => { x with s := l.foldl (fun m p => put 0 p.1 (BitVec.ofNat 64 p.2) m) x.s }) s

/-- Predicate registers of sequencer 0 set. -/
def tP (l : List (Nat × Nat)) (s : State) : State :=
  tq (fun x => { x with p := l.foldl (fun m p => put 0 p.1 (BitVec.ofNat 256 p.2) m) x.p }) s

/-- Entries of core 0's vector file set to lanes of `w` bytes. -/
def tV (w : Nat) (l : List (Nat × List Nat)) (s : State) : State :=
  modCore 0 (fun c => { c with vfile := l.foldl (fun m p => put 0 p.1 (ofLanes w p.2) m) c.vfile }) s

/-- Bytes of memory set. -/
def tM (a : Nat) (b : List Byte) (s : State) : State := { s with mem := writeCells a b s.mem }

/-- The state an instruction answers. -/
def nx (i : Instr) (s : State) : State :=
  match exec i s with
  | .next t => t
  | _ => State.reset

/-- Whether an instruction answers a next state. -/
def goes (i : Instr) (s : State) : Bool :=
  match exec i s with
  | .next _ => true
  | _ => false

/-- The writes an instruction sends on their way: destination, value, latency, whether interlocked. -/
def outs (i : Instr) (s : State) : List (Dest × Nat × Nat × Bool) :=
  (me (nx i s)).inflight.map fun p => (p.dest, p.val.toNat, p.left, p.lock)

/-- Lane `k` of `w` bytes of the write an instruction sends, with its destination and latency. -/
def lane (w k : Nat) (i : Instr) (s : State) : List (Dest × Nat × Nat) :=
  (me (nx i s)).inflight.map fun p => (p.dest, laneOf p.val w k, p.left)

/-- The trap an instruction's slot takes: cause and value. -/
def trapOf (i : Instr) (s : State) : Option (Nat × Word) := (me (nx i s)).bun.trapped

/-- The control effect an instruction leaves for its bundle's commit. -/
def ctlOf (i : Instr) (s : State) : Ctl := (me (nx i s)).bun.ctl

/-- Whether an instruction's slot waits. -/
def waits (i : Instr) (s : State) : Bool := (me (nx i s)).bun.park.isSome

/-- Whether a computation that may fail succeeds. -/
def okE {α β : Type} (x : Except α β) : Bool :=
  match x with
  | .ok _ => true
  | .error _ => false

/-! ### Scalar slots (Tables 4.2 and 4.3) -/

/-- s1 = −5, s2 = 3, s4 = 0x8000_0000_0000_0001. -/
def tA : State := tS [(1, 0xFFFFFFFFFFFFFFFB), (2, 3), (4, 0x8000000000000001), (5, 0)] tU

theorem test_sums : outs (.add 0 3 1 2) tA = [(.s 3, 0xFFFFFFFFFFFFFFFE, 1, false)] ∧
    outs (.add 0 3 4 4) tA = [(.s 3, 2, 1, false)] ∧ outs (.sub 0 3 2 1) tA = [(.s 3, 8, 1, false)] ∧
    outs (.sub 0 3 5 2) tA = [(.s 3, 0xFFFFFFFFFFFFFFFD, 1, false)] ∧
    outs (.sh1add 0 3 2 2) tA = [(.s 3, 9, 1, false)] ∧ outs (.sh2add 0 3 1 2) tA = [(.s 3, 0xFFFFFFFFFFFFFFEF, 1, false)] ∧
    outs (.sh3add 0 3 4 2) tA = [(.s 3, 11, 1, false)] := by and_intros <;> decide +kernel

theorem test_logic : outs (.and 0 3 1 4) tA = [(.s 3, 0x8000000000000001, 1, false)] ∧
    outs (.or 0 3 4 2) tA = [(.s 3, 0x8000000000000003, 1, false)] ∧
    outs (.xor 0 3 4 1) tA = [(.s 3, 0x7FFFFFFFFFFFFFFA, 1, false)] ∧
    outs (.andn 0 3 1 2) tA = [(.s 3, 0xFFFFFFFFFFFFFFF8, 1, false)] := by and_intros <;> decide +kernel

theorem test_shifts : outs (.shl 0 3 4 2) tA = [(.s 3, 8, 1, false)] ∧
    outs (.shr 0 3 4 2) tA = [(.s 3, 0x1000000000000000, 1, false)] ∧
    outs (.sra 0 3 4 2) tA = [(.s 3, 0xF000000000000000, 1, false)] ∧
    outs (.rot 0 3 4 2) tA = [(.s 3, 12, 1, false)] ∧
    outs (.shl 0 3 2 4) tA = [(.s 3, 6, 1, false)] ∧ outs (.shr 0 3 4 5) tA = [(.s 3, 0x8000000000000001, 1, false)] := by
  and_intros <;> decide +kernel

theorem test_extrema : outs (.min 0 3 1 2) tA = [(.s 3, 0xFFFFFFFFFFFFFFFB, 1, false)] ∧
    outs (.max 0 3 1 2) tA = [(.s 3, 3, 1, false)] ∧ outs (.minu 0 3 1 2) tA = [(.s 3, 3, 1, false)] ∧
    outs (.maxu 0 3 1 2) tA = [(.s 3, 0xFFFFFFFFFFFFFFFB, 1, false)] := by and_intros <;> decide +kernel

/-- SEL takes s[b] where its guard is false (R83); p0 is always true. -/
theorem test_sel : outs (.sel 0 3 1 2) tA = [(.s 3, 0xFFFFFFFFFFFFFFFB, 1, false)] ∧
    outs (.sel 1 3 1 2) tA = [(.s 3, 3, 1, false)] := by and_intros <;> decide +kernel

theorem test_products : outs (.mul 0 3 1 2) tA = [(.s 3, 0xFFFFFFFFFFFFFFF1, 3, false)] ∧
    outs (.mulh 0 3 1 2) tA = [(.s 3, 0xFFFFFFFFFFFFFFFF, 3, false)] ∧
    outs (.mulhu 0 3 1 2) tA = [(.s 3, 2, 3, false)] ∧ outs (.mulh 0 3 4 4) tA = [(.s 3, 0x3FFFFFFFFFFFFFFF, 3, false)] := by
  and_intros <;> decide +kernel

/-- −5 / 3 is −1 with remainder −2; by zero the quotient is all ones and the remainder the dividend (R85). -/
theorem test_division : outs (.div 0 3 1 2) tA = [(.s 3, 0xFFFFFFFFFFFFFFFF, 1, true)] ∧
    outs (.rem 0 3 1 2) tA = [(.s 3, 0xFFFFFFFFFFFFFFFE, 1, true)] ∧
    outs (.divu 0 3 1 2) tA = [(.s 3, 0x5555555555555553, 1, true)] ∧ outs (.remu 0 3 1 2) tA = [(.s 3, 2, 1, true)] ∧
    outs (.div 0 3 2 5) tA = [(.s 3, 0xFFFFFFFFFFFFFFFF, 1, true)] ∧ outs (.rem 0 3 2 5) tA = [(.s 3, 3, 1, true)] ∧
    outs (.divu 0 3 2 5) tA = [(.s 3, 0xFFFFFFFFFFFFFFFF, 1, true)] ∧ outs (.remu 0 3 2 5) tA = [(.s 3, 3, 1, true)] := by
  and_intros <;> decide +kernel

theorem test_division_overflow :
    outs (.div 0 3 1 2) (tS [(1, 0x8000000000000000), (2, 0xFFFFFFFFFFFFFFFF)] tU) = [(.s 3, 0x8000000000000000, 1, true)] ∧
    outs (.rem 0 3 1 2) (tS [(1, 0x8000000000000000), (2, 0xFFFFFFFFFFFFFFFF)] tU) = [(.s 3, 0, 1, true)] := by and_intros <;> decide +kernel

theorem test_bit_counts : outs (.clz 0 3 2) tA = [(.s 3, 62, 1, false)] ∧ outs (.clz 0 3 5) tA = [(.s 3, 64, 1, false)] ∧
    outs (.ctz 0 3 5) tA = [(.s 3, 64, 1, false)] ∧ outs (.ctz 0 3 4) tA = [(.s 3, 0, 1, false)] ∧
    outs (.popc 0 3 1) tA = [(.s 3, 63, 1, false)] ∧ outs (.popc 0 3 4) tA = [(.s 3, 2, 1, false)] ∧
    outs (.brev 0 3 2) tA = [(.s 3, 0xC000000000000000, 1, false)] ∧
    outs (.brev 0 3 4) tA = [(.s 3, 0x8000000000000001, 1, false)] := by and_intros <;> decide +kernel

theorem test_immediates : outs (.addi 0 3 2 0x3FF) tA = [(.s 3, 2, 1, false)] ∧
    outs (.addi 0 3 1 0x1FF) tA = [(.s 3, 506, 1, false)] ∧
    outs (.andi 0 3 1 0xF0) tA = [(.s 3, 0xF0, 1, false)] ∧ outs (.ori 0 3 2 0x80) tA = [(.s 3, 0x83, 1, false)] ∧
    outs (.xori 0 3 1 0xFF) tA = [(.s 3, 0xFFFFFFFFFFFFFF04, 1, false)] ∧
    outs (.shli 0 3 2 63) tA = [(.s 3, 0x8000000000000000, 1, false)] ∧ outs (.shri 0 3 4 63) tA = [(.s 3, 1, 1, false)] ∧
    outs (.srai 0 3 4 63) tA = [(.s 3, 0xFFFFFFFFFFFFFFFF, 1, false)] ∧ outs (.roti 0 3 4 63) tA = [(.s 3, 0xC000000000000000, 1, false)] := by
  and_intros <;> decide +kernel

theorem test_long_immediates : outs (.movw 0 3 0x8000) tA = [(.s 3, 0xFFFFFFFFFFFF8000, 1, false)] ∧
    outs (.movw 0 3 0x7FFF) tA = [(.s 3, 0x7FFF, 1, false)] ∧
    outs (.movh 0 1 0x1234) tA = [(.s 1, 0x1234FFFB, 1, false)] ∧
    outs (.movh 0 1 0x8000) tA = [(.s 1, 0xFFFFFFFF8000FFFB, 1, false)] := by and_intros <;> decide +kernel

theorem test_zero_register : outs (.add 0 0 1 2) tA = [] ∧ outs (.add 0 3 0 0) tA = [(.s 3, 0, 1, false)] ∧
    outs (.pand 0 0 0 0) tA = [] := by and_intros <;> decide +kernel

/-- Table 4.4: EQ, NE, LT, LE signed, LTU, LEU; the outcome fills the predicate. -/
theorem test_scalar_compares : outs (.scmp 0 2 1 2 2) tA = [(.p 2, 2 ^ 256 - 1, 1, false)] ∧
    outs (.scmp 0 2 1 2 4) tA = [(.p 2, 0, 1, false)] ∧ outs (.scmp 0 2 2 2 3) tA = [(.p 2, 2 ^ 256 - 1, 1, false)] ∧
    outs (.scmp 0 2 2 2 1) tA = [(.p 2, 0, 1, false)] ∧
    outs (.scmpi 0 0 2 1 0 0x1B) tA = [(.p 2, 2 ^ 256 - 1, 1, false)] ∧
    outs (.scmpi 0 1 2 2 1 0x1F) tA = [(.p 2, 2 ^ 256 - 1, 1, false)] ∧ outs (.tsti 0 2 2 4) tA = [(.p 2, 0, 1, false)] ∧
    outs (.tsti 0 2 2 1) tA = [(.p 2, 2 ^ 256 - 1, 1, false)] := by and_intros <;> decide +kernel

/-! ### Predicates and crossings -/

/-- p1 = 0xF0, p2 = 0x3C. -/
def tB : State := tP [(1, 0xF0), (2, 0x3C)] (tS [(1, 5), (2, 33)] tU)

theorem test_predicate_logic : outs (.pand 0 3 1 2) tB = [(.p 3, 0x30, 1, false)] ∧
    outs (.por 0 3 1 2) tB = [(.p 3, 0xFC, 1, false)] ∧ outs (.pxor 0 3 1 2) tB = [(.p 3, 0xCC, 1, false)] ∧
    outs (.pandn 0 3 1 2) tB = [(.p 3, 0xC0, 1, false)] ∧ outs (.pnot 0 3 1) tB = [(.p 3, 2 ^ 256 - 1 - 0xF0, 1, false)] := by
  and_intros <;> decide +kernel

/-- Five lanes of four bytes; lanes of four bytes of p2 hold bits 0, 4 and so on (R74). -/
theorem test_predicate_lanes : outs (.psetw 0 3 2 1) tB = [(.p 3, 2 ^ 20 - 1, 1, false)] ∧
    outs (.psetw 0 3 3 2) tB = [(.p 3, 2 ^ 256 - 1, 1, false)] ∧ outs (.pcnt 0 3 2 2) tB = [(.s 3, 1, 1, false)] ∧
    outs (.pcnt 0 3 2 0) tB = [(.s 3, 4, 1, false)] ∧ outs (.pfirst 0 3 1 2) tB = [(.s 3, 1, 1, false)] ∧
    outs (.pfirst 0 3 4 3) tB = [(.s 3, 32, 1, false)] := by and_intros <;> decide +kernel

theorem test_crossings : lane 4 63 (.xsv 0 3 2 2) tB = [(.v 3, 33, 4)] ∧
    outs (.xsvl 0 3 1 2) tB = [(.vlane 3 1, 5, 4, false)] ∧ outs (.xsp 0 3 1 2) tB = [(.pquarter 3 1, 5, 4, false)] ∧
    outs (.xmp 0 4 2) tB = [(.m 4, 33, 4, false)] ∧ outs (.xps 0 3 1 0) tB = [(.s 3, 0xF0, 4, false)] ∧
    outs (.xvs 0 3 7 2) (tV 8 [(7, [10, 20, 30])] tB) = [(.s 3, 20, 4, false)] ∧
    outs (.xpm 0 3 4) (tq (fun x => { x with m := [(4, 77)] }) tU) = [(.s 3, 77, 4, false)] := by and_intros <;> decide +kernel

/-- A slot whose guard is false has no effect (R62). -/
theorem test_guard : outs (.add 1 3 1 2) tA = [] ∧ trapOf (.add 1 3 1 2) tA = none ∧
    outs (.add 1 3 1 2) (tP [(1, 1)] tA) = [(.s 3, 0xFFFFFFFFFFFFFFFE, 1, false)] := by and_intros <;> decide +kernel

/-- The hash of R86, worked by hand from its definition. -/
theorem test_rngh : outs (.rngh 0 3 5 5) tA = [(.s 3, 0, 4, false)] ∧
    outs (.rngh 0 3 1 2) tA = [(.s 3, 0x8E58DD05E20792E8, 4, false)] := by and_intros <;> decide +kernel

/-! ### Control slots -/

/-- The bundle at 0x1_0000 in execution: one slot, sixteen bytes; s1 = 0x1_0040, s2 = 3; STOP words before 0xFFF0 and
before 0x1_0020, 30, 40 and 80. -/
def tC : State := tM 0xFFEF [0x80] <| tM 0x1001F [0x80] <| tM 0x1002F [0x80] <| tM 0x1003F [0x80] <|
  tM 0x1007F [0x80] <| tS [(1, 0x10040), (2, 3), (63, 0x10080)]
  (tq (fun x => { x with bun := { Bun.none with addr := 0x10000, words := [0#32] } }) tU)

theorem test_transfers : ctlOf (.br 0 8) tC = .jump 0x10020 ∧ ctlOf (.br 0 0x3FFFFC) tC = .jump 0xFFF0 ∧
    trapOf (.br 0 1) tC = some (0x0B, 0x10004) ∧
    ctlOf (.call 0 8) tC = .call 0x10020 ∧ outs (.call 0 8) tC = [(.s 63, 0x10010, 1, false)] ∧
    ctlOf (.jr 0 1) tC = .jump 0x10040 ∧ trapOf (.jr 0 2) tC = some (0x0B, 3) ∧ ctlOf (.jalr 0 4 1) tC = .call 0x10040 ∧
    outs (.jalr 0 4 1) tC = [(.s 4, 0x10010, 1, false)] ∧ ctlOf (.ret 0) tC = .ret 0x10080 := by and_intros <;> decide +kernel

/-- BRP with p1's bit 0 clear: taken for o = 0, not for o = 1 (R71). -/
theorem test_brp : ctlOf (.brp 0 1 0 8) tC = .jump 0x10020 ∧ ctlOf (.brp 0 1 1 8) tC = .none ∧
    ctlOf (.brp 0 0 1 0x1FFFC) tC = .jump 0xFFF0 := by and_intros <;> decide +kernel

/-- A loop of 3 iterations whose last bundle starts at 0x1_0020; none where the count is 0. -/
theorem test_loop_entry : ctlOf (.loop 0 2 8) tC = .loopPush ⟨0x10010, 0x10020, 3, 0, 0⟩ ∧
    ctlOf (.loop 0 3 8) tC = .loopSkip 0x10030 ∧
    trapOf (.loop 0 2 0) tC = some (0x0B, 0x10000) := by and_intros <;> decide +kernel

/-- A loop whose last bundle is the bundle in execution, second of three iterations. -/
def tL : State := tq (fun x => { x with loops := [⟨0xFFF0, 0x10000, 3, 1, 0⟩], rrb := 0 }) tC

theorem test_loop_close : ctlOf .lend tL = .lend false ∧ ctlOf .lendr tL = .lend true ∧
    trapOf .lend tC = some (0x0B, 0) ∧ outs (.lidx 0 3 0) tL = [(.s 3, 1, 1, false)] ∧
    outs (.lidx 0 3 1) tL = [(.s 3, 2 ^ 64 - 1, 1, false)] ∧
    ctlOf (.lbrk 0) tL = .lbrk 0x10010 := by and_intros <;> decide +kernel

/-- The commit of LENDR goes back while iterations remain and takes 1 from RRB, modulo 16 (R75). -/
theorem test_loop_commit : (applyCtl (.lend true) (me tL)).pc = 0xFFF0 ∧ (applyCtl (.lend true) (me tL)).rrb = 15 ∧
    (applyCtl (.lend false) { me tL with loops := [⟨0xFFF0, 0x10000, 3, 2, 0⟩] }).loops = [] ∧
    (applyCtl (.lend false) { me tL with loops := [⟨0xFFF0, 0x10000, 3, 2, 0⟩] }).pc = 0x10010 := by and_intros <;> decide +kernel

theorem test_nop_and_holds : goes .nop tC = true ∧ outs .nop tC = [] ∧ ctlOf .nop tC = .none ∧ ctlOf .pause tC = .pause ∧
    ctlOf (.slack 0 16) tC = .slack 16 ∧ trapOf (.slack 0 17) tC = some (0x01, slotVal tC) ∧
    ctlOf (.sync 0 4) tC = .sync 4 ∧ (applyCtl (.sync 4) { me tC with mrow := { (me tC).mrow with busy := true } }).sync = true ∧
    (applyCtl (.sync 4) (me tC)).sync = false ∧
    trapOf (.sync 0 0) tC = some (0x01, slotVal tC) := by and_intros <;> decide +kernel

/-! ### Control registers and the system -/

theorem test_csr_reads : outs (.csrr 0 0x012 3) tC = [(.s 3, 0, 1, false)] ∧ outs (.csrr 0 0x041 3) tC = [(.s 3, 16, 1, false)] ∧
    trapOf (.csrr 0 0x020 3) tC = some (0x04, slotVal tC) ∧ trapOf (.csrr 0 0x015 3) tC = some (0x01, slotVal tC) := by
  and_intros <;> decide +kernel

theorem test_csr_writes : ctlOf (.csrw 0 0x010 2) tC = .csr 0x010 .w 3 ∧ ctlOf (.csrs 0 0x011 2) tC = .csr 0x011 .s 3 ∧
    ctlOf (.csrc 0 0x011 2) tC = .csr 0x011 .c 3 ∧ trapOf (.csrw 0 0x012 2) tC = some (0x0C, 3) ∧
    trapOf (.csrs 0 0x025 2) tC = some (0x04, slotVal tC) := by and_intros <;> decide +kernel

/-- VWB: the sibling's window is entries 2,048 to 2,103, and overlapping it raises 0x0C (R272). -/
theorem test_vwb : vwbOk 0 (BitVec.ofNat 64 2048) tU = false ∧ vwbOk 0 (BitVec.ofNat 64 2112) tU = true ∧
    vwbOk 0 (BitVec.ofNat 64 4096) tU = false ∧ vwbOk 0 (BitVec.ofNat 64 32) tU = false := by and_intros <;> decide +kernel

/-- A value set, cleared and written at the commit: FFLAGS keeps ten bits. -/
theorem test_csr_commit : (seqAt 0 (csrWrite 0 0x011 .s 0xFC01 tU)).fflags = 1 ∧
    (seqAt 0 (csrWrite 0 0x020 .w 0x12345 tU)).tvec = 0x12000 ∧ (seqAt 0 (csrWrite 0 0x010 .w 7 tU)).rmode = 3 := by
  and_intros <;> decide +kernel

theorem test_traps : ctlOf (.trap 0 5) tC = .trap 5 ∧ trapOf (.brkpt 0 7) tC = some (0x1C, 7) ∧
    trapOf (.eret 0) tC = some (0x04, slotVal tC) := by and_intros <;> decide +kernel

/-- ERET in K mode returns to TADDR, to U mode where PK is clear (R267). -/
theorem test_eret :
    ctlOf (.eret 0) (tq (fun x => { x with mode := .k, taddr := 0x10040 }) tC) = .eret 0x10040 ∧
    (applyCtl (.eret 0x10040) { me tK with taddr := 0x10040 }).mode = .u ∧
    (applyCtl (.eret 0x10040) { me tK with taddr := 0x10040 }).pc = 0x10040 ∧
    (applyCtl (.eret 0x10040) { me tK with taddr := 0x10040, tpk := true }).mode = .k := by and_intros <;> decide +kernel

theorem test_events_and_ends :
    ctlOf (.waitev 0 3) (tq (fun x => { x with evt := 2 }) tC) = .waitev 3 ∧ waits (.waitev 0 1) tC = true ∧
    trapOf (.waitev 0 4) tC = some (0x04, slotVal tC) ∧ ctlOf (.icinv 0 0) tC = .icinv true 0 ∧
    ctlOf (.icinv 0 1) tC = .icinv false 0x10040 ∧ ctlOf (.exit 0) tC = .exit ∧ ctlOf (.yield 0) tC = .yield ∧
    ctlOf (.tlbinv 0 1 1) (tq (fun x => { x with mode := .k }) tC) = .tlbinv 1 0x10040 ∧
    trapOf (.tlbinv 0 1 1) tC = some (0x04, slotVal tC) ∧
    trapOf (.yield 0) (tq (fun x => { x with mode := .k, tpk := true }) tC) = some (0x0C, 0) := by and_intros <;> decide +kernel

/-! ### Loads, stores and atomics -/

/-- s1 = 0x3_0000, where memory holds 0xF1, 0x22, …; s2 = 0x3_0004; s3 = −2. -/
def tD : State := tM 0x30000 [0xF1, 0x22, 0x33, 0x84, 5, 6, 7, 0x88] (tS [(1, 0x30000), (2, 0x30004), (3, 0xFFFFFFFFFFFFFFFE), (4, 0x40000000)] tU)

theorem test_lds : outs (.lds 0 3 1 0 0 0) tD = [(.s 3, 0xF1, 1, true)] ∧
    outs (.lds 0 3 1 0 1 0) tD = [(.s 3, 0xFFFFFFFFFFFFFFF1, 1, true)] ∧ outs (.lds 0 3 2 2 1 0x7F) tD = [(.s 3, 0xFFFFFFFF843322F1, 1, true)] ∧
    outs (.lds 0 3 1 3 0 0) tD = [(.s 3, 0x88070605843322F1, 1, true)] ∧ trapOf (.lds 0 3 1 3 1 0) tD = some (0x01, slotVal tD) ∧
    trapOf (.lds 0 3 4 0 0 0) tD = some (0x08, 0x40000000) := by and_intros <;> decide +kernel

theorem test_sts : (me (nx (.sts 0 3 1 1 1) tD)).bun.stores = [⟨.phys 0x30002 .rc, [0xFE, 0xFF], 0⟩] ∧
    trapOf (.sts 0 3 4 0 0) tD = some (0x09, 0x40000000) := by and_intros <;> decide +kernel

theorem test_vld : goes (.vld 0 3 1 0) tD = true ∧ trapOf (.vld 0 3 2 0) tD = some (0x0B, 0x30004) := by
  decide +kernel

theorem test_load_bytes : ((load 0x30000 8 tD).toOption.map fun p => leNat p.1) = some 0x88070605843322F1 := by
  decide +kernel

theorem test_vst : ((me (nx (.vst 0 3 1 1) tD)).bun.stores.map fun p => p.place) = [.phys 0x30100 .rc] := by
  decide +kernel

/-- VLDS and VSTS: 32-bit lanes a stride apart; VGATH and VSCAT: lane k at s[a] + its index; the second lane of each
is misaligned. -/
theorem test_lane_access :
    ((strided 1 5 (tS [(5, 0x8000000000000100)] tD)).map fun p => (p.1, p.2.take 3)) = some (4, [0x30000, 0x30100, 0x30200]) ∧
    ((loadLanes 4 [0x30000, 0x30004] tD).toOption.map fun p => p.1) = some [0x843322F1, 0x88070605] ∧
    trapOf (.vlds 0 3 1 5) (tS [(5, 0x8000000000000003)] tD) = some (0x0B, 0x30003) ∧
    trapOf (.vsts 0 3 1 5) (tS [(5, 0x8000000000000003)] tD) = some (0x0B, 0x30003) ∧
    trapOf (.vsts 0 3 1 5) (tS [(5, 0x100000000)] tD) = some (0x0C, 0x100000000) := by and_intros <;> decide +kernel

theorem test_indexed_access : trapOf (.vgath 0 3 1 6) (tV 4 [(6, [4, 2])] tD) = some (0x0B, 0x30002) ∧
    trapOf (.vscat 0 3 1 6) (tV 4 [(6, [4, 2])] tD) = some (0x0B, 0x30002) ∧ goes (.pref 0 1 2) tD = true := by
  and_intros <;> decide +kernel

/-- A release and acquire add of four bytes wraps; the old value comes back. -/
theorem test_atomics : outs (.atadd 3 2 0 5 1 1) tD = [(.s 5, 0x843322F1, 1, true)] ∧
    readCells (nx (.atadd 3 2 0 5 1 1) tD).mem 0x30000 4 = [0xF1, 0x22, 0x36, 0x84] ∧
    readCells (nx (.atand 3 2 0 5 1 2) tD).mem 0x30000 4 = [0, 0, 3, 0] ∧
    readCells (nx (.ator 3 2 0 5 1 2) tD).mem 0x30000 4 = [0xF5, 0x22, 0x33, 0x84] ∧
    readCells (nx (.atxor 3 2 0 5 1 2) tD).mem 0x30000 4 = [0xF5, 0x22, 0x30, 0x84] ∧
    readCells (nx (.atmin 3 2 0 5 1 2) tD).mem 0x30000 4 = [0xF1, 0x22, 0x33, 0x84] ∧
    readCells (nx (.atmax 3 2 0 5 1 2) tD).mem 0x30000 4 = [4, 0, 3, 0] := by and_intros <;> decide +kernel

theorem test_atomics_more : readCells (nx (.atminu 3 2 0 5 1 2) tD).mem 0x30000 4 = [4, 0, 3, 0] ∧
    readCells (nx (.atmaxu 3 2 0 5 1 2) tD).mem 0x30000 4 = [0xF1, 0x22, 0x33, 0x84] ∧
    readCells (nx (.atswp 3 2 1 5 1 3) tD).mem 0x30000 8 = [0xFE, 0xFF, 0xFF, 0xFF, 0xFF, 0xFF, 0xFF, 0xFF] ∧
    readCells (nx (.atcas 3 2 0 5 1 2) tD).mem 0x30000 4 = [0xF1, 0x22, 0x33, 0x84] ∧
    readCells (nx (.atcas 3 2 0 5 1 2) (tS [(5, 0x843322F1)] tD)).mem 0x30000 4 = [4, 0, 3, 0] ∧
    outs (.atld 3 2 1 5 1) tD = [(.s 5, 0x88070605843322F1, 1, true)] ∧
    readCells (nx (.atst 3 2 0 1 2) tD).mem 0x30000 4 = [4, 0, 3, 0] ∧ outs (.atst 3 2 0 1 2) tD = [] ∧
    trapOf (.atadd 3 2 1 5 2 2) tD = some (0x0B, 0x30004) := by and_intros <;> decide +kernel

/-! ### Vector slots (Tables 11.1 to 11.4) -/

/-- FP32 lanes: v1 = 1.5, −2, +∞, 1, v2 = 2.25, 3, 1, 2^24 + 1 rounded, v4 = 1, 1, 1, 1. -/
def tF : State := tV 4 [(1, [0x3FC00000, 0xC0000000, 0x7F800000, 0x3E800000]), (2, [0x40100000, 0x40400000, 0x3F800000, 0x40800000]), (4, [0x3F800000, 0x3F800000, 0x3F800000, 0x3F800000]), (5, [0x40200000, 0xC0200000, 0x41100000, 0x80000000])] tU

theorem test_float_arithmetic : lane 4 0 (.vadd 0 3 1 2 0 0 0) tF = [(.v 3, 0x40700000, 3)] ∧ lane 4 1 (.vadd 0 3 1 2 0 0 0) tF = [(.v 3, 0x3F800000, 3)] ∧
    lane 4 0 (.vsub 0 3 1 2 0 0 0) tF = [(.v 3, 0xBF400000, 3)] ∧ lane 4 1 (.vsub 0 3 1 2 0 0 0) tF = [(.v 3, 0xC0A00000, 3)] ∧
    lane 4 0 (.vmul 0 3 1 2 0 0 0) tF = [(.v 3, 0x40580000, 5)] ∧ lane 4 1 (.vmul 0 3 1 2 0 0 0) tF = [(.v 3, 0xC0C00000, 5)] ∧
    lane 4 0 (.vfma 0 4 1 2 0 0 0) tF = [(.v 4, 0x408C0000, 5)] ∧ lane 4 1 (.vfma 0 4 1 2 0 0 0) tF = [(.v 4, 0xC0A00000, 5)] ∧
    lane 4 0 (.vfnma 0 4 1 2 0 0 0) tF = [(.v 4, 0xC0180000, 5)] ∧ lane 4 1 (.vfnma 0 4 1 2 0 0 0) tF = [(.v 4, 0x40E00000, 5)] := by and_intros <;> decide +kernel

/-- min, max and x < y of the same lanes; the zero lanes above compare equal (R208, R209). -/
theorem test_float_extrema : lane 4 0 (.vminf 0 3 1 2 0 0 0) tF = [(.v 3, 0x3FC00000, 3)] ∧ lane 4 1 (.vminf 0 3 1 2 0 0 0) tF = [(.v 3, 0xC0000000, 3)] ∧ lane 4 2 (.vminf 0 3 1 2 0 0 0) tF = [(.v 3, 0x3F800000, 3)] ∧
    lane 4 0 (.vmaxf 0 3 1 2 0 0 0) tF = [(.v 3, 0x40100000, 3)] ∧ lane 4 1 (.vmaxf 0 3 1 2 0 0 0) tF = [(.v 3, 0x40400000, 3)] ∧ lane 4 2 (.vmaxf 0 3 1 2 0 0 0) tF = [(.v 3, 0x7F800000, 3)] ∧
    outs (.vfcmp 0 1 2 1 2 0 0) tF = [(.p 2, 0xF0FF, 3, false)] := by and_intros <;> decide +kernel

theorem test_functions : lane 4 0 (.vrcp 0 3 4 0 0 0) tF = [(.v 3, 0x3F800000, 8)] ∧
    lane 4 1 (.vrcp 0 3 1 0 0 0) tF = [(.v 3, 0xBF000000, 8)] ∧ lane 4 2 (.vrcp 0 3 1 0 0 0) tF = [(.v 3, 0x0, 8)] ∧
    lane 4 3 (.vrsq 0 3 2 0 0 0) tF = [(.v 3, 0x3F000000, 8)] ∧
    lane 4 2 (.vsqrt 0 3 5 0 0 0) tF = [(.v 3, 0x40400000, 8)] ∧
    lane 4 1 (.vexp2 0 3 1 0 0 0) tF = [(.v 3, 0x3E800000, 8)] ∧ lane 4 2 (.vexp2 0 3 1 0 0 0) tF = [(.v 3, 0x7F800000, 8)] ∧
    lane 4 3 (.vlog2 0 3 2 0 0 0) tF = [(.v 3, 0x40000000, 8)] := by and_intros <;> decide +kernel

theorem test_sign_and_floor : lane 4 1 (.vabsf 0 3 1 0 0 0) tF = [(.v 3, 0x40000000, 8)] ∧
    lane 4 0 (.vnegf 0 3 1 0 0 0) tF = [(.v 3, 0xBFC00000, 8)] ∧
    lane 4 1 (.vfloor 0 3 5 0 0 0) tF = [(.v 3, 0xC0400000, 8)] ∧ lane 4 0 (.vfloor 0 3 5 0 0 0) tF = [(.v 3, 0x40000000, 8)] ∧
    lane 4 1 (.vfrac 0 3 5 0 0 0) tF = [(.v 3, 0x3F000000, 8)] ∧ lane 4 0 (.vfrac 0 3 5 0 0 0) tF = [(.v 3, 0x3F000000, 8)] := by and_intros <;> decide +kernel

theorem test_rounding_mode : lane 4 0 (.vadd 0 3 1 2 0 0 0) (tV 4 [(1, [0x3F800000]), (2, [0x33800000])] tU) = [(.v 3, 0x3F800000, 3)] ∧
    lane 4 0 (.vadd 0 3 1 2 0 0 0) (tq (fun x => { x with rmode := 2 }) (tV 4 [(1, [0x3F800000]), (2, [0x33800000])] tU)) = [(.v 3, 0x3F800000, 3)] ∧
    (me (nx (.vadd 0 3 1 2 0 0 0) (tV 4 [(1, [0x3F800000]), (2, [0x33800000])] tU))).bun.flags = 0x010 := by and_intros <;> decide +kernel

/-- s6 = 5: lanes 0 to 4 of v1 hold 1 to 5, and a sum under a guard of five lanes fills every lane (R211). -/
def tR : State := tP [(3, 2 ^ 20 - 1)] (tV 4 [(1, [0x3F800000, 0x40000000, 0x40400000, 0x40800000, 0x40A00000, 0x42C80000, 0x40E00000])] tU)

theorem test_reductions : lane 4 0 (.vred 3 3 1 0 0 0 0) tR = [(.v 3, 0x41700000, 6)] ∧ lane 4 63 (.vred 3 3 1 0 0 0 0) tR = [(.v 3, 0x41700000, 6)] ∧
    lane 4 9 (.vred 3 3 1 1 0 0 0) tR = [(.v 3, 0x40A00000, 6)] ∧
    lane 4 9 (.vred 3 3 1 2 0 0 0) tR = [(.v 3, 0x3F800000, 6)] ∧
    lane 4 9 (.vred 3 3 1 3 0 0 0) tR = [(.v 3, 0x41700000, 6)] ∧
    lane 4 0 (.vscan 3 3 1 0 0) tR = [(.v 3, 0x3F800000, 4)] ∧ lane 4 2 (.vscan 3 3 1 0 0) tR = [(.v 3, 0x40C00000, 4)] ∧ lane 4 4 (.vscan 3 3 1 0 0) tR = [(.v 3, 0x41700000, 4)] ∧ lane 4 6 (.vscan 3 3 1 0 0) tR = [(.v 3, 0x41700000, 4)] := by and_intros <;> decide +kernel

/-- 16-bit lanes: v1 = −1, 0x7FFF, 5; v2 = 2, 2, 17. -/
def tI : State := tV 2 [(1, [0xFFFF, 0x7FFF, 5]), (2, [2, 2, 17])] tU

/-- 16-bit lanes of v1: −1, 0x7FFF; of v2: 2, 2. -/
theorem test_integer_lanes : lane 2 0 (.viadd 0 3 1 2 1) tI = [(.v 3, 0x1, 2)] ∧ lane 2 1 (.viadd 0 3 1 2 1) tI = [(.v 3, 0x8001, 2)] ∧
    lane 2 0 (.visub 0 3 1 2 1) tI = [(.v 3, 0xFFFD, 2)] ∧
    lane 2 0 (.vimul 0 3 1 2 1) tI = [(.v 3, 0xFFFE, 2)] ∧ lane 2 1 (.vimul 0 3 1 2 1) tI = [(.v 3, 0xFFFE, 2)] ∧
    lane 2 0 (.vimulh 0 3 1 2 1) tI = [(.v 3, 0xFFFF, 2)] ∧ lane 2 1 (.vimulh 0 3 1 2 1) tI = [(.v 3, 0x0, 2)] ∧
    lane 1 0 (.vand 0 3 1 2 0) tI = [(.v 3, 0x2, 2)] ∧
    lane 1 1 (.vor 0 3 1 2 0) tI = [(.v 3, 0xFF, 2)] ∧
    lane 1 0 (.vxor 0 3 1 2 0) tI = [(.v 3, 0xFD, 2)] ∧
    lane 1 0 (.vandn 0 3 1 2 0) tI = [(.v 3, 0xFD, 2)] := by and_intros <;> decide +kernel

theorem test_integer_shifts : lane 2 0 (.vshl 0 3 1 2 1) tI = [(.v 3, 0xFFFC, 2)] ∧ lane 2 2 (.vshl 0 3 1 2 1) tI = [(.v 3, 0xA, 2)] ∧
    lane 2 0 (.vshr 0 3 1 2 1) tI = [(.v 3, 0x3FFF, 2)] ∧ lane 2 2 (.vshr 0 3 1 2 1) tI = [(.v 3, 0x2, 2)] ∧
    lane 2 0 (.vsra 0 3 1 2 1) tI = [(.v 3, 0xFFFF, 2)] ∧ lane 2 1 (.vsra 0 3 1 2 1) tI = [(.v 3, 0x1FFF, 2)] ∧
    lane 2 1 (.vrot 0 3 1 2 1) tI = [(.v 3, 0xFFFD, 2)] ∧
    lane 2 0 (.vimin 0 3 1 2 1) tI = [(.v 3, 0xFFFF, 2)] ∧
    lane 2 0 (.vimax 0 3 1 2 1) tI = [(.v 3, 0x2, 2)] ∧
    lane 2 0 (.viminu 0 3 1 2 1) tI = [(.v 3, 0x2, 2)] ∧
    lane 2 0 (.vimaxu 0 3 1 2 1) tI = [(.v 3, 0xFFFF, 2)] := by and_intros <;> decide +kernel

/-- Lane predicate bits stand at bits 2i and 2i + 1 (R214). -/
theorem test_integer_compares : outs (.vicmp 0 2 1 2 1 1) tI = [(.p 2, 0x33, 2, false)] ∧
    outs (.vicmp 0 2 1 2 1 2) tI = [(.p 2, 0x30, 2, false)] ∧
    outs (.vicmp 0 2 1 2 1 3) tI = [(.p 2, 0x3F, 2, false)] ∧
    outs (.vicmp 0 2 1 2 1 0) tI = [(.p 2, 2 ^ 256 - 1 - 0x3F, 2, false)] := by and_intros <;> decide +kernel

/-- 32-bit lanes: v1 = 10, 20, 30, 40, v2 = 2, 65, 0, 1, v3 = 7, 8, 9. -/
def tE : State := tP [(1, 0xF1)] (tV 4 [(1, [10, 20, 30, 40]), (2, [2, 65, 0, 1]), (3, [7, 8, 9])] (tS [(1, 1)] tU))

theorem test_lane_moves : lane 4 0 (.vperm 0 3 1 2 2) tE = [(.v 3, 0x1E, 3)] ∧ lane 4 1 (.vperm 0 3 1 2 2) tE = [(.v 3, 0x14, 3)] ∧ lane 4 2 (.vperm 0 3 1 2 2) tE = [(.v 3, 0xA, 3)] ∧ lane 4 3 (.vperm 0 3 1 2 2) tE = [(.v 3, 0x14, 3)] ∧
    lane 4 0 (.vshuf 0 3 1 2 2) tE = [(.v 3, 0x1E, 3)] ∧ lane 4 1 (.vshuf 0 3 1 2 2) tE = [(.v 3, 0x8, 3)] ∧ lane 4 2 (.vshuf 0 3 1 2 2) tE = [(.v 3, 0xA, 3)] ∧
    lane 4 0 (.vsel 1 4 1 2 2) tE = [(.v 4, 0xA, 3)] ∧ lane 4 1 (.vsel 1 4 1 2 2) tE = [(.v 4, 0x14, 3)] ∧ lane 4 2 (.vsel 1 4 1 2 2) tE = [(.v 4, 0x0, 3)] ∧
    lane 4 0 (.viota 0 4 2) tE = [(.v 4, 0x0, 3)] ∧ lane 4 63 (.viota 0 4 2) tE = [(.v 4, 0x3F, 3)] ∧
    lane 1 255 (.viota 0 4 0) tE = [(.v 4, 0xFF, 3)] ∧
    lane 4 3 (.vmov 0 4 1) tE = [(.v 4, 0x28, 4)] ∧
    lane 8 31 (.vbcastl 0 4 1 1) tE = [(.v 4, 0x280000001E, 4)] := by and_intros <;> decide +kernel

/-- The examples of R217. -/
theorem test_conversions : lane 1 0 (.vcvt 0 3 1 0 4 0 0) (tV 4 [(1, [0x4788B800])] tU) = [(.v 3, 0x7C, 3)] ∧
    lane 1 0 (.vcvt 0 3 1 0 4 0 1) (tV 4 [(1, [0x4788B800])] tU) = [(.v 3, 0x7B, 3)] ∧
    lane 1 0 (.vcvt 0 3 1 0 7 0 0) (tV 4 [(1, [0xC0200000])] tU) = [(.v 3, 0xFE, 3)] ∧
    lane 4 0 (.vcvt 0 3 1 12 0 0 0) (tV 1 [(1, [0])] tU) = [(.v 3, 0x400000, 3)] ∧
    trapOf (.vcvt 0 3 1 12 7 0 0) tU = some (0x01, slotVal tU) := by and_intros <;> decide +kernel

/-- Lane i of v1 holds i for i below 32, the lanes above 0 (Table 11.6); ternary codes 1, 3, 0, 1 in v2, bytes 5, 6,
7, 8 in v3. -/
def tX : State := tV 4 [(1, [0x0, 0x3F800000, 0x40000000, 0x40400000, 0x40800000, 0x40A00000, 0x40C00000, 0x40E00000, 0x41000000, 0x41100000, 0x41200000, 0x41300000, 0x41400000, 0x41500000, 0x41600000, 0x41700000, 0x41800000, 0x41880000, 0x41900000, 0x41980000, 0x41A00000, 0x41A80000, 0x41B00000, 0x41B80000, 0x41C00000, 0x41C80000, 0x41D00000, 0x41D80000, 0x41E00000, 0x41E80000, 0x41F00000, 0x41F80000]), (2, [0x4D]), (3, [0x08070605]), (4, [10])] tU

/-- Table 11.6, with the flags it states. -/
theorem test_mx : lane 1 0 (.vmxsc 0 5 1 5) tX = [(.v 5, 0x7B, 4)] ∧ lane 1 1 (.vmxsc 0 5 1 5) tX = [(.v 5, 0x0, 4)] ∧
    lane 1 1 (.vmxq 0 5 1 5) tX = [(.v 5, 0x58, 4)] ∧ lane 1 2 (.vmxq 0 5 1 5) tX = [(.v 5, 0x60, 4)] ∧ lane 1 17 (.vmxq 0 5 1 5) tX = [(.v 5, 0x78, 4)] ∧ lane 1 31 (.vmxq 0 5 1 5) tX = [(.v 5, 0x7E, 4)] ∧ lane 1 128 (.vmxq 0 5 1 5) tX = [(.v 5, 0x7B, 4)] ∧ lane 1 129 (.vmxq 0 5 1 5) tX = [(.v 5, 0x0, 4)] ∧
    (me (nx (.vmxq 0 5 1 5) tX)).bun.flags = 0x210 := by and_intros <;> decide +kernel

theorem test_mx_back : lane 4 1 (.vmxdq 0 5 1 5) (tV 1 [(1, List.replicate 1 0 ++ [0x58] ++ List.replicate 15 0 ++ [0x78] ++ List.replicate 13 0 ++ [0x7E] ++ List.replicate 96 0 ++ [0x7B])] tU) = [(.v 5, 0x3F800000, 4)] ∧ lane 4 17 (.vmxdq 0 5 1 5) (tV 1 [(1, List.replicate 1 0 ++ [0x58] ++ List.replicate 15 0 ++ [0x78] ++ List.replicate 13 0 ++ [0x7E] ++ List.replicate 96 0 ++ [0x7B])] tU) = [(.v 5, 0x41800000, 4)] ∧ lane 4 31 (.vmxdq 0 5 1 5) (tV 1 [(1, List.replicate 1 0 ++ [0x58] ++ List.replicate 15 0 ++ [0x78] ++ List.replicate 13 0 ++ [0x7E] ++ List.replicate 96 0 ++ [0x7B])] tU) = [(.v 5, 0x41E00000, 4)] ∧ lane 4 40 (.vmxdq 0 5 1 5) (tV 1 [(1, List.replicate 1 0 ++ [0x58] ++ List.replicate 15 0 ++ [0x78] ++ List.replicate 13 0 ++ [0x7E] ++ List.replicate 96 0 ++ [0x7B])] tU) = [(.v 5, 0x0, 4)] := by and_intros <;> decide +kernel

/-- 5 − 6 + 8 added to 10 (R220). -/
theorem test_ternary : lane 4 0 (.vtern 0 4 2 3) tX = [(.v 4, 0x11, 4)] := by decide +kernel

theorem test_pack : lane 1 0 (.vpack 0 3 1 1) tI = [(.v 3, 0xFF, 4)] ∧ lane 1 1 (.vpack 0 3 1 1) tI = [(.v 3, 0x7F, 4)] ∧ lane 1 2 (.vpack 0 3 1 1) tI = [(.v 3, 0x5, 4)] ∧ lane 1 3 (.vpack 0 3 1 1) tI = [(.v 3, 0x0, 4)] ∧
    lane 4 0 (.vunpack 0 3 1 1 0 2) tI = [(.v 3, 0xFFFFFFFF, 4)] ∧ lane 4 1 (.vunpack 0 3 1 1 0 2) tI = [(.v 3, 0x7FFF, 4)] ∧
    lane 4 0 (.vunpack 0 3 1 0 0 2) tI = [(.v 3, 0xFFFF, 4)] ∧
    lane 4 0 (.vunpack 0 3 1 0 1 2) tI = [(.v 3, 0x0, 4)] := by and_intros <;> decide +kernel

/-! ### The matrix unit and the accumulators -/

/-- The matrix unit's registers of sequencer 0: m4 of FP8 by FP8, nothing in the unit; and with a call in it. -/
def tBusy : State := tq (fun x => { x with mrow := { x.mrow with busy := true } }) tC
def tPend : State := tq (fun x => { x with mrow := ⟨true, false, 5, 3⟩ }) tC

theorem test_matrix_calls : waits (.mcall 0 7) tBusy = true ∧ waits (.mwait 0) tBusy = true ∧ waits (.mresume 0) tBusy = true ∧
    waits (.mwait 0) tC = false ∧ trapOf (.mcall 0 7) tPend = some (0x0D, 0x0100000000000000) ∧
    trapOf (.mcall 0 7) (tq (fun x => { x with m := [(4, 0xC00)] }) tC) = some (0x0C, 1) ∧ goes (.mresume 0) tC = true := by
  and_intros <;> decide +kernel

/-- MROW holds PEND in bit 63, BUSY in bit 62, IDX in bits 24 to 16 and ROWS in bits 15 to 0 (Table 6.3). -/
theorem test_mprog : (outs (.mprog 0 3) tPend).map (fun p => (p.1, p.2.1)) = [(.s 3, (me tPend).mrow.word.toNat)] ∧
    (me tPend).mrow.word.getLsbD 63 = true ∧ (me tBusy).mrow.word.getLsbD 62 = true := by and_intros <;> decide +kernel

/-- One glaze word at 0x3_0000 goes to word 9 and back; a control word with a zero field set traps. -/
def tG : State := tM 0x30000 [3] (tS [(1, 0x30000), (2, 0x10009), (3, 0x10209), (4, 0x10000000)] tC)

theorem test_glaze : look 0 9 (coreAt 0 (nx (.mgload 0 1 2) tG)).glaze = 3#256 ∧ trapOf (.mgload 0 1 3) tG = some (0x0C, 0) ∧
    trapOf (.mgsave 0 1 4) tG = some (0x0C, 0) := by and_intros <;> decide +kernel

/-- Owner 0 holds banks 2 and 3; s1 = one bank, s2 = bank 2 row 1 column 4, s3 = bank 5, s4 = 0, s5 = 2. -/
def tAcc : State := modCore 0 (fun c => { c with bands := [(2, ⟨0, false, false⟩), (3, ⟨0, false, false⟩)] })
  (tS [(1, 1), (2, 0x10404), (3, 0x28000), (4, 0), (5, 2), (6, 0x10000)] (tV 4 [(1, [7, 0xFFFFFFFE])] tC))

theorem test_allocator : outs (.aalloc 0 9 1) tAcc = [(.s 9, 0, 1, true)] ∧ outs (.aalloc 0 9 5) tAcc = [(.s 9, 0, 1, true)] ∧
    find 0 (coreAt 0 (nx (.aalloc 0 9 1) tAcc)).bands = some ⟨0, false, false⟩ ∧
    outs (.aalloc 0 9 4) tAcc = [(.s 9, 2 ^ 64 - 1, 1, true)] ∧ outs (.abstat 0 9) tAcc = [(.s 9, 12, 1, true)] ∧
    (coreAt 0 (nx (.afree 0 6 1) tAcc)).bands = [(3, ⟨0, false, false⟩)] ∧ trapOf (.afree 0 3 1) tAcc = some (0x0E, 0x28000) ∧
    outs (.aown 0 9 3) tAcc = [(.s 9, 2 ^ 64 - 1, 1, true)] := by and_intros <;> decide +kernel

theorem test_rows : accAt (coreAt 0 (nx (.awrite 0 1 2 4 3 0) tAcc)) 2 1 5 = 0xFFFFFFFE ∧
    accAt (coreAt 0 (nx (.awrite 0 1 2 4 3 0) tAcc)) 2 1 4 = 7 ∧ trapOf (.awrite 0 1 3 4 3 0) tAcc = some (0x0E, 0x28000) ∧
    lane 4 0 (.aread 0 9 3 4 3 0) tAcc = [(.v 9, 0, 6)] := by and_intros <;> decide +kernel

/-- AACC to an integer bank adds with limits; ACLR clears; ABAND gives the bank to another owner. -/
def tInt : State := modCore 0 (fun c => { c with
  bands := [(2, ⟨0, true, false⟩)], acc := [(2 * 32768 + 1024 + 4, 0x7FFFFFFE#32), (2 * 32768 + 1024 + 5, 10#32)] }) tAcc

theorem test_accumulate : accAt (coreAt 0 tInt) 2 1 5 = 10 ∧ accAt (coreAt 0 (nx (.aacc 0 1 2 4 3) tInt)) 2 1 4 = 0x7FFFFFFF ∧
    accAt (coreAt 0 (nx (.aacc 0 1 2 4 3) tInt)) 2 1 5 = 8 ∧ lane 4 1 (.aread 0 9 2 4 3 0) tInt = [(.v 9, 10, 6)] ∧
    accAt (coreAt 0 (nx (.aclr 0 6 1) tInt)) 2 1 5 = 0 ∧
    ((find 2 (coreAt 0 (nx (.aband 0 6 5) tInt)).bands).map fun b => b.owner) = some 2 := by and_intros <;> decide +kernel

/-- ADRAIN of one row of two INT32 columns from bank 2, row 1, column 4 to 0x3_0000 holds one store of eight bytes. -/
theorem test_adrain :
    ((me (nx (.adrain 0 7 2 8 9) (tS [(7, 0x30000), (8, 0x100010002)] tInt))).bun.stores.map fun p => (p.place, p.bytes)) =
      [(.phys 0x30000 .rc, [0xFE, 0xFF, 0xFF, 0x7F, 10, 0, 0, 0])] ∧
    goes (.adrain 0 7 2 4 9) tInt = true := by and_intros <;> decide +kernel

/-! ### Domains (Tables 14.1 to 14.4) -/

/-- d0 = 3 … 9, d1 = 1 … 2, d2 all values; s1 = 9·2^32 + 3, s2 = 5, s3 = 3·2^32 + 9. -/
def tDom : State := modDom (fun u => { u with doms := [(0, ⟨3, 9, some 0x7F⟩), (1, ⟨1, 2, some 3⟩)] })
  (tS [(1, 0x900000003), (2, 5), (3, 0x300000009)] tC)

/-- A domain's bounds after an instruction. -/
def bnd (i : Instr) (d : Nat) (s : State) : Int × Int :=
  let x := dom (me (nx i s)).dom.doms d
  (x.lo, x.hi)

theorem test_relations : bnd (.dadd 0 2 0 1 0) 2 tDom = (4, 11) ∧ bnd (.dsub 0 2 0 1 0) 2 tDom = (1, 8) ∧
    bnd (.dle 0 0 1 0) 0 (tq id (modDom (fun u => { u with doms := [(0, ⟨1, 9, none⟩), (1, ⟨1, 4, none⟩)] }) tC)) = (1, 4) ∧
    bnd (.dlt 0 0 1 0) 0 (modDom (fun u => { u with doms := [(0, ⟨1, 9, none⟩), (1, ⟨1, 4, none⟩)] }) tC) = (1, 3) ∧
    bnd (.deq 0 0 1 0) 1 (modDom (fun u => { u with doms := [(0, ⟨1, 9, none⟩), (1, ⟨4, 20, none⟩)] }) tC) = (4, 9) ∧
    bnd (.dne 0 0 1 0) 0 (modDom (fun u => { u with doms := [(0, ⟨1, 9, none⟩), (1, ⟨9, 9, none⟩)] }) tC) = (1, 8) ∧
    trapOf (.dle 0 0 1 0) tDom = some (0x10, 0xFF00) := by and_intros <;> decide +kernel

theorem test_more_relations : bnd (.dmulk 0 2 0 3 0) 2 tDom = (9, 27) ∧
    bnd (.dalld 0 0 2 0) 0 (modDom (fun u => { u with doms := [(0, ⟨1, 9, none⟩), (1, ⟨9, 9, none⟩)] }) tC) = (1, 8) ∧
    trapOf (.dalld 0 31 2 0) tDom = some (0x01, slotVal tDom) ∧
    (me (nx (.dadd 0 2 0 1 1) tDom)).dom.standing.length = 1 := by and_intros <;> decide +kernel

theorem test_domain_control : bnd (.dsets 0 2 1) 2 tDom = (3, 9) ∧ trapOf (.dsets 0 2 3) tDom = some (0x10, 0xFF02) ∧
    bnd (.dsetv 0 0 2) 0 tDom = (5, 5) ∧ bnd (.drem 0 0 4) 0 (tS [(4, 3)] tDom) = (4, 9) ∧
    outs (.dlo 0 0 9) tDom = [(.s 9, 3, 1, true)] ∧ outs (.dhi 0 0 9) tDom = [(.s 9, 9, 1, true)] ∧
    outs (.dsize 0 0 9) tDom = [(.s 9, 7, 1, true)] ∧ outs (.dmemb 0 0 3 2) tDom = [(.p 3, 2 ^ 256 - 1, 1, true)] ∧
    outs (.dmemb 0 1 3 2) tDom = [(.p 3, 0, 1, true)] := by and_intros <;> decide +kernel

/-- A checkpoint with resume value 5, taken back after d0 was narrowed. -/
def tCk : State := modDom (fun u => { u with doms := [(0, ⟨5, 5, some 1⟩)] }) (nx (.dckpt 0 2) tDom)

theorem test_checkpoints : (me tCk).dom.ckpts.length = 1 ∧ outs (.drest 0 9) tCk = [(.s 9, 5, 1, true)] ∧
    bnd (.drest 0 9) 0 tCk = (3, 9) ∧ (me (nx (.ddrop 0) tCk)).dom.ckpts.length = 0 ∧ bnd (.ddrop 0) 0 tCk = (5, 5) ∧
    trapOf (.drest 0 9) tDom = some (0x11, 2) ∧ trapOf (.ddrop 0) tDom = some (0x11, 2) ∧
    (me (nx (.dclrs 0) (nx (.dadd 0 2 0 1 1) tDom))).dom.standing = [] ∧ goes (.dprop 0) (nx (.dadd 0 2 0 1 1) tDom) = true := by
  and_intros <;> decide +kernel

/-! ### Fronts -/

/-- A front of two objectives, both minimised INT32, capacity 4; v1 holds the tuples (5, 5; 1), (3, 9; 2), (6, 6; 3). -/
def tFr : State := nx (.fcfg 0 2 1) (tS [(1, 0x401), (2, 3), (3, 0)]
  (tV 4 [(1, [5, 5, 0, 0, 1, 3, 9, 0, 0, 2, 6, 6, 0, 0, 3])] tC))

theorem test_fronts : outs (.fcnt 0 2 9) (nx (.fins 0 2 1 2) tFr) = [(.s 9, 2, 1, true)] ∧
    outs (.frej 0 2 9) (nx (.fins 0 2 1 2) tFr) = [(.s 9, 0, 1, true)] ∧
    outs (.frej 0 2 9) (nx (.fins 0 2 1 2) (nx (.fcfg 0 2 1) (tS [(1, 0x101)] tFr))) = [(.s 9, 1, 1, true)] ∧
    outs (.fstat 0 2 9) tFr = [(.s 9, 0x8000000000000401, 1, true)] ∧ outs (.fstat 0 3 9) tFr = [(.s 9, 0, 1, true)] ∧
    outs (.fcnt 0 2 9) (nx (.fclr 0 2) (nx (.fins 0 2 1 2) tFr)) = [(.s 9, 0, 1, true)] ∧
    trapOf (.fcfg 0 2 2) (tS [(2, 1)] tC) = some (0x0C, 1) ∧ trapOf (.fins 0 5 1 2) tFr = some (0x0C, 0) := by
  and_intros <;> decide +kernel

theorem test_front_members : lane 4 0 (.fread 0 2 7 3) (nx (.fins 0 2 1 2) tFr) = [(.v 7, 5, 1)] ∧
    lane 4 9 (.fread 0 2 7 3) (nx (.fins 0 2 1 2) tFr) = [(.v 7, 2, 1)] ∧
    outs (.fcnt 0 3 9) (nx (.fmerge 0 3 2) (nx (.fcfg 0 3 1) (nx (.fins 0 2 1 2) tFr))) = [(.s 9, 2, 1, true)] := by
  and_intros <;> decide +kernel

/-! ### Streams, copies, fences, futures and work -/

/-- h1 bound to a ring of four entries, one filled; s1 = 1·2^16, s2 = 1, s3 = 2, s4 = 4. -/
def tH : State := tq (fun x => { x with handles := [(1, ⟨0x30000, true, true, 1024, 4, 0, 0, 0, 2, 1, 0, 1, 0⟩)] })
  (tS [(1, 0x10000), (2, 1), (3, 2), (4, 4), (5, 16)] tC)

theorem test_streams : (me (nx (.hadv 0 1 1) tH)).bun.hops = [.adv 1 1 0] ∧ waits (.hadv 0 1 3) (tS [(3, 0x20000)] tH) = true ∧
    waits (.hwait 0 1 2) tH = false ∧ waits (.hwait 0 1 3) tH = true ∧ waits (.hprod 0 1 3) tH = false ∧ waits (.hprod 0 1 4) tH = true ∧
    outs (.hstat 0 9 1) tH = [(.s 9, 0xE000000200010004, 1, true)] ∧ outs (.hstat 0 9 2) tH = [(.s 9, 0, 1, true)] ∧
    trapOf (.hwait 0 2 2) tH = some (0x0C, 58) ∧ (me (nx (.hunbind 0 1) tH)).bun.hops = [.unbind 1] ∧
    trapOf (.hbind 0 1 2) tH = some (0x0B, 1) := by and_intros <;> decide +kernel

/-- Channel 1 has completed copies up to 5, the last ID given is 6. -/
def tCh : State := modCore 0 (fun c => { c with chans := [(1, { Chan.init with done := 5, last := 6 })] }) tH

theorem test_channels : outs (.tstat 0 9 2) tCh = [(.s 9, 5, 1, true)] ∧ waits (.twait 0 2 4) tCh = false ∧
    waits (.twait 0 2 8) (tS [(8, 6)] tCh) = true ∧ trapOf (.tstat 0 9 5) tCh = some (0x0C, 16) ∧
    outs (.twptr 0 9 2) tCh = [(.s 9, 0x600000000, 1, true)] ∧ outs (.twptr 0 9 0) tCh = [(.s 9, 0xFFFFFFFF, 1, true)] ∧
    goes (.publish 0 1) tH = true := by and_intros <;> decide +kernel

/-- A full cell at 0x3_0000 with value 42, an empty one at 0x3_0010. -/
def tFu : State := tM 0x30008 [1] (tM 0x30000 [42] (tS [(1, 0x30000), (2, 0x30010), (3, 77)] tC))

theorem test_futures : outs (.fwait 0 9 1) tFu = [(.s 9, 42, 1, true)] ∧ waits (.fwait 0 9 2) tFu = true ∧
    outs (.fpoll 0 9 1) tFu = [(.s 9, 1, 1, true)] ∧ outs (.fpoll 0 9 2) tFu = [(.s 9, 0, 1, true)] ∧
    trapOf (.ffill 0 1 3) tFu = some (0x0C, 0x30000) ∧ readCells (nx (.ffill 0 2 3) tFu).mem 0x30010 9 = [77, 0, 0, 0, 0, 0, 0, 0, 1] ∧
    trapOf (.fpoll 0 9 3) tFu = some (0x0B, 77) := by and_intros <;> decide +kernel

theorem test_fences : goes (.fence 0 3 2 15) tC = true ∧ waits (.fence 0 3 2 2) tBusy = true ∧
    trapOf (.fence 0 3 2 0) tC = some (0x01, slotVal tC) ∧ waits (.bar 0 3 1) tBusy = true := by and_intros <;> decide +kernel

/-- A task of a launch on sequencer 0, with a launch record of no entry at 0x3_0000. -/
def tTask : Task where
  sag := 0
  launch := 1
  inst := 0
  grp := 0
  idx := 0
  sid := 0
  on := some 0
  bars := []
  ctx := 0
  ended := false
  yielded := false
  live := none
  lanes := []
  uhold := .none
  mfault := []
  fed := []
  pirq := 0
  stage := none

def tLaunch : Launch where
  sag := 0
  va := 0x40000
  vdev := 0
  qcb := 0
  stream := false
  seqno := 7
  prio := 0
  tstamp := 0
  hint := 0
  gang := 1
  group := 1
  ngrid := 0
  det := false
  entry := 0x10000
  param := 0
  qcost := 0
  charge := 0
  depd := none
  dcap := 0
  pipe := none
  deal := []
  rounds := []
  next := 1
  since := 0
  running := 1
  exited := 0
  dead := false
  n0 := 1

def tW : State := { tS [(1, 0x30000), (2, 0x30001)] tC with tasks := [(0, tTask)], launches := [(1, tLaunch)] }

/-- A record without entry is invalid, status 2; an accepted one is status 4 (R324). -/
theorem test_launch : outs (.launch 0 9 1) tW = [(.s 9, 2, 1, true)] ∧ outs (.launch 0 9 1) (tM 0x30030 [1] tW) = [(.s 9, 4, 1, true)] ∧
    trapOf (.launch 0 9 2) tW = some (0x0B, 0x30001) ∧ waits (.cwait 0 9 1) (tM 0x30030 [1] tW) = true ∧
    outs (.cwait 0 9 1) (tM 0x30030 [2] tW) = [(.s 9, 2, 1, true)] ∧ outs (.cwait 0 9 1) tW = [(.s 9, 0, 1, true)] ∧
    goes (.logmark 0 1) tW = true := by and_intros <;> decide +kernel

/-- A barrier of scope 1 reached by the only participant. -/
theorem test_barrier : goes (.bar 0 3 1) tW = true ∧
    ((find 0 (nx (.bar 0 3 1) tW).tasks).map fun t => t.arrived 1) = some 1 := by and_intros <;> decide +kernel

/-- A pipeline with one queue at 0x5_0000 of two entries of eight bytes, one element in it. -/
def tQ : State := { tS [(1, 0x50000), (2, 0x60000)] (tV 8 [(1, [5, 6])] tW) with
  pipes := [(3, { sag := 0, launch := 1, va := 0x40000, die := 0, bytes := 0, stages := [], queues := [⟨0x50000, 2, 8, 2, 0, [⟨0, [9, 0, 0, 0, 0, 0, 0, 0], none⟩], 1, 0⟩], closed := false, det := false, tick := 0, owner := none, moves := [] })] }

theorem test_queues : lane 8 0 (.qpop 0 4 1) tQ = [(.v 4, 9, 1)] ∧ lane 8 0 (.qpeek 0 4 1) tQ = [(.v 4, 9, 1)] ∧
    (queueAt 3 0 (nx (.qpush 0 1 1) tQ)).elems.length = 2 ∧ (queueAt 3 0 (nx (.qpop 0 4 1) tQ)).elems.length ≤ 1 ∧
    waits (.qpush 0 1 1) (nx (.qpush 0 1 1) tQ) = true ∧ trapOf (.qpop 0 4 2) tQ = some (0x0C, 0x60000) ∧
    outs (.qstat 0 4 2) tQ = [(.s 4, 0, 1, true)] := by and_intros <;> decide +kernel

/-! ### Witnesses: a state and operands that meet the hypotheses of each clause of each statement -/

theorem witness_o1_words : (encode (.add 7 63 63 63)).isSome = true ∧ (encode (.brp 7 15 1 0x1FFFF)).isSome = true ∧
    (encode (.adrain 7 63 63 63 11)).isSome = true ∧ decode 0 = some .nop := by and_intros <;> decide +kernel

theorem witness_o2_majors : (0x6A000000#32).toNat / 2 ^ 25 % 64 = 0x35 ∧ 0x3A ≤ (0x74000000#32).toNat / 2 ^ 25 % 64 ∧
    0x3A ≤ (0x7FFFFFFF#32).toNat / 2 ^ 25 % 64 := by decide +kernel

/-- Sequencers 0 and 1 of core 0 about to dispatch: a bundle of four NOPs, and one of four transfers. -/
def tTwo : State := { tU with seqs := upd 1 (seqAt 0 tU) tU.seqs }
def tTwoBr : State := tM 0x10000 [0, 0, 0, 4, 0, 0, 0, 4, 0, 0, 0, 4, 0, 0, 0, 0x84] tTwo

theorem witness_o3_starved : (coreAt 0 (modCore 0 (fun c => { c with starved := true }) tTwo)).starved = true ∧
    ready 1 (modCore 0 (fun c => { c with starved := true }) tTwo) = true ∧ (coreAt 0 tTwo).starved = false ∧
    lagsNow 0 tTwo = (0, 0) ∧ (∀ p ∈ tTwo.seqs, p.2.wait = .none) := by and_intros <;> decide +kernel

/-- Held for sequencer 1, sequencer 0 does not issue in that turn, ready as it is (R34). -/
theorem test_starved_turn : (seqAt 0 (turn 0 (modCore 0 (fun c => { c with starved := true }) tTwo))).pc = 0x10000 ∧
    (seqAt 1 (turn 0 (modCore 0 (fun c => { c with starved := true }) tTwo))).pc = 0x10010 := by and_intros <;> decide +kernel

/-- A bundle of CSRW FFLAGS, s1 and a VADD, which its execute queue has not yet executed (R224, R225). -/
def tLag : State := { tM 0x10000 (((encode (.csrw 0 0x011 1)).toList ++ (encode (.vadd 0 1 2 3 0 0 0)).toList ++ [0, 0x80000000]).flatMap
  fun (w : Slot) => leBytes 4 w.toNat) (tS [(1, 5)] tU) with skews := [(0, 1)] }

/-- It stays in the queue, so that its write is not yet there for a read; its commit makes it. -/
theorem test_lag : ((seqAt 0 (turn 0 tLag)).flight.length, (seqAt 0 (turn 0 tLag)).pc, (seqAt 0 (turn 0 tLag)).fflags) = (1, 0x10010, 0) ∧
    (seqAt 0 (nx (.bundleCommit 0) (turn 0 tLag))).fflags = 5 ∧ (seqAt 0 (nx (.bundleCommit 0) (turn 0 tLag))).flight = [] := by
  and_intros <;> decide +kernel

theorem witness_o3_turn : tU.rot.boot ≠ .failed ∧ tU.agenda = [] ∧ (eventDue tU).isNone = true ∧ turnOf tU = some 0 ∧
    mayDispatch 0 tU = true ∧ ready 0 tU = true ∧ ready 1 tU = false ∧ okE (dispatch 0 (fetched 0 tU)) = true := by
  and_intros <;> decide +kernel

theorem witness_o3_beside : ready 0 tTwo = true ∧ ready 1 tTwo = true ∧ ready 1 (runBundle 0 tTwo) = true ∧
    merges (nextSlots 0 tTwo) (nextSlots 1 tTwo) = true ∧ (seqAt 0 (runBundle 0 tTwo)).wait = .none ∧
    merges (nextSlots 0 tTwoBr) (nextSlots 1 tTwoBr) = false ∧ ready 0 (tq (fun x => { x with pause := 1 }) tTwo) = false ∧
    ready 1 (tq (fun x => { x with pause := 1 }) tTwo) = true := by and_intros <;> decide +kernel

/-- The state its dispatch gives. -/
def tRun : State :=
  match dispatch 0 (fetched 0 tU) with
  | .ok t => t
  | .error _ => State.reset

theorem witness_o3_bundle : (seqAt 0 tRun).bun.words.length = 4 ∧
    (let r := runSlots (slotOrder (seqAt 0 tRun).bun.words) ⟨tRun, none, none, []⟩
     r.trap = none ∧ r.park = none ∧ r.state.cur = 0 ∧ (seqAt 0 r.state).bun.words = (seqAt 0 tRun).bun.words) ∧
    goes .nop (atPos 0 tRun) = true ∧ (me (nx .nop (atPos 0 tRun))).bun.trapped = none ∧
    (me (nx .nop (atPos 0 tRun))).bun.park = none := by and_intros <;> decide +kernel

theorem witness_o3_agenda : (State.reset.withFetchWord 32 0).agenda = [.bundleDispatch 0] ∧
    ({ tU with agenda := [.droopDetected 3] }).agenda = .droopDetected 3 :: [] ∧
    (∀ q, Instr.droopDetected 3 ≠ .bundleDispatch q) := by
  refine ⟨by decide +kernel, rfl, fun q h => by cases h⟩

/-- One cycle issues the bundles of both sequencers, where Table 2.2 has room (R34). -/
theorem test_merged_turn : (seqAt 0 (turn 0 tTwo)).pc = 0x10010 ∧ (seqAt 1 (turn 0 tTwo)).pc = 0x10010 := by
  and_intros <;> decide +kernel

/-- The step of the bundle of one NOP goes to the next bundle. -/
theorem test_step : (match step tU with
    | .next t => (seqAt 0 t).pc
    | _ => 0) = 0x10010 := by decide +kernel

/-- A request for saggar 1 on a module that has booted with nothing else on it. -/
def tReq : StartReq where
  num := 1
  clusters := [3, 511]
  groups := 1
  quads := [0]
  ports := [15]
  ns := 1
  nsPort := 0
  stewards := [127]
  os := ⟨[], 0, 0⟩
  s2root := 0
  kcb := 0
  stopPol := false
  vdevs := []
  slotTab := 0
  loads := []

def tUp : State := { State.reset with rot := { State.reset.rot with boot := .up } }

theorem witness_o5_start : startOk tReq tUp = true ∧ startOk { tReq with num := 0 } State.reset = true := by
  and_intros <;> decide +kernel

theorem test_start : (coreAt 31 (startSaggar tReq tUp)).bankrole = 0x5555555500000000 ∧
    clusterState 511 (startSaggar tReq tUp) = .owned 1 ∧ (startSaggar tReq tUp).rot.keys = tUp.rot.keys + 1 := by
  and_intros <;> decide +kernel

theorem witness_o6_handler : canFetch 0 (vector (seqAt 0 tC).tvec 255).toNat
      (modSeq 0 (trapRegs 255 1 2) (unpark 0 (trapLand 0 tC))) = true ∧
    canFetch 0 (vector (seqAt 0 tK).tvec 0).toNat (modSeq 0 (trapRegs 0 1 2) (unpark 0 (trapLand 0 tK))) = true ∧
    (seqAt 0 tC).inflight = [] ∧ (seqAt 0 tC).flight = [] ∧ tC.upsets = [] ∧ (seqAt 0 tC).wait = .none ∧ (seqAt 0 tC).mode = .u ∧ (seqAt 0 tK).mode = .k := by
  and_intros <;> decide +kernel

/-- Cause 0x1D at TVEC = 0x2_0000 goes to 0x2_0740 (R262). -/
theorem test_trap_entry : (seqAt 0 (trapEntry 0 0x1D 5 0x10000 tC)).pc = 0x20740 ∧
    (seqAt 0 (trapEntry 0 0x1D 5 0x10000 tC)).tval = 5 ∧ (seqAt 0 (trapEntry 0 0x1D 5 0x10000 tC)).taddr = 0x10000 ∧
    (seqAt 0 (trapEntry 0 0x1D 5 0x10000 tC)).mode = .k ∧ (seqAt 0 (trapEntry 0 0x1D 5 0x10000 tC)).tpk = false ∧
    (seqAt 0 (trapEntry 0 0x1D 5 0x10000 tK)).tpk = true := by and_intros <;> decide +kernel

/-- In a handler that interrupted U mode, TADDR a bundle start; and one that interrupted K mode. -/
def tHan : State := tq (fun x => { x with mode := .k, taddr := 0x10020 }) tC

theorem witness_o7_return : guardTrue 0 tHan = true ∧ (me tHan).mode = .k ∧ targetFault tHan.cur (me tHan).taddr tHan = none ∧
    (me tHan).tpk = false ∧ ({ me tHan with tpk := true }).tpk = true ∧ (me tC).mode = .u := by and_intros <;> decide +kernel

/-- A TADDR that is no multiple of 16 (R276). -/
theorem witness_o7_target : targetFault 0 (me (tq (fun x => { x with taddr := 0x10024 }) tHan)).taddr tHan = some (0x0B, 0x10024) ∧
    (0x10024 : Word).toNat < 2 ^ 48 ∧ (0x10024 : Word).toNat % 16 ≠ 0 ∧
    trapOf (.eret 0) (tq (fun x => { x with taddr := 0x10024 }) tHan) = some (0x0B, 0x10024) := by and_intros <;> decide +kernel

/-- In a handler whose own bundle arrives at a barrier. -/
theorem witness_o7_holds : (me tHan).hold.isBar = false ∧ ({ me tHan with hold := .bar 0 1 0 }).hold.isBar = true ∧
    (applyCtl (.eret 0x10020) (me tHan)).pending = false := by and_intros <;> decide +kernel

theorem test_return : (applyCtl (.eret 0x10020) { me tHan with uhold := .bar 0 1 0 }).hold = .bar 0 1 0 ∧
    (applyCtl (.eret 0x10020) { me tHan with hold := .bar 0 2 0, uhold := .bar 0 1 0 }).hold = .bar 0 2 0 ∧
    (applyCtl (.eret 0x10020) { me tHan with preq := true }).land = .now := by and_intros <;> decide +kernel

theorem witness_guards : guardTrue 0 tC = true ∧ guardTrue 7 tC = false ∧ guardTrue 7 (tP [(7, 1)] tC) = true ∧
    matrixBusy 0 tC = false ∧ (me tC).mrow.busy = false ∧ (me tBusy).mrow.busy = true := by and_intros <;> decide +kernel

/-- A trap vector that no page maps. -/
theorem witness_o9_no_handler :
    let s1 := modSeq 0 (trapRegs 1 0 0) (unpark 0 (trapLand 0 (tq (fun x => { x with tvec := 0x40000000 }) tC)))
    canFetch 0 (seqAt 0 s1).pc.toNat s1 = false := by decide +kernel

theorem test_double_fault :
    (seqAt 0 (trapEntry 0 1 0 0 (tq (fun x => { x with tvec := 0x40000000 }) tC))).run = .stopped := by decide +kernel

theorem witness_o11_limits : guardOf (.slack 7 16) = some 7 ∧ wellFormed (.slack 7 16) = true ∧ guardOf (.slack 7 17) = some 7 ∧
    wellFormed (.slack 7 17) = false ∧ guardTrue 7 tC = false := by and_intros <;> decide +kernel

theorem witness_o11_system : systemGuard (.csrr 7 0x010 1) = some 7 ∧ wellFormed (.csrr 7 0x010 1) = true ∧
    privileged (me tC).mode (.csrr 7 0x010 1) = false ∧ systemGuard (.csrr 7 0x005 1) = some 7 ∧ wellFormed (.csrr 7 0x005 1) = false ∧
    systemGuard (.eret 7) = some 7 ∧ wellFormed (.eret 7) = true ∧ illegalNow (.eret 7) tC = false ∧
    privileged (me tC).mode (.eret 7) = true ∧ goes (.waitev 7 1) tC = true ∧ trapOf (.eret 7) tC = some (0x04, slotVal tC) := by
  and_intros <;> decide +kernel

theorem witness_o12_control : (me (tq (fun x => { x with evt := 4, mode := .k }) tC)).evt &&& (7#12).setWidth 3 ≠ 0 ∧
    (me tC).evt &&& (1#12).setWidth 3 = 0 ∧ (me (tq (fun x => { x with evt := 4, mode := .k }) tC)).mode = .k ∧
    (me (tq (fun x => { x with mode := .k, tpk := true }) tC)).tpk = true ∧ (me tBusy).mrow.busy = true ∧
    (seqAt 0 (tq (fun x => { x with sync := true }) tC)).sync = true ∧ (seqAt 0 tC).mrow.busy = false ∧
    (seqAt 0 (tq (fun x => { x with pause := 64 }) tC)).pause ≠ 0 := by and_intros <;> decide +kernel

/-- Both queues may lag by two bundles; the bundle in execution is a SYNC of both. -/
def tSync : State := { tq (fun x => { x with accLag := 1, exLag := 1, flight := [Bun.none], bun := { x.bun with ctl := .sync 3 } }) tC with
  skews := [(2, 2)] }

theorem test_sync_and_yield : lagsNow 0 tSync = (0, 0) ∧ (seqAt 0 (retire 0 tSync)).flight = [] ∧
    waits (.yield 0) tBusy = true ∧ waits (.exit 0) tBusy = true ∧
    (seqAt 0 ((releaseHold 0 (tq (fun x => { x with sync := true }) tC)).getD tC)).sync = false := by and_intros <;> decide +kernel

/-- A task of sequencer 0, in K mode, its window fetched into core 0. -/
def tEnd0 : State := modCore 0 (fun c => { c with icache := [(0x4000, 0), (0x8000, 0)] })
  { tq (fun x => { x with mode := .k, hold := .none }) tU with tasks := [(0, { tTask with on := some 0 })], launches := [(1, tLaunch)] }

theorem witness_o12_ends : (seqAt 0 tEnd0).mrow.busy = false ∧ ((find (seqAt 0 tEnd0).task tEnd0.tasks).map fun k => k.on) = some (some 0) ∧
    okE (place (viewOf 0 (release 0 1 tEnd0)) (release 0 1 tEnd0) false false false false 0x10000) = true := by and_intros <;> decide +kernel

theorem test_ends : ((find 0 (afterCommit 0 .exit tEnd0).tasks).map fun k => k.ended).getD true = true ∧
    (seqAt 0 (afterCommit 0 .exit tEnd0)).run = .off ∧
    (coreAt 0 (afterCommit 0 (.icinv false 0x10000) tEnd0)).icache = [(0x8000, 0)] ∧
    (coreAt 0 (afterCommit 0 (.icinv true 0) tEnd0)).icache = [] ∧ (seqAt 0 (afterCommit 0 (.tlbinv 0 0) tEnd0)).tlb = true := by
  and_intros <;> decide +kernel

/-- An image of sequencer 0 with s1 = 5 live, as its save writes it, and what a restore reads of it. -/
def tSave : State := tq (fun x => { x with s := [(1, 5), (2, 6)], callLev := 3, frec := [7], rmode := 2 }) tU
def tPieces : List (Nat × List Byte) := imagePieces 0 0x10000 (some ⟨2, 0, 0, 0⟩) tSave
def tReader : Reader := fun o n => ((tPieces.find? fun p => p.1 == o && p.2.length == n).map (·.2)).getD (List.replicate n 0)
def tSaved : Task := { tTask with live := some ⟨2, 0, 0, 0⟩ }

theorem witness_o12_image : (tPieces.all fun p => tReader p.1 p.2.length == p.2) = true ∧ (seqAt 0 tSave).loops.length ≤ 6 ∧
    (seqAt 0 tSave).latches.length ≤ 64 ∧ (seqAt 0 tSave).callLev < 65536 := by and_intros <;> decide +kernel

theorem test_image : let y := seqFrom tReader tSaved 4 0 tSave
    y.pc = 0x10000 ∧ y.rs 1 = 5 ∧ y.rs 2 = 0 ∧ y.callLev = 3 ∧ nth 0 0 y.frec = 7 ∧ y.rmode = 2 := by
  and_intros <;> decide +kernel

/-- A latched lane is saved in its register's width, and comes back with the lane that its task keeps (Table 15.4). -/
theorem test_latch : let p : Pend := ⟨.vlane 7 3, 9#2048, 2, false⟩
    let rd : Nat → Nat → List Byte := fun o n => (((latchPieces 0 p).find? (·.1 == o)).map (·.2.take n)).getD []
    leNat (rd 0 16) = 2 + 7 * 256 + 2 * 2 ^ 24 ∧ (rd 16 256).length = 256 ∧ (rd 16 256).getD 24 0 = 9 ∧
    latchFrom rd 0 (find 0 (latchLanes [p])) = p := by and_intros <;> decide +kernel

theorem witness_o13_branches : targetFault 0 ((me tC).bun.addr + 4 * (8#17).signExtend 64) tC = none ∧
    targetFault 0 ((me tC).bun.addr + 4 * (0x1FFFC#17).signExtend 64) tC = none ∧ (preg 1 tC).getLsbD 0 ≠ decide ((1 : BitVec 1) = 1) ∧
    targetFault 0 ((me tC).bun.addr + 4 * (1#17).signExtend 64) tC = some (0x0B, 0x10004) ∧ (preg 1 tC).getLsbD 0 = decide ((0 : BitVec 1) = 1) := by and_intros <;> decide +kernel

theorem witness_o14_targets : targetFault 0 ((me tC).bun.addr + 4 * (8#22).signExtend 64) tC = none ∧
    targetFault 0 (sreg 1 tC) tC = none ∧ targetFault 0 (sreg 63 tC) tC = none ∧
    targetFault 0 (sreg 2 tC) tC = some (0x0B, 3) ∧ targetFault 0 (sreg 63 (tS [(63, 2 ^ 48)] tC)) tC = some (0x08, 2 ^ 48) ∧
    targetFault 0 ((me tC).bun.addr + 4 * (1#22).signExtend 64) tC = some (0x0B, 0x10004) := by and_intros <;> decide +kernel

theorem witness_o15_commits : (me tL).loops = ⟨0xFFF0, 0x10000, 3, 1, 0⟩ :: [] ∧ ((1 : Word) + 1).toNat < (3 : Word).toNat ∧
    ¬((2 : Word) + 1).toNat < (3 : Word).toNat ∧ (me tL).callLev < 65535 ∧
    (applyCtl (.jump 0xFFF0) (me tL)).loops = ⟨0xFFF0, 0x10000, 3, 1, 0⟩ :: [] ∧
    (applyCtl (.ret 0xFFF0) (me tL)).loops = ⟨0xFFF0, 0x10000, 3, 1, 0⟩ :: [] := by and_intros <;> decide +kernel

theorem witness_o16_loops :
    let e := (me tC).bun.addr + BitVec.ofNat 64 (4 * (8#16).toNat)
    (me tC).loops.length < 6 ∧ startFault 0 e tC = none ∧ (me tC).bun.next.toNat ≤ e.toNat ∧ (me tC).loop = none ∧
    sreg 2 tC ≠ 0 ∧ sreg 5 tC = 0 ∧ okE (bundleLen 0 e.toNat tC) = true ∧
    (me tL).loop = some ⟨0xFFF0, 0x10000, 3, 1, 0⟩ ∧ okE (bundleLen 0 0x10000 tL) = true := by and_intros <;> decide +kernel

/-- Six loops; a last bundle that is no bundle start, that lies before the end of its own bundle, that lies at the end of
the current loop, that no page maps (R74). -/
theorem witness_o16_traps : 6 ≤ (me (tq (fun x => { x with loops := List.replicate 6 ⟨0, 0x20000, 3, 1, 0⟩ }) tC)).loops.length ∧
    startFault 0 ((me tC).bun.addr + BitVec.ofNat 64 (4 * (8#16).toNat)) tC = none ∧
    startFault 0 ((me tC).bun.addr + BitVec.ofNat 64 (4 * (9#16).toNat)) tC = some (0x0B, 0x10024) ∧
    (me tC).bun.addr.toNat < (me tC).bun.next.toNat ∧
    (me (tq (fun x => { x with loops := [⟨0xFFF0, 0x10020, 3, 1, 0⟩] }) tC)).loop = some ⟨0xFFF0, 0x10020, 3, 1, 0⟩ ∧
    startFault 0 0x40000010 tC = some (0x08, 0x4000000C) := by and_intros <;> decide +kernel

theorem test_loop_traps : trapOf (.loop 0 2 9) tC = some (0x0B, 0x10024) ∧ trapOf (.loop 0 2 0) tC = some (0x0B, 0x10000) ∧
    trapOf (.loop 0 2 8) (tq (fun x => { x with loops := List.replicate 6 ⟨0, 0x20000, 3, 1, 0⟩ }) tC) = some (0x01, slotVal tC) ∧
    trapOf (.loop 0 2 8) (tq (fun x => { x with loops := [⟨0xFFF0, 0x10020, 3, 1, 0⟩] }) tC) = some (0x0B, 0x10020) := by
  and_intros <;> decide +kernel

theorem witness_o16_elsewhere :
    (me (tq (fun x => { x with loops := [⟨0xFFF0, 0x10020, 3, 1, 0⟩] }) tC)).loop = some ⟨0xFFF0, 0x10020, 3, 1, 0⟩ ∧
    (0x10020 : Word) ≠ (me tC).bun.addr ∧ (me tL).bun.addr = 0x10000 := by and_intros <;> decide +kernel

theorem witness_o18_registers : csrKnown 0x004 = true ∧ csrReadable 0x004 (me tC).mode = true ∧ csrKnown 0x060 = true ∧
    csrReadable 0x060 .k = true ∧ csrKnown 0x010 = true ∧ csrWritable 0x010 .u = true ∧ csrWritable 0x024 .k = true ∧
    vwbOk 0 (sreg 5 tC) tC = true ∧ vwbOk 0 (sreg 2 tC) tC = false ∧ rolesOk (sreg 5 tC) = true ∧
    rolesOk (sreg 2 tC) = false ∧ copiesRun (myK tC) tC = false ∧ csrAtDispatch 0x011 = false ∧ csrAtDispatch 0x040 = false ∧
    (me (setCtl (.csr 0x011 .w 3) tC)).bun.ctl = .csr 0x011 .w 3 ∧ (me tC).loops.length ≤ 6 := by
  and_intros <;> decide +kernel

/-- A SLACK of 17 is 16; TCAUSE keeps bits 63 and 7 to 0. -/
theorem test_register_fields : (seqAt 0 (csrWrite 0 0x041 .w 17 tK)).slack = 16 ∧
    (seqAt 0 (csrWrite 0 0x021 .w 0x80000000FFFFFF1D tK)).tcause = 0x1D ∧
    (seqAt 0 (csrWrite 0 0x021 .w 0x80000000FFFFFF1D tK)).tpk = true := by and_intros <;> decide +kernel

theorem witness_o20_divisors : sreg 5 tA = 0 ∧ sreg 1 (tS [(1, 2 ^ 63), (2, 2 ^ 64 - 1)] tU) = 0x8000000000000000#64 ∧
    sreg 2 (tS [(1, 2 ^ 63), (2, 2 ^ 64 - 1)] tU) = BitVec.allOnes 64 ∧ sreg 2 tA ≠ 0 := by and_intros <;> decide +kernel

theorem witness_o22_conditions : (5 : BitVec 4).toNat ≤ 5 ∧ (1 : BitVec 1).toNat * 4 + (1 : BitVec 2).toNat ≤ 5 ∧
    guardTrue 0 tA = true := by and_intros <;> decide +kernel

theorem witness_operands : (srcOf 63 tC).isNone = true ∧ (srcOf 0 tC).isSome = true ∧ (srcOf 55 tC).isSome = true ∧
    (destOf 0 tC).isSome = true ∧ (destOf 55 tC).isSome = true ∧ (srcOf 57 tH).isSome = true := by
  and_intros <;> decide +kernel

theorem witness_o24_results : (me (putS 3 7 1 tC)).inflight.length = 1 ∧ (me (issue (.vlane 9 31) 7 4 false tC)).inflight.length = 1 := by
  and_intros <;> decide +kernel

/-- A result on its way to s63 with one bundle, and with eight, to go. -/
theorem witness_o25_results :
    (seqAt 0 (tq (fun x => { x with inflight := [⟨.s 63, (9#64).setWidth 2048, 1, false⟩] }) tC)).inflight =
      [⟨.s 63, (9#64).setWidth 2048, 1, false⟩] ∧
    (seqAt 0 (tq (fun x => { x with inflight := [⟨.s 63, (9#64).setWidth 2048, 8, false⟩] }) tC)).latches = [] := by
  and_intros <;> decide +kernel

theorem witness_o26_loads : okE (load 0x30000 1 tD) = true ∧ okE (load 0x3FFFFFF8 8 tD) = true ∧
    okE (store 0x3FFFFFFC [1, 2, 3, 4] true tD) = true ∧ okE (load 0x3FFFFF00 256 tD) = true ∧
    okE (placesOf 0x30000 8 true false false tD) = true ∧ okE (placesOf 0x30000 8 false true true tD) = true ∧
    okE (placesOf 0x3FFFFF00 256 false true true tD) = true := by and_intros <;> decide +kernel

/-- Lanes all at one address, and a stride of zero bytes. -/
theorem witness_o26_lanes : (strided 1 5 (tS [(5, 2 ^ 63 + 2 ^ 62)] tD)).isSome = true ∧
    okE (loadLanes 8 [0x30000, 0x30008] tD) = true ∧ okE (storeLanes 8 [(0x30000, 5), (0x30008, 6)] tD) = true := by
  and_intros <;> decide +kernel

/-- Line 0x600 has an error that cannot be corrected, line 0x602 one that can; and under the stop policy. -/
def tUps : State := { tD with upsets := [⟨0x600, true, 0, 1000⟩, ⟨0x602, false, 0, 1000⟩] }
def tUpStop : State := { tUps with sags := upd 0 { sagAt 0 tUps with stopPol := true } tUps.sags }

theorem witness_upsets : tD.upsets = [] ∧ upsetLines true (some 0) (.phys 0x30000 .rc) 8 tUps = [0x600] ∧
    upsetLines false (some 0) (.phys 0x30100 .rc) 8 tUps = [0x602] ∧
    machineCheck 0 (cut 0x30000 8) [(.phys 0x30000 .rc, 8)] tUpStop = some 0x30000 ∧
    homeStops 0 (.phys 0x30000 .so) 64 tUpStop = true ∧ homeStops 0 (.phys 0x30000 .so) 64 tUps = false := by
  and_intros <;> decide +kernel

/-- A load that meets the error reads zeros and counts in UE, or traps; a correctable one counts in SBE (R178, R268). -/
theorem test_upsets : outs (.lds 0 4 1 3 0 0) tUps = [(.s 4, 0, 1, true)] ∧ (coreAt 0 (nx (.lds 0 4 1 3 0 0) tUps)).errcnt = 0x10000 ∧
    byteAt 0x30004 (nx (.lds 0 4 1 3 0 0) tUps) = 0 ∧ trapOf (.lds 0 4 1 3 0 0) tUpStop = some (0x18, 0x30000) ∧
    (coreAt 0 (heal (some 0) (.phys 0x30100 .rc) 8 tUps)).errcnt = 1 ∧
    (heal (some 0) (.phys 0x30100 .rc) 8 tUps).upsets.length = 1 := by and_intros <;> decide +kernel

theorem witness_o29_faults : (0x30004 : Nat) % 256 ≠ 0 ∧ (sreg 2 tD).toNat % (4 * ((1 : BitVec 1).toNat + 1)) ≠ 0 ∧
    (sreg 2 tD).toNat % 16 ≠ 0 ∧ bits (sreg 3 tD).toNat 61 32 ≠ 0 ∧ okE (load 0x40000000 1 tD) = false ∧
    okE (store 0x40000000 [0] false tD) = false ∧ okE (load 0x3FFFFFF9 8 tD) = false ∧
    (me tD).wait = .none := by and_intros <;> decide +kernel

/-- Core 0 holds line 0x600 with byte 0 dirty and byte 1 clean. -/
def tLine : State := modCore 0 (fun c => { c with l1 := [(0x600, ⟨3, 1, 0x0201⟩)] }) tD

theorem witness_o28_and_o30_lines : (0x30000 / 128, Line.mk 3 1 0x0201) ∈ (coreAt 0 tLine).l1 ∧
    cachedAt 0 .rc tLine = true ∧ cachedAt 0 .io tLine = false  := by and_intros <;> decide +kernel

/-- A release sends the dirty byte home and the clean one stays; an acquire drops the clean one (R184). -/
theorem test_release_acquire : byteAt 0x30000 (release 0 2 tLine) = 1 ∧ byteAt 0x30001 (release 0 2 tLine) = 0x22 ∧
    byteAt 0x30000 (release 0 0 tLine) = 0xF1 ∧ ((find 0x600 (coreAt 0 (acquire 0 2 tLine)).l1).map fun l => l.have_) = some 1 := by
  and_intros <;> decide +kernel

/-- An ATST leaves nothing of an earlier slot's store in its bytes, and all of a later one's (R29). -/
theorem test_atomic_slots : (me (nx (.atst 0 1 0 1 2) (tq (fun x => { x with bun := { x.bun with
      pos := 1, stores := [⟨.phys 0x2FFFE .rc, [1, 2, 3, 4, 5, 6, 7, 8], 0⟩, ⟨.phys 0x30000 .rc, [9], 2⟩] } }) tD))).bun.stores =
    [⟨.phys 0x2FFFE .rc, [1, 2], 0⟩, ⟨.phys 0x30004 .rc, [7, 8], 0⟩, ⟨.phys 0x30000 .rc, [9], 2⟩] := by decide +kernel

/-- A load's bundle keeps what it has read, and the leaf it has marked (R159). -/
theorem test_load_notes : (me (nx (.lds 0 3 1 3 0 0) tD)).bun.reads = [(.phys 0x30000 .rc, 8)] ∧
    (me (nx (.lds 0 3 1 3 0 0) tD)).bun.seen.all (fun p => !p.2) = true := by and_intros <;> decide +kernel

theorem witness_o31_atomics : (sreg 1 tD).toNat % 8 = 0 ∧
    okE (place (viewOf tD.cur tD) tD true true true false 0x30000) = true := by and_intros <;> decide +kernel

/-- The record of a ring of four entries at 1,024 (Table 8.7). -/
def tRec : List Byte := [0, 4, 4, 0, 1] ++ List.replicate 27 0

theorem witness_o33_records : ((handleFrom 0x30000 tRec).map fun h => (h.base, h.len, h.ring)) = some (1024, 4, true) ∧
    ((handleFrom 0x30000 tRec).map fun h => ringFree 0 7 h tC) = some true ∧ (handleFrom 0x30000 (List.replicate 32 0)).isSome = false ∧
    okE (load 0x30000 32 (tM 0x30000 tRec tC)) = true ∧ copiesOf 0 tC = false := by and_intros <;> decide +kernel

theorem test_hbind : ((me (nx (.hbind 0 7 1) (tS [(1, 0x30000)] (tM 0x30000 tRec tC)))).bun.hops.length) = 1 := by decide +kernel

/-- A buffer object's page: its stage-1 leaf, at 0x5000, has SP. -/
def tPub : State :=
  let s := tM 0x4000 (leBytes 8 0x5001) (tM 0x5000 (leBytes 8 0xDCF) (tS [(1, 0x30000)] tC))
  { s with sags := upd 0 { sagAt 0 s with s1roots := [(0, 0x4000)] } s.sags }

theorem witness_o33_publish : okE (pairFlips tPub 1 0x30000 none) = true ∧ okE (pairFlips tC 1 0x30000 none) = false := by
  and_intros <;> decide +kernel

theorem test_publish : (me (nx (.publish 0 1) tPub)).bun.publish = [(0x5000, 30)] ∧ trapOf (.publish 0 1) (tS [(1, 0x30000)] tC) = some (0x09, 0x30000) := by
  and_intros <;> decide +kernel

theorem witness_o33_streams : find 1 (me tH).handles ≠ none ∧
    find 2 (me tH).handles = none ∧ (sreg 2 tCh).toNat ≤ 15 ∧ 15 < (sreg 5 tCh).toNat ∧
    ((look Chan.init 1 (coreAt 0 tCh).chans).done - (sreg 4 tCh).setWidth 32).toNat < 2 ^ 31 ∧
    2 ^ 31 ≤ ((look Chan.init 1 (coreAt 0 tCh).chans).done - (6 : Word).setWidth 32).toNat ∧
    (look Chan.init 0 (coreAt 0 tCh).chans).done = (look Chan.init 0 (coreAt 0 tCh).chans).last ∧
    (look Chan.init 1 (coreAt 0 tCh).chans).done ≠ (look Chan.init 1 (coreAt 0 tCh).chans).last := by and_intros <;> decide +kernel

theorem witness_o34_vectors : vectorForm (.vfma 0 55 0 1 2 1 1) = some (0, [0, 1, 55], 55) ∧ wellFormed (.vfma 0 55 0 1 2 1 1) = true ∧
    (srcsOf [0, 1, 55] tC).isSome = true ∧ (destOf 55 tC).isSome = true ∧ wellFormed (.vfma 0 55 0 1 3 1 1) = false := by
  and_intros <;> decide +kernel

/-- Handle 1 with one entry filled, as tH; empty; full; not feeding, with room and without. -/
def tHs (feed : Bool) (filled off : Nat) (ring : Bool) : State :=
  tq (fun x => { x with handles := [(1, ⟨0x30000, feed, ring, 1024, 4, 0, 0, 0, 0, filled, off, 0, 0⟩)] }) tC

theorem witness_o34_handles : vectorSources (.vfma 0 55 0 57 2 1 1) = some (0, [0] ++ 57 :: [55]) ∧ handleOf 57 = some 1 ∧ handleOf 55 = none ∧
    (srcsOf [0] tC).isSome = true ∧ find 1 (me tC).handles = none ∧ (find 1 (me (tHs true 0 0 false)).handles).isSome = true ∧
    vectorForm (.vmov 0 57 1) = some (0, [1], 57) ∧ vectorSources (.vicmp 0 1 57 57 0 0) = some (0, [] ++ 57 :: [57]) := by
  and_intros <;> decide +kernel

/-- An unbound handle, one without an entry, a ring without the entry at its offset; as a destination a feeding one, a
full one (R176). -/
theorem test_handles : trapOf (.vmov 0 1 57) tC = some (0x0C, 57) ∧ trapOf (.vmov 0 57 1) tC = some (0x0C, 57) ∧
    waits (.vmov 0 1 57) (tHs true 0 0 false) = true ∧ waits (.vmov 0 1 57) (tHs true 1 0 false) = false ∧
    waits (.vmov 0 1 57) (tHs true 1 1 true) = true ∧ waits (.vmov 0 1 57) (tHs true 2 1 true) = false ∧
    trapOf (.vmov 0 57 1) (tHs true 1 0 false) = some (0x0C, 57) ∧ waits (.vmov 0 57 1) (tHs false 4 0 false) = true ∧
    waits (.vmov 0 57 1) (tHs false 3 0 false) = false := by and_intros <;> decide +kernel

theorem witness_o35_to_o39 : (2 : BitVec 2) ≠ 3 ∧ (1 : BitVec 2) ≠ 0 ∧ cvtLegal 0 4 = true ∧ mxCode 6 = true ∧ mxCode 4 = true ∧
    (match fp32.dec false 0 with
      | .fin _ m _ => m
      | _ => 1) = 0 ∧ (fp32.dec false 0x7F800000).isFin = false := by and_intros <;> decide +kernel

theorem witness_o38_numbers : (fp32.dec false 0x3F800000).isFin = true ∧ (e2m1.dec false 15).isFin = true ∧
    (e5m2.dec false 0x7B).isFin = true ∧ 0x3F800000 < 2 * fp32.sgn ∧ 15 < 2 * e2m1.sgn := by and_intros <;> decide +kernel

theorem witness_o40_records : (me tPend).mrow.pend = true ∧ (me tPend).mrow.busy = false ∧ glazeArgs 0x10009 = some (false, 1, 9) ∧
    glazeArgs 0x80000000 = some (true, 0, 0) ∧ glazeArgs 9 = some (false, 0, 9) ∧ glazeArgs 0x1000200 = none ∧
    glazeArgs 0x2000000 = some (false, 512, 0) ∧ unitBusy 0 tG = false ∧ okE (load 0x30000 32 tG) = true ∧
    glazeBad (leNat ((readCells tG.mem 0x30000 32).take 32)) = false ∧ okE (load 0x30000 80 tG) = true ∧
    pairOk 15 0 = false := by and_intros <;> decide +kernel

/-- A shape record at 0x3_0000 of one BF16 element at 0x3_1000, named for both operands; target bank 2; m0 to m7 of a
call of one row, one column, depth one. -/
def tMc (m7 : Nat) : State := tM 0x30000 (leBytes 8 0x31000 ++ leBytes 8 0x100000001 ++ leBytes 8 0x100000002 ++ leBytes 8 0x10001)
  (tq (fun x => { x with m := [(0, 0x30000), (1, 0x30000), (2, 0x10000), (3, 0x100010001), (4, 0x11), (7, BitVec.ofNat 64 m7)] }) tAcc)

/-- Whether a check of Table 6.2 answers a call, an empty one, or a trap. -/
def callOf (n : Nat) (s : State) : Option (Option (Option Nat)) :=
  match prepare n (params s) s with
  | .ok (some c, _) => some (some (some c.idx))
  | .ok (none, _) => some (some none)
  | .error (c, _) => some (if c = 0x0C then none else some none)

theorem witness_o40_calls : callOf 7 (tMc 0) = some (some (some 7)) ∧ callOf 7 (tMc 0x10000) = some (some none) ∧
    callOf 7 (tM 0x30014 [2] (tMc 0)) = some none ∧ (me (tMc 0)).mrow.busy = false ∧ (me (tMc 0)).mrow.pend = false ∧
    (seqAt 0 (nx (.mcall 0 7) (tMc 0))).bun.mcall.isSome = true ∧ (seqAt 0 (nx (.mcall 0 7) (tMc 0))).bun.stores = [] ∧
    (seqAt 0 (nx (.mcall 0 7) (tMc 0))).bun.ctl = .none := by and_intros <;> decide +kernel

/-- The call with parameter `i` changed, and the trap that Table 6.2 answers. -/
def tPar (i v : Nat) (s : State) : State := tq (fun x => { x with m := put 0 i (BitVec.ofNat 64 v) x.m }) s
def rowTrap (n : Nat) (s : State) : Option (Nat × Nat) :=
  match prepare n (params s) s with
  | .ok _ => none
  | .error e => some e

/-- A table of no group for routine 0x018. -/
theorem witness_o40_reads : okE (readTensor 0x30000 (tMc 0)) = true ∧ okE (readTable false 0 (tMc 0)) = true ∧
    okE (readTable true 0x30100 (tMc 0)) = true ∧ okE (load 0x40000000 32 (tMc 0)) = false ∧ okE (readTable true 0x40000000 (tMc 0)) = false ∧
    pairOk 1 1 = true := by and_intros <;> decide +kernel

/-- The rows of Table 6.2 in their order: the pair, a record that cannot be read, its format, its base, the core of DST,
the odd bank of a pair, a bank not owned, extents, no group, a wrapping stride. -/
theorem test_rows_of_6_2 : rowTrap 7 (tPar 4 0xC11 (tMc 0)) = some (0x0C, 1) ∧ rowTrap 7 (tPar 0 0x40000000 (tMc 0)) = some (0x08, 0x40000000) ∧
    rowTrap 7 (tM 0x30014 [2] (tMc 0)) = some (0x0C, 3) ∧ rowTrap 7 (tM 0x30000 [1] (tMc 0)) = some (0x0B, 0x31001) ∧
    rowTrap 7 (tPar 2 0x210000 (tMc 0)) = some (0x0C, 5) ∧ rowTrap 7 (tPar 2 0x18000 (tPar 4 0x811 (tMc 0))) = some (0x0C, 6) ∧
    rowTrap 7 (tPar 2 0x28000 (tMc 0)) = some (0x0E, 0x28000) ∧ rowTrap 7 (tPar 3 0x100020001 (tMc 0)) = some (0x0C, 9) ∧
    rowTrap 0x018 (tPar 6 0x30100 (tMc 0)) = some (0x0C, 10) ∧ rowTrap 7 (tM 0x30010 [0, 0, 0, 0, 1, 1] (tMc 0)) = some (0x0C, 11) ∧
    rowTrap 0x018 (tPar 4 0x87A (tPar 6 0x30100 (tM 0x30014 [10] (tPar 1 0x30040 (tM 0x30054 [7] (tMc 0)))))) = some (0x0C, 6) := by
  and_intros <;> decide +kernel

/-- A call is handed over at its bundle's commit, not before; one with M no more than m7 is empty (R125, Table 6.2). -/
theorem test_hand_off : (me (nx (.mcall 0 7) (tMc 0))).mrow.busy = false ∧
    (me (commitEffects 0 (nx (.mcall 0 7) (tMc 0)))).mrow.busy = true ∧
    (coreAt 0 (commitEffects 0 (nx (.mcall 0 7) (tMc 0)))).mq.length = 1 ∧
    (me (nx (.mcall 0 7) (tMc 0x10000))).bun.mcall = none := by and_intros <;> decide +kernel

/-- A matrix call in core 0's unit at its first word, and past its last; another handed over. -/
def tCall : MCall := ⟨0, .u, 7, [], none, none, []⟩
def tUnit : State := modCore 0 (fun c => { c with mrun := some (.start tCall) }) tBusy
def tEnd : State := modCore 0 (fun c => { c with mrun := some { MRun.start tCall with word := 512, flags := 1 } }) tBusy
def tNext : State := modCore 0 (fun c => { c with mq := [tCall] }) tBusy
def tMF : State := tq (fun x => { x with mfault := [⟨0x0C, 5, 1⟩] }) tU

theorem witness_o41_unit : (coreAt 0 tNext).mrun = none ∧ (coreAt 0 tNext).mq = tCall :: [] ∧ (MRun.start tCall).word < 512 ∧
    (coreAt 0 tEnd).mrun.isSome = true ∧ mayDeliver 0 tMF = true := by and_intros <;> decide +kernel

theorem test_matrix_events : goes (.matrixCallStart 0) tNext = true ∧ goes (.glazeStep 0) tUnit = true ∧
    (seqAt 0 (nx (.matrixCallComplete 0) tEnd)).mrow.busy = false ∧ (seqAt 0 (nx (.matrixCallComplete 0) tEnd)).fflags = 1 ∧
    (seqAt 0 (nx (.matrixFaultDelivery 0) tMF)).tcause = 0x0C ∧ (seqAt 0 (nx (.matrixFaultDelivery 0) tMF)).tval = 5 ∧
    (seqAt 0 (nx (.matrixFaultDelivery 0) tMF)).pc = 0x20300 := by and_intros <;> decide +kernel

/-- At a BAR that it has arrived at, the trap is taken at the next bundle, and the barrier holds again after ERET (R96, R130). -/
theorem test_fault_at_barrier : let s := tq (fun x => { x with hold := .bar 0 1 1 }) tMF
    mayDeliver 0 s = true ∧ (seqAt 0 (nx (.matrixFaultDelivery 0) s)).taddr.toNat = (seqAt 0 tU).pc.toNat ∧
    (seqAt 0 (nx (.matrixFaultDelivery 0) s)).uhold = .bar 0 1 1 := by and_intros <;> decide +kernel

theorem witness_o42_banks : find 0 (coreAt 0 tAcc).bands = none ∧ freeRun (coreAt 0 tAcc) 1 = some 0 ∧
    freeRun (coreAt 0 tAcc) 61 = none ∧ ownedBy (coreAt 0 tAcc) (ownNumber tAcc) 2 = true ∧
    ownedBy (coreAt 0 tAcc) (ownNumber tAcc) 5 = false ∧ (sreg 2 tAcc).toNat < 2 ^ 24 := by and_intros <;> decide +kernel

/-- Bank 2, INT32, of owner 0, paired with bank 3. -/
def tPair : State := modCore 0 (fun c => { c with bands := [(2, ⟨0, true, true⟩), (3, ⟨0, true, true⟩)] }) tAcc

theorem witness_o42_limits : (find 3 (coreAt 0 tPair).bands).isSome = true ∧ (find (3 - 3 % 2) (coreAt 0 tPair).bands).isSome = true ∧
    2 ^ 24 ≤ (sreg 7 (tS [(7, 0x1000000)] tPair)).toNat ∧ 64 < 63 + (sreg 5 tPair).toNat ∧ sreg 4 tPair = 0 ∧
    15 < (sreg 8 (tS [(8, 16)] tPair)).toNat := by and_intros <;> decide +kernel

/-- AOWN has PAIRED in bit 9, KIND in bit 8 and the owner below (Table 6.11); the ranges of R141. -/
theorem test_owner : outs (.aown 0 9 2) tPair = [(.s 9, 0x300, 1, true)] ∧ trapOf (.aown 0 9 7) (tS [(7, 0x1000000)] tPair) = some (0x0C, 0x1000000) ∧
    trapOf (.aclr 0 7 5) (tS [(7, 0x1F8000)] tPair) = some (0x0C, 0x1F8000) ∧
    trapOf (.aband 0 2 8) (tS [(8, 16)] tPair) = some (0x0C, 0x10404) ∧ goes (.afree 0 2 4) tPair = true := by and_intros <;> decide +kernel

theorem witness_o43_rows : (sreg 2 tAcc + sreg 4 tAcc).toNat / 2 ^ 15 % 64 = 2 ∧ (sreg 2 tAcc + sreg 4 tAcc).toNat % 1024 + 64 ≤ 1024 ∧
    find 2 (coreAt 0 tInt).bands = some ⟨0, true, false⟩ ∧ find 5 (coreAt 0 tInt).bands = none ∧ ownNumber tInt = 0 ∧
    find 2 (coreAt 0 (modCore 0 (fun c => { c with bands := [(2, ⟨9, true, false⟩)] }) tInt)).bands = some ⟨9, true, false⟩ ∧
    okE (drainRows (coreAt 0 tInt) (some ⟨0, true, false⟩) 9 2 4 2 0 [1] 0x30000 tInt) = true := by and_intros <;> decide +kernel

theorem witness_o44_relation : (∀ i, domOk (dom [(0, ⟨3, 9, some 0x7F⟩), (1, ⟨1, 2, some 3⟩)] i)) ∧
    (dom [(0, ⟨3, 9, some 0x7F⟩), (1, ⟨1, 2, some 3⟩)] 0).has 9 = true ∧
    Rel.holds ⟨0, 2, 0, 1⟩ (fun i => match i with
      | 0 => 9
      | 1 => 2
      | _ => 11) := by
  refine ⟨fun i => ?_, by decide +kernel, by simp [Rel.holds]⟩
  match i with
  | 0 => simp [dom, look, domOk]
  | 1 => simp [dom, look, domOk]
  | n + 2 => simp [dom, look, domOk, Dom.full]

theorem witness_o45_relations : okE ((Rel.mk 0 2 0 1).exec (me tDom).dom.doms) = true ∧
    okE ((Rel.mk 2 0 0 1).exec (me tDom).dom.doms) = false ∧ (me tDom).dom.standing.length < 64 ∧
    64 ≤ (me (modDom (fun u => { u with standing := List.replicate 64 0 }) tDom)).dom.standing.length ∧
    (2 ≤ (8 : BitVec 5).toNat ∧ (8 : BitVec 5).toNat ≤ 8 ∧ (24 : BitVec 5).toNat + (8 : BitVec 5).toNat ≤ 32) := by
  and_intros <;> decide +kernel

theorem test_full_table : trapOf (.dadd 0 2 0 1 1) (modDom (fun u => { u with standing := List.replicate 64 0 }) tDom) = some (0x11, 3) := by
  decide +kernel

theorem witness_o46_domains : marksOf [0] 64 (me tDom).dom.standing 0 = 0 ∧ Dom.span 3 9 = some ⟨3, 9, some 0x7F⟩ ∧
    (dom (me tDom).dom.doms 0).cut (.iv 5 5) = some ⟨5, 5, some 1⟩ ∧ (dom (me tDom).dom.doms 0).cut (.without 3) = some ⟨4, 9, some 0x3F⟩ ∧
    (dom (me tDom).dom.doms 0).cut (.without 20) = some (dom (me tDom).dom.doms 0) ∧ (me tCk).dom.ckpts.length < 16 ∧
    (me tCk).dom.ckpts ≠ [] ∧ (me tDom).dom.ckpts = [] := by and_intros <;> decide +kernel

/-- The same with d2 = d0 + d1 standing: a narrower d0 wakes it. -/
def tStand : State := nx (.dadd 0 2 0 1 1) tDom

theorem witness_o46_standing : marksOf [0] 64 (me tStand).dom.standing 0 = 1 ∧ (dom (me tStand).dom.doms 0).cut (.iv 5 5) = some ⟨5, 5, some 1⟩ ∧
    (⟨5, 5, some 1⟩ : Dom) ≠ dom (me tStand).dom.doms 0 ∧
    okE (propagate (me tStand).dom.standing 4096 1 (put Dom.full 0 ⟨5, 5, some 1⟩ (me tStand).dom.doms) 0) = true ∧
    okE (propagate (me tStand).dom.standing 4096 1 (put Dom.full 0 ⟨50, 50, some 1⟩ (me tStand).dom.doms) 0) = false ∧
    Dom.span 50 50 = some ⟨50, 50, some 1⟩ ∧ (dom (me tDom).dom.doms 0).has 20 = false ∧
    domOk (⟨5, 5, some 1⟩ : Dom) := by
  refine ⟨?_, ?_, ?_, ?_, ?_, ?_, ?_, by simp [domOk]⟩ <;> decide +kernel

/-- DSETV of d0 narrows d2 through the standing entry; DSETS of d0 to 50 finds d2 empty, in entry 0 (R254). -/
theorem test_standing : bnd (.dsetv 0 0 2) 2 tStand = (6, 7) ∧ trapOf (.dsets 0 0 4) (tS [(4, 0x3200000032)] tStand) = some (0x10, 0x0002) ∧
    trapOf (.dsetv 0 0 4) (tS [(4, 20)] tDom) = some (0x10, 0xFF00) ∧
    trapOf (.drem 0 0 2) (modDom (fun u => { u with doms := [(0, ⟨5, 5, some 1⟩)] }) tDom) = some (0x10, 0xFF00) := by
  and_intros <;> decide +kernel

/-- A front of POLICY TRAP that holds its one member (Table 17.3). -/
def tFull : State := nx (.fins 0 2 1 2) (nx (.fcfg 0 2 1) (tS [(1, 0x30101), (2, 1), (3, 13)] tFr))

theorem witness_o47_limits : 12 < (sreg 3 tFull).toNat ∧ (find 2 (coreAt 0 tFull).fronts).isSome = true ∧
    okE (Front.offer (tuples 1 (ofLanes 4 [1, 9, 0, 0, 1])) 0 ((frontAt 2 tFull).getD ⟨0, [], 0, 0⟩, 0)) = false := by
  and_intros <;> decide +kernel

theorem test_full_front : trapOf (.fins 0 2 1 3) tFull = some (0x0C, 13) ∧
    trapOf (.fins 0 2 1 2) (tV 4 [(1, [1, 9, 0, 0, 1])] tFull) = some (0x12, 2) ∧
    lane 4 5 (.fread 0 2 7 4) (tS [(4, 0)] tFull) = [(.v 7, 0, 1)] := by and_intros <;> decide +kernel

theorem witness_o47_fronts : frontOk 0x401 = true ∧ frontOk 1 = false ∧ (frontAt 2 tFr).isSome = true ∧ (frontAt 3 tFr).isNone = true ∧
    okE (Front.offer (tuples 3 (ofLanes 4 [5, 5, 0, 0, 1, 3, 9, 0, 0, 2, 6, 6, 0, 0, 3])) 0 (⟨0x401, [], 0, 0⟩, 0)) = true := by
  and_intros <;> decide +kernel

theorem witness_o48_arrivals : (Front.arrive ⟨0x401, [], 0, 0⟩ [5, 5] 1).isSome = true ∧
    (Front.arrive ⟨0x401, [⟨[5, 5], 1, 0⟩], 0, 1⟩ [6, 6] 1).isSome = true ∧
    (Front.mk 0x401 [⟨[5, 5], 1, 0⟩] 0 1).dominates ((Front.mk 0x401 [] 0 1).values [5, 5]) ((Front.mk 0x401 [] 0 1).values [6, 6]) = true := by
  and_intros <;> decide +kernel

theorem witness_o49_order : (me tC).mrow.busy = false ∧ copiesOf 0 tC = false ∧ (me tBusy).mrow.busy = true ∧
    (find (me tW).task tW.tasks).isSome = true ∧ okE (place (viewOf 0 tFu) tFu true true false false 0x30000) = true ∧
    cellBad (cellState 0x30000 tFu) = false ∧ cellState 0x30000 tFu % 4 = 1 ∧ cellState 0x30010 tFu % 4 ≠ 1 ∧
    cellBad (cellState 0x30000 (tM 0x30008 [3] tFu)) = true ∧ (me tFu).wait = .none ∧
    (me (tq (fun x => { x with wait := .future 0x30000 (some 7) }) tFu)).wait = .future 0x30000 (some 7) := by
  and_intros <;> decide +kernel

theorem witness_o49_cells : homeStops 0 (.phys 0x30000 .rc) 16 tFu = false ∧ tFu.upsets = [] ∧
    cellBad (cellState 0x30000 (marked false [] tFu)) = false ∧ cellBad (cellState 0x30000 (toHome 0 0x30000 16 (release 0 2 tFu))) = false ∧
    cellBad (cellState 0x30000 (toHome 0 0x30000 16 (release 0 2 (tM 0x30008 [3] tFu)))) = true ∧
    ((2 : BitVec 2).getLsbD 1 = true ∧ (me tBusy).mrow.busy = true) := by and_intros <;> decide +kernel

theorem test_future_woken : outs (.fwait 0 9 1) (tq (fun x => { x with wait := .future 0x30000 (some 7) }) tFu) = [(.s 9, 7, 1, true)] ∧
    trapOf (.fpoll 0 9 1) (tM 0x30008 [3] tFu) = some (0x0C, 0x30000) := by and_intros <;> decide +kernel

/-- A launch record: entry 0x1_0000, one group of one task, gang of one (Table 18.1). -/
def tRcd : List Byte := [0, 0, 1] ++ List.replicate 13 0 ++ [1, 1] ++ List.replicate 46 0

theorem witness_o50_records : okE (recordAt 0x30000 tW) = true ∧ (myLaunch tW).isSome = true ∧ (myLaunch tC).isNone = true ∧
    recOk tRcd = true ∧ recState tRcd = 0 ∧ recPipe tRcd = 0 ∧ recOk (List.replicate 64 0) = false ∧
    recState ((tRcd.take 48) ++ [1] ++ List.replicate 15 0) = 1 ∧ recState ((tRcd.take 48) ++ [2] ++ List.replicate 15 0) = 2 ∧
    quotaFits 0 0 (recQcost tRcd) tW = true := by and_intros <;> decide +kernel

/-- A record at 0x3_0000 for the task of a launch. -/
def tLau (l : List Byte) : State := tM 0x30000 l (tS [(1, 0x30000)] tW)

theorem witness_o50_launch : okE (place (viewOf 0 (tLau tRcd)) (tLau tRcd) true false false false 0x30000) = true ∧
    homeStops 0 (.phys 0x30000 .rc) 64 (tLau tRcd) = false ∧ (sreg 1 (tLau tRcd)).toNat % 64 = 0 ∧ (myLaunch (tLau tRcd)).isSome = true ∧
    (me (tLau tRcd)).mrow.busy = false ∧ recDep tRcd = false ∧ recDep (tRcd.take 40 ++ [2] ++ List.replicate 23 0) = true := by
  and_intros <;> decide +kernel

/-- The launch's stream at 0x6_2000 has no quota, and its task lends a charge of 9. -/
def tQuo (q : Nat) (l : List Byte) : State := tM 0x62020 [BitVec.ofNat 8 q] { tLau l with launches := [(1, { tLaunch with qcb := 0x62000, dcap := 9 })] }

theorem witness_o50_quota : quotaFits 0 0x62000 5 (tQuo 4 tRcd) = false ∧ quotaFits 0 0x62000 5 (tQuo 5 tRcd) = true ∧
    ((myLaunch (tQuo 4 tRcd)).map fun l => l.dcap) = some 9 := by and_intros <;> decide +kernel

/-- LAUNCH of a good record, of one that runs, of a bad one; CWAIT of one that runs, and of one that has ended. -/
theorem test_launch_answers : outs (.launch 0 4 1) (tLau tRcd) = [(.s 4, 0, 1, true)] ∧
    (nx (.launch 0 4 1) (tLau tRcd)).launches.length = (tLau tRcd).launches.length + 1 ∧
    outs (.launch 0 4 1) (tLau (tRcd.take 48 ++ [1])) = [(.s 4, 4, 1, true)] ∧ outs (.launch 0 4 1) (tLau []) = [(.s 4, 2, 1, true)] ∧
    waits (.cwait 0 4 1) (tLau (tRcd.take 48 ++ [1])) = true ∧ outs (.cwait 0 4 1) (tLau (tRcd.take 48 ++ [2])) = [(.s 4, 2, 1, true)] := by
  and_intros <;> decide +kernel

/-- CWAIT beside an ATST of its bundle gives the status before it (R29, R188). -/
theorem test_status_before_atomic : outs (.cwait 0 4 1) (tq (fun x => { x with bun := { x.bun with
      undo := [⟨.phys 0x30034 .rc, [1, 0, 0, 0], 2⟩] } }) (tLau (tRcd.take 48 ++ [2, 0, 0, 0, 7]))) =
    [(.s 4, 2 + 2 ^ 32, 1, true)] := by decide +kernel

theorem witness_o50_queues : (queueOf 0x50000 tQ) = some (3, 0) ∧ (queueOf 0x60000 tQ).isNone = true ∧
    (pipeAt 3 tQ).source 0 = none ∧ (pipeAt 3 tQ).sink 0 = none ∧ (queueAt 3 0 tQ).elems.length < (queueAt 3 0 tQ).cap ∧
    (queueAt 3 0 (nx (.qpush 0 1 1) tQ)).cap ≤ (queueAt 3 0 (nx (.qpush 0 1 1) tQ)).elems.length ∧ grantHeld 3 0 tQ = false ∧
    headOf 0 (queueAt 3 0 tQ).elems = some 0 ∧ headOf 0 [] = none := by and_intros <;> decide +kernel

/-- A stage task of a pipeline whose stage 0 reads queue 0 and writes queue 1. -/
def tSt : State := { tQ with
  tasks := [(0, { tTask with stage := some ⟨3, 0, 0, 0, [9, 0, 0, 0, 0, 0, 0, 0], false⟩ })]
  pipes := [(3, { pipeAt 3 tQ with stages := [⟨0x10000, 1, 1, 0, 1, [1], [some 1], []⟩], queues := [queueAt 3 0 tQ, ⟨0x70000, 2, 8, 2, 0, [], 0, 0⟩] })] }

theorem witness_o50_stages : (pipeAt 3 tSt).sink 0 = some 0 ∧ (pipeAt 3 tSt).source 1 = some 0 ∧ (myStage 3 tSt).isSome = true ∧
    lowerLive 3 0 0 tSt = false := by and_intros <;> decide +kernel

theorem test_stage_queues : lane 8 0 (.qpop 0 4 1) tSt = [(.v 4, 9, 1)] ∧
    (queueAt 3 1 (nx (.qpush 0 1 2) (tS [(2, 0x70000)] tSt))).elems.map (fun e => e.sn) = [0] := by and_intros <;> decide +kernel

/-! ### Events -/

/-- The access slots of the newer bundle have executed, so the execute slots of the older one have (R205, R225). -/
theorem test_queues_keep_order : let s := tq (fun x => { x with flight := [Bun.none, { Bun.none with need := 1 }], accLag := 2, exLag := 2 }) tU
    (seqAt 0 (settleQueues 0 2 2 s)).exLag = 2 ∧ (seqAt 0 (settleQueues 0 0 2 s)).exLag = 1 ∧
    (seqAt 0 (settleQueues 0 0 2 s)).flight.length = 1 := by and_intros <;> decide +kernel

theorem witness_o51_sequencer : mayDispatch 0 tU = true ∧ okE (dispatch 0 (fetched 0 tU)) = true ∧
    okE (dispatch 0 (fetched 0 (tq (fun x => { x with pc := 0x10004 }) tU))) = false ∧ (seqAt 0 tRun).bun.words ≠ [] ∧
    16 ≤ (coreAt 0 (modCore 0 (fun c => { c with refused := 16 }) { tU with seqs := upd 1 (seqAt 0 tU) tU.seqs })).refused ∧
    mayDispatch 1 (modCore 0 (fun c => { c with refused := 16 }) { tU with seqs := upd 1 (seqAt 0 tU) tU.seqs }) = true ∧
    (let x := seqAt 0 (tq (fun x => { x with flight := [Bun.none], exLag := 1 }) tU)
     x.bun.words = [] ∧ x.flight = [Bun.none] ∧ max x.accLag x.exLag = x.flight.length ∧ x.exLag ≤ exLimit x.accLag x.flight) ∧
    (seqAt 0 (tq (fun x => { x with pause := 9 }) tU)).pause ≠ 0 ∧
    (trapDue 0 (tq (fun x => { x with pc := 0x10004 }) tU)) = some (0x0B, 0x10004, 0x10004) ∧
    (seqAt 0 (nx (.div 0 3 1 2) tA)).inflight.length = 1 := by and_intros <;> decide +kernel

theorem test_sequencer_events : goes (.bundleDispatch 0) tU = true ∧ (seqAt 0 (nx (.bundleCommit 0) tRun)).pc = 0x10010 ∧
    (coreAt 0 (nx (.sequencer1StarvationIssue 0) (modCore 0 (fun c => { c with refused := 16 }) { tU with seqs := upd 1 (seqAt 0 tU) tU.seqs }))).starved = true ∧
    (seqAt 0 (nx (.bundleCommit 0) (tq (fun x => { x with flight := [{ Bun.none with flags := 4 }], exLag := 1 }) tU))).fflags = 4 ∧
    (seqAt 0 (nx (.pauseHoldEnd 0) (tq (fun x => { x with pause := 9 }) tU))).pause = 0 ∧
    (seqAt 0 (nx (.trapEntry 0 0x0B 0x10004) (tq (fun x => { x with pc := 0x10004 }) tU))).pc = 0x202C0 ∧
    (seqAt 0 (nx (.accessPerformed 0) (nx (.divu 0 3 1 2) tA))).rs 3 = 0x5555555555555553 := by and_intros <;> decide +kernel

/-- A task that stands at its landing, with a request, with sources 1 and 2, and in a loop whose end is 0x1_0020. -/
def tLand (pre : Bool) (src : BitVec 3) : State := tq (fun x => { x with preq := pre, pirq := src, land := .now }) tU
def tInLoop : Seq := { seqAt 0 tU with preq := true, loops := [⟨0x10000, 0x10020, 9, 0, 0⟩] }

theorem witness_o52_interrupts : (seqAt 0 tU).run = .running ∧ (seqAt 0 tU).preq = false ∧ (seqAt 0 tU).halt = false ∧
    atBoundary 0 (tLand true 0) = true ∧ atBoundary 0 (tLand false 6) = true ∧ (seqAt 0 (tLand false 6)).pirq ≠ 0 ∧
    tInLoop.mode = .u ∧ tInLoop.pending = true ∧ tInLoop.loop = some ⟨0x10000, 0x10020, 9, 0, 0⟩ ∧ tInLoop.wait.lands = false ∧
    ({ tInLoop with loops := [] }).loop = none ∧ ({ tInLoop with wait := .retry }).wait.lands = true ∧
    tInLoop.hold.isBar = false := by and_intros <;> decide +kernel

theorem test_landing : tInLoop.landing = .loop 0x10020 ∧ ({ tInLoop with wait := .retry }).landing = .now ∧
    ({ tInLoop with preq := false, pirq := 1 }).landing = .now ∧ ({ tInLoop with loops := [], wait := .busy }).landing = .next ∧
    landMark tInLoop { tInLoop with land := .next } = .now ∧ landMark tInLoop { tInLoop with land := .loop 0x10020 } = .loop 0x10020 ∧
    landMark tInLoop { tInLoop with land := .loop 0x10020, loops := [] } = .now ∧ mayDispatch 0 (tLand true 0) = false := by
  and_intros <;> decide +kernel

theorem test_interrupts : (seqAt 0 (nx (.preemptionRequest 0) tU)).land = .now ∧ (seqAt 0 (nx (.interrupt 0 2) tU)).pirq = 4 ∧
    (seqAt 0 (nx (.preemptionLanding 0) (tLand false 6))).tcause = 0x21 ∧
    (seqAt 0 (nx (.preemptionLanding 0) (tLand false 6))).tval = 1 ∧
    (seqAt 0 (nx (.preemptionLanding 0) (tLand true 6))).tcause = 0x20 ∧
    (seqAt 0 (nx (.preemptionFreeze 0) (tq (fun x => { x with preq := true, freeze := 65536, land := .loop 0x10020 }) tU))).land = .now := by
  and_intros <;> decide +kernel

/-- A copy of one element waiting, and one running that has not begun, on channel 2 of core 0. -/
def tCopy : Copy := ⟨1, 0, 0, 0, .u, 0x40000, 0, 0, none, []⟩
def tWait : State := modCore 0 (fun c => { c with chans := [(2, { Chan.init with last := 1, queue := [tCopy] })] }) tU
def tGo : State := nx (.copyStart 0 2) tWait
def tStop : State := modCore 0 (fun c => { c with chans := [(2, { Chan.init with last := 1, run := (look Chan.init 2 (coreAt 0 tGo).chans).run.map fun r => { r with stop := true } })] }) tGo

theorem witness_o53_copies : (look Chan.init 2 (coreAt 0 tWait).chans).run = none ∧ matrixBusy 0 tWait = false ∧
    ((look Chan.init 2 (coreAt 0 tGo).chans).run.isSome = true) ∧
    ((look Chan.init 2 (coreAt 0 tStop).chans).run.map copyOver) = some true := by and_intros <;> decide +kernel

theorem test_copies : (look Chan.init 2 (coreAt 0 (nx (.copyComplete 0 2) tStop)).chans).done = 1 ∧
    (seqAt 0 (nx (.copyComplete 0 2) tStop)).evt.getLsbD 0 = true := by and_intros <;> decide +kernel

/-- A TLBINV that waits for no copy; control registers about to be written at a commit. -/
def tInv : State :=
  let s := tq (fun x => { x with tlb := true }) tU
  { s with sags := upd 0 { sagAt 0 s with invals := [⟨some 0, []⟩] } s.sags }
/-- The same, a store of sequencer 0 in its queues. -/
def tInvF : State := tq (fun x => { x with flight := [{ Bun.none with stores := [⟨.phys 0x30000 .so, [7], 0⟩] }], accLag := 1 }) tInv
def tCw (i : Nat) (v : Word) : State := tq (fun x => { x with bun := { x.bun with words := [0#32], ctl := .csr i .w v } }) tU

theorem witness_o54_core : ((sagAt 0 tInv).invals.map fun i => i.settled tInv) = [true] ∧ writesCsr 0 0x040 0 (tCw 0x040 0) = true ∧
    rolesOk 0 = true ∧ copiesRun 0 tU = false ∧ writesCsr 0 0x012 2112 (tCw 0x012 2112) = true ∧ vwbOk 0 2112 (tCw 0x012 2112) = true ∧
    (csrNew .w (tcauseWord (seqAt 0 tU)) 0).getLsbD 62 = false ∧ (find 0x600 (coreAt 0 tLine).l1).isSome = true ∧
    ((find 0x600 (coreAt 0 (modCore 0 (fun c => { c with l1 := [(0x600, ⟨3, 0, 0⟩)] }) tD)).l1).map fun l => l.dirty) = some 0 := by
  and_intros <;> decide +kernel

theorem witness_o54_queues : (seqAt 0 tInvF).sagid.toNat = 0 ∧ (∀ p ∈ tInv.seqs, p.2.flight = []) ∧ (find 0 tInv.sags).isSome = true := by
  and_intros <;> decide +kernel

theorem test_core_events : (seqAt 0 (nx (.tlbInvalidationAck 0) tInv)).tlb = false ∧ byteAt 0x30000 (nx (.tlbInvalidationAck 0) tInvF) = 7 ∧
    (sagAt 0 (nx (.stage2Invalidation 0) tU)).invals.length = 1 ∧ (coreAt 0 (nx (.bankroleWrite 0 5) (tCw 0x040 5))).bankrole = 5 ∧
    (seqAt 0 (nx (.vwbWrite 0 2112) (tCw 0x012 2112))).vwb = 2112 ∧
    (seqAt 0 (nx (.tcauseLatchDiscard 0) (tq (fun x => { x with latches := [⟨.s 3, 1, 1, false⟩] }) (tCw 0x021 0)))).latches = [] ∧
    byteAt 0x30000 (nx (.l1WriteBackOrDrop 0 0x600 true) tLine) = 1 := by and_intros <;> decide +kernel

/-- Saggar 0's kiln control block at 0x6_0000 with four context areas; a launch of one task waits. -/
def tKil : State :=
  let s := tM 0x60030 [4] tU
  { s with sags := upd 0 { sagAt 0 s with kcb := 0x60000 } s.sags, launches := [(1, { tLaunch with next := 0, running := 0 })] }

theorem witness_o55_placement : (match nextPlacement 0 tKil with
      | some (.gang ln n _ _) => some (ln, n)
      | _ => none) = some (1, 0) ∧
    (nextReservation 0 { tM 0x60030 [0] tKil with phys := 2 ^ 30 }).map (fun p => (p.1, p.2.1)) = some (1, 0) ∧
    (freeAreas 0 1 tKil) = [0] := by and_intros <;> decide +kernel

theorem test_placement : goes (.gangPlacement 0 1 0) tKil = true ∧ (nx (.gangPlacement 0 1 0) tKil).tasks.length = 1 := by
  and_intros <;> decide +kernel

theorem witness_o55_commands : kilnCmd 0 (tM 0x60038 [1] tKil) = 1 ∧ kilnCmd 0 (tM 0x60038 [2] tKil) = 2 ∧
    kilnCmd 0 (tM 0x60038 [3] tKil) = 3 ∧ kilnCmd 0 (tM 0x60038 [4] tKil) = 4 ∧ kilnCmd 0 (tM 0x60038 [5] tKil) = 5 := by
  and_intros <;> decide +kernel

/-- Command 2 with its ARG a launch's record, command 4 with a command stream's pipeline, command 3 with an image that can
be read and one that cannot; the launch's task on sequencer 0. -/
def tArg (c a : Nat) (s : State) : State := tM 0x60038 [BitVec.ofNat 8 c] (tM 0x60040 (leBytes 8 a) s)
def tStrP : State := { tKil with launches := [(1, { tLaunch with stream := true, pipe := some 3 })]
                                 pipes := tQ.pipes }
def tOn : State := { tKil with launches := [(1, tLaunch)], tasks := [(0, tTask)] }

theorem witness_o55_args : ((launchAt 0 (kcbWord 0 64 (tArg 2 0x40000 tOn)) (tArg 2 0x40000 tOn)).map fun p => p.1) = some 1 ∧
    (launchAt 0 (kcbWord 0 64 (tArg 2 0x40040 tOn)) (tArg 2 0x40040 tOn)).isNone = true ∧
    streamPipe 0 (kcbWord 0 64 (tArg 4 0x40000 tStrP)) (tArg 4 0x40000 tStrP) = some 3 ∧
    streamPipe 0 (kcbWord 0 64 (tArg 4 0x40000 tOn)) (tArg 4 0x40000 tOn) = none ∧
    (agentRead 0 0 (kcbWord 0 64 (tArg 3 0x40000 tOn)) 64 (tArg 3 0x40000 tOn)).isSome = true ∧
    (agentRead 0 0 (kcbWord 0 64 (tArg 3 0x40000000 tOn)) 64 (tArg 3 0x40000000 tOn)).isNone = true ∧
    ((find 0 tOn.tasks).map fun k => k.on) = some (some 0) := by and_intros <;> decide +kernel

theorem test_cancel : kcbWord 0 72 (nx (.kilnCancelLaunch 0) (tArg 2 0x40000 tOn)) = 2 ^ 63 ∧
    (seqAt 0 (nx (.kilnCancelLaunch 0) (tArg 2 0x40000 tOn))).run = .off ∧ (nx (.kilnCancelLaunch 0) (tArg 2 0x40000 tOn)).launches = [] ∧
    kcbWord 0 72 (nx (.kilnClosePipeline 0) (tArg 4 0x40000 tStrP)) = 2 ^ 63 ∧
    ((find 3 (nx (.kilnClosePipeline 0) (tArg 4 0x40000 tStrP)).pipes).map fun p => p.closed).getD true = true := by
  and_intros <;> decide +kernel

theorem test_commands : kilnCmd 0 (nx (.kilnRescanStreams 0) (tM 0x60038 [1] tKil)) = 0 ∧
    kcbWord 0 72 (nx (.kilnRescanStreams 0) (tM 0x60038 [1] tKil)) = 2 ^ 63 ∧
    kcbWord 0 72 (nx (.kilnCancelLaunch 0) (tM 0x60038 [2] tKil)) = 2 ^ 63 + 2 ∧
    kcbWord 0 72 (nx (.kilnClosePipeline 0) (tM 0x60038 [4] tKil)) = 2 ^ 63 + 2 := by and_intros <;> decide +kernel

theorem witness_o55_probes : reaches (3, 0) tQ (queueCount tQ) [(3, 0)] = false ∧ (find 3 tQ.pipes).isSome = true ∧ (pipeAt 3 tQ).det = false ∧
    (seqAt 0 (tq (fun x => { x with wait := .qpush 3 0 false false 4096 }) tQ)).wait = .qpush 3 0 false false 4096 ∧
    ({ tQ with probes := [⟨3, 0, 0, 65536, false⟩] }).probes[0]? = some ⟨3, 0, 0, 65536, false⟩ := by and_intros <;> decide +kernel

theorem test_probes : goes (.probeSend 0) (tq (fun x => { x with wait := .qpush 3 0 false false 4096 }) tQ) = true ∧
    (nx (.probeDrop 0) { tQ with probes := [⟨3, 0, 0, 65536, false⟩] }).probes = [] ∧ goes (.freeModeRebalance 3) tQ = true := by
  and_intros <;> decide +kernel

/-- A template of four bytes from 0x3_0000 to 0x4_0000, and its copy at its first element, and past its last. -/
def tTmpl (flags : Nat) (dst : Nat) : BitVec 512 :=
  BitVec.ofNat 512 (0x30000 + 2 ^ 64 * dst + 2 ^ 128 * 0x0001000100010004 + 2 ^ 448 * flags)
def tRunAt (pos flags dst : Nat) : CRun := ⟨{ tCopy with tmem := tU.mem }, tTmpl flags dst, pos, 0, 0, false, 0, 0, [], false, none⟩
def tCopying (r : CRun) : State := modCore 0 (fun c => { c with chans := [(2, { Chan.init with last := 1, run := some r })] }) tD

theorem witness_o53_elements : (tRunAt 0 0 0x40000).stop = false ∧ (tRunAt 0 0 0x40000).rem = none ∧
    0 < tTotal (tRunAt 0 0 0x40000).tmpl ∧ tTotal (tTmpl 0 0x40000) = 4 ∧ copyOver (tRunAt 4 0 0x40000) = true ∧
    (tRunAt 4 0 0x40000).copy.fill = none ∧
    copyOver { tRunAt 4 0 0x40000 with copy := { tCopy with fill := some ⟨1, 0, 0, 0⟩ } } = true ∧
    passDue (tRunAt 4 0x2000 0x10000) = true ∧ find (accBank 0 (tTmpl 0x2000 0x10000)).2 (coreAt 0 tD).bands = none ∧
    unitWrites 0 2 0 (modCore 0 (fun c => { c with mrun := some (MRun.start tCall) }) tD) = false := by and_intros <;> decide +kernel

/-- A source read that leads to no page for the destination, and an add-on-write off its 4 bytes. -/
theorem witness_o53_errors : okE (elemRead 0 (tRunAt 0 0 0x40000000) 0 tD) = true ∧
    okE (elemWrite 0 (tRunAt 0 0 0x40000000) 0 (leBytes 1 5) tD) = false ∧ okE (accOffset (tTmpl 0x2000 0x10000) 1) = false ∧
    okE (accOffset (tTmpl 0x2000 0x10000) 0) = true := by and_intros <;> decide +kernel

/-- The error of a table's line stops a copy with ERR 0x18 under the stop policy; else the copy has no translation (R178). -/
theorem test_copy_tables : let ln := ((tableSees (copyView 0 (tRunAt 0 0 0).copy tD) 0x30000).headD 0) / 128
    let err := fun (s : State) => match copyRead 0 (tRunAt 0 0 0).copy 0x30000 4 { s with upsets := [⟨ln, true, 0, 1000⟩] } with
      | .ok _ => (0, 0, 0)
      | .error e => (e.1, (coreAt 0 e.2).errcnt.toNat, e.2.upsets.length)
    err tUpStop = (0x18, 0, 1) ∧ err tD = (0x08, 0x10000, 0) := by and_intros <;> decide +kernel

/-- The four bytes of the row arrive together. -/
theorem test_element : byteAt 0x40000 (nx (.copyElementDelivery 0 2) (tCopying (tRunAt 0 0 0x40000))) = 0xF1 ∧
    ((look Chan.init 2 (coreAt 0 (nx (.copyElementDelivery 0 2) (tCopying (tRunAt 0 0 0x40000)))).chans).run.map fun r => r.pos) = some 4 ∧
    goes (.addOnWritePass 0 2 false) (tCopying (tRunAt 4 0x2000 0x10000)) = true ∧
    goes (.streamFillComplete 0 2) (tCopying { tRunAt 4 0 0x40000 with copy := { tCopy with fill := some ⟨1, 0, 0, 0⟩ } }) = true := by
  and_intros <;> decide +kernel

/-- Saggar 0 with one stream: QCB list at 0x6_1000, QCB at 0x6_2000, ring of 4 records at 0x6_3000, one record in it. -/
def tStr : State := tM 0x60000 (leBytes 8 0x61000 ++ [1]) <| tM 0x61000 (leBytes 8 0x62000) <|
  tM 0x62000 (leBytes 8 0x63000 ++ leBytes 8 4 ++ leBytes 8 0 ++ leBytes 8 1) <| tM 0x63000 tRcd tKil

theorem witness_o55_streams : nqcb 0 tStr = 1 ∧ (headStep 0 (ringAt 0 0 tStr) tStr).isSome = true ∧
    (sagAt 0 tStr).broken.contains 0 = false ∧ (ringAt 0 0 tStr).tail = 1 ∧ (ringAt 0 0 tStr).head = 0 ∧ (ringAt 0 0 tStr).cap = 4 := by
  and_intros <;> decide +kernel

/-- A ring of 4 with 5 records is overfull. -/
theorem witness_o55_broken : (ringAt 0 0 (tM 0x62018 [5] tStr)).tail = 5 ∧ (ringAt 0 0 (tM 0x62018 [5] tStr)).cap = 4 := by
  and_intros <;> decide +kernel

theorem test_broken_stream : (sagAt 0 (nx (.streamRecordAccept 0 0) (tM 0x62018 [5] tStr))).broken = [0] ∧
    bit (agentWord 0 0 0x62028 (nx (.streamRecordAccept 0 0) (tM 0x62018 [5] tStr))) 63 = true := by and_intros <;> decide +kernel

theorem test_stream : (nx (.streamRecordAccept 0 0) tStr).launches.length = 2 ∧
    (ringAt 0 0 (nx (.streamRecordAccept 0 0) tStr)).head = 1 := by and_intros <;> decide +kernel

/-- A task has yielded; its image is all zero, so that its window would clash beside sequencer 0. -/
def tYd : State := { tKil with tasks := [(0, { tTask with on := none, yielded := true, sid := 1 })], launches := [(1, tLaunch)] }

theorem witness_o55_restore : mayRestore 0 2 tYd = true ∧ outranked 0 2 tYd = false ∧ mayRestore 0 1 tYd = false := by and_intros <;> decide +kernel

theorem test_restore : (seqAt 2 (nx (.contextRestore 0 2) tYd)).run = .running := by decide +kernel

/-- A saved PC that is no bundle start (R285). -/
theorem test_restore_bad_start :
    (seqAt 2 (nx (.contextRestore 0 2) (tM 0 (leBytes 8 0x10020) tYd))).hold = .trap 0x0B 0x10020 0x10020 := by decide +kernel

/-- A pipeline whose stage 0 has the consumer at logical core 1, one element waiting. -/
def tPip : State := { tKil with launches := [(1, { tLaunch with pipe := some 3 })]
                                pipes := [(3, { pipeAt 3 tSt with queues := [⟨0x50000, 2, 8, 2, 0, [⟨0, [9, 0, 0, 0, 0, 0, 0, 0], none⟩], 1, 0⟩, ⟨0x70000, 2, 8, 2, 0, [], 0, 0⟩] })] }

theorem witness_o55_elements : (nextElement 3 0 tPip).isSome = true ∧ (find 3 tPip.pipes).isSome = true ∧
    (find (pipeAt 3 tPip).launch tPip.launches).isSome = true ∧ freeAreas 0 1 tPip = [0] ∧ nextElement 3 0 tPip = some (0, 0, 1) ∧
    ((queueAt 3 0 tPip).elems[0]?).isSome = true := by and_intros <;> decide +kernel

theorem test_delivery : (seqAt 2 (nx (.elementDelivery 3 0) tPip)).run = .running ∧ (seqAt 2 (nx (.elementDelivery 3 0) tPip)).pc = 0x10000 ∧
    (seqAt 2 (nx (.elementDelivery 3 0) tPip)).rs 1 = 0x50000 ∧ (nx (.elementDelivery 3 0) tPip).tasks.length = 1 ∧ (queueAt 3 0 (nx (.elementDelivery 3 0) tPip)).elems = [] := by
  and_intros <;> decide +kernel

/-- A ring of two stages: queue 0 feeds stage 0, which writes queue 0 again; its probe comes back. -/
def tLoop : State := { tPip with
  probes := [⟨3, 0, 0, 5, true⟩]
  pipes := [(3, { pipeAt 3 tPip with stages := [⟨0x10000, 1, 1, 0, 0, [1], [some 1], []⟩], queues := [⟨0x50000, 1, 8, 1, 0, [⟨0, [9], none⟩], 1, 0⟩] })]
  tasks := [(0, { tTask with stage := some ⟨3, 0, 0, 0, [9], true⟩ })]
  seqs := upd 0 { seqAt 0 tPip with wait := .qpush 3 0 false false 9, task := 0 } tPip.seqs }

theorem witness_o55_cycle : reaches (3, 0) tLoop (queueCount tLoop) [(3, 0)] = true ∧ reserveFree 3 0 tLoop = true ∧
    (queueAt 3 0 tLoop).cap ≤ (queueAt 3 0 tLoop).elems.length := by and_intros <;> decide +kernel

/-- A probe's branches go as the tasks stand when it is sent: a task that waits forwards it, one that runs ends it (R311). -/
theorem test_probe_branches : let s := tq (fun x => { x with wait := .qpush 3 0 false false 4096 }) { tLoop with probes := [] }
    ((nx (.probeSend 0) s).probes.map fun p => p.back) = [true] ∧ (me s).task = 0 := by and_intros <;> decide +kernel

theorem test_probe_return : (nx (.probeReturn 0) tLoop).probes = [] ∧
    (seqAt 0 (nx (.probeReturn 0) tLoop)).wait = .qpush 3 0 false true 0 := by and_intros <;> decide +kernel

/-- A slot table with entries 0 and 1 valid, for devices 0 and 1. -/
def tSlot : State :=
  let s := tM 0x68000 ([0x40] ++ List.replicate 7 0 ++ [0, 0, 1]) (tM 0x68010 ([0x41] ++ List.replicate 7 0 ++ [0, 0, 1]) tKil)
  { s with sags := upd 0 { sagAt 0 s with slotTab := 0x68000 } s.sags }

theorem witness_o55_slots : (curSlot 0 tSlot) = some (0, 0, 1) ∧ slotFrom 0 (sagAt 0 tSlot).slot tSlot = some 0 ∧
    slotFrom 0 1 tSlot = some 1 := by and_intros <;> decide +kernel

theorem test_slot_end : (sagAt 0 (nx (.slotEnd 0) tSlot)).slot = 1 := by decide +kernel

/-- Saggar 1 owns clusters 3 and 4, 4 of which is leaving, on a module that has booted. -/
def tSag : State := { startSaggar { tReq with clusters := [3, 4] } tUp with pcBusy := none }

theorem witness_o56_start : tUp.rot.boot = .up ∧ tReq.num ≠ 0 ∧ tUp.pcBusy = none ∧ startOk tReq tUp = true ∧
    quadsOk tReq.s2root tReq.quads.length tUp = true ∧ (find 1 tSag.sags).isSome = true ∧ sharesQuads 1 tSag = false := by and_intros <;> decide +kernel

/-- The images that verify are the ones a start goes on with; verification is the module's (Config). -/
theorem witness_o56_image (i : Image) (h : osOk i tUp = true) :
    ∃ r : StartReq, startOk r tUp = true ∧ osOk r.os tUp = true ∧ r.num ≠ 0 :=
  ⟨{ tReq with os := i }, by change startOk tReq tUp = true; decide +kernel, h, by simp [tReq]⟩

/-- A grow record of one cluster for saggar 1 at 0x6_0000 of saggar 0, and a shrink record. -/
def tRes (op : Nat) (begun : Bool) : State :=
  let s := tM 0x60000 ([BitVec.ofNat 8 op, 1, 1]) tU
  { s with sags := upd 1 { sagAt 1 tSag with leaving := [] } s.sags, pcBusy := some (0x60000, begun) }

theorem witness_o56_resize : zOp (resizeRcd 0x60000 (tRes 1 false)) = 1 ∧ zOp (resizeRcd 0x60000 (tRes 2 true)) = 2 ∧
    resizeOk 0x60000 (resizeRcd 0x60000 (tRes 3 false)) (tRes 3 false) = false ∧ zSag (resizeRcd 0x60000 (tRes 2 true)) = 1 ∧
    (sagAt 1 (tRes 2 true)).sweep = false ∧ (sagAt 1 (tRes 2 true)).leaving = [] := by decide +kernel

theorem test_resize : (nx (.resizeGrow 0x60000) (tRes 3 false)).pcBusy = none ∧ goes (.resizeShrink 0x60000) (tRes 2 false) = true ∧
    (find 1 (nx (.saggarStop 1) tSag).sags).isNone = true := by decide +kernel

/-- Saggar 1 in a sweep; cluster 5 joining it; cluster 4 leaving it with a task on its first sequencer. -/
def tMv : State := { tSag with
  sags := upd 1 { sagAt 1 tSag with sweep := true, leaving := [4] } tSag.sags
  clState := upd 5 (.joining 1) tSag.clState
  tasks := [(9, { tTask with sag := 1, sid := 16, on := some 64 })]
  seqs := upd 64 { seqAt 0 tU with task := 9, sagid := 1 } tSag.seqs }

theorem witness_o56_clusters : (sagAt 1 tMv).sweep = true ∧ clusterState 5 tMv = .joining 1 ∧ inState (.joining 1) tMv.groupSt = [] ∧
    (sagAt 1 tMv).leaving.contains 4 = true ∧
    clusterBusy 1 4 tMv = true ∧ clusterFree 1 3 tMv = true := by decide +kernel

/-- The migration's first step: its tasks are to stop, and this one stands already. -/
def tHalt : State := (dueClusterMigration 1 4 3 tMv).getD tMv

theorem witness_o56_migration : (sagAt 1 tMv).moving = none ∧ (sagAt 1 tHalt).moving = some (4, 3) ∧ clusterQuiet 4 tHalt = true ∧
    clusterLands 4 tHalt = true ∧ (seqAt 64 tHalt).halt = true := by decide +kernel

/-- Its core 0 has an accumulator element, a glaze word, and bytes in a bank of scratchpad and in one of the L1. -/
def tHaltC : State := modCore 32 (fun c => { c with acc := [(5, 7#32)], glaze := [(2, 3#256)], sram := [(70000, 1#8), (140000, 2#8)], bankrole := 0x4#64 }) tHalt

theorem witness_o56_moved : clusterQuiet 4 (drainCluster 4 tHaltC) = true ∧ clusterLands 4 (drainCluster 4 tHaltC) = true ∧
    (seqAt 64 (drainCluster 4 tHaltC)).run ≠ .off ∧ (find (seqAt 64 tHaltC).task tHaltC.tasks).isSome = true ∧
    roleOf (coreAt 32 tHaltC) 1 ≠ 0 ∧ roleOf (coreAt 32 tHaltC) 2 = 0 ∧ logCluster 1 4 tHaltC = 1 ∧ (find 1 tHaltC.sags).isSome = true := by decide +kernel

theorem test_moved : let c := coreAt 24 (nx (.clusterMigration 1 4 3) tHaltC)
    c.acc = [(5, 7#32)] ∧ c.glaze = [(2, 3#256)] ∧ c.sram = [(70000, 1#8)] ∧
    (seqAt 48 (nx (.clusterMigration 1 4 3) tHaltC)).seqid = 16 ∧ (seqAt 64 (nx (.clusterMigration 1 4 3) tHaltC)).run = .off := by decide +kernel

theorem test_clusters : (sagAt 1 (nx (.hashSweepComplete 1) tMv)).sweep = false ∧ (sagAt 1 (nx (.clusterJoin 1 5) tMv)).clusters = [3, 4, 5] ∧
    (sagAt 1 (nx (.clusterMigration 1 4 3) tHalt)).answers = [(1, 3)] ∧
    (sagAt 1 (nx (.clusterMigration 1 4 3) tHalt)).moving = none := by decide +kernel

theorem witness_o56_bandwidth : (⟨3, 0, 0, 5⟩ : Bw).cap ≠ 0 ∧ ((⟨5, 0, 0, 5⟩ : Bw).cap.toNat ≤ (⟨5, 0, 0, 5⟩ : Bw).cur.toNat) ∧
    1 < (⟨3, 0, 0, 5⟩ : Bw).cap.toNat - (⟨3, 0, 0, 5⟩ : Bw).cur.toNat ∧ (⟨3, 0, 0, 5⟩ : Bw).room 24 1 = 3 ∧ (⟨3, 0, 0, 0⟩ : Bw).room 24 1 = 24 := by
  decide +kernel

theorem test_bandwidth : (bwAt (bwKey 31 1) (nx (.bwtotWrite 31 1 (.tot 7)) tSag)).tot = 7 ∧
    (bwAt (bwKey 31 1) (nx (.bwtotWrite 31 1 (.cap 7)) tSag)).cap = 7 ∧ goes (.bandwidthWindowEnd 31) tSag = true := by decide +kernel

/-- The grow record of cluster 9, and three slice groups on its die, for saggar 1; and its next steps. -/
def tGrow : State := tM 0x61000 [9] (tM 0x60008 (leBytes 8 0x61000) (tRes 1 false))
def tGrow2 : State := (dueResizeGrow 0x60000 tGrow).getD tGrow
def tGrow3 : State := (dueResizeGrow 0x60000 tGrow2).getD tGrow2

theorem witness_o56_grow : resizeOk 0x60000 (resizeRcd 0x60000 tGrow) tGrow = true ∧
    listed (resizeRcd 0x60000 tGrow) tGrow = some [9] ∧ (pickGroups 3 tGrow [9] []).isSome = true ∧ clusterState 9 tGrow = .neutral ∧
    zQuads (resizeRcd 0x60000 tGrow) = 0 ∧ tGrow2.pcBusy = some (0x60000, true) ∧ clusterState 9 tGrow2 = .joining 1 ∧
    (inState (.joining 1) tGrow2.groupSt).length = 3 ∧ inState (.joining 1) tGrow2.clState = [9] ∧
    inState (.joining 1) tGrow3.groupSt = [] ∧ (sagAt 1 tGrow3).sweep = true := by decide +kernel

/-- A record that adds nothing (R334). -/
def tNone : State := tM 0x60002 [0, 0] (tRes 1 false)

theorem witness_o56_none : resizeOk 0x60000 (resizeRcd 0x60000 tNone) tNone = true ∧ listed (resizeRcd 0x60000 tNone) tNone = some [] ∧
    zQuads (resizeRcd 0x60000 tNone) = 0 ∧ (nx (.resizeGrow 0x60000) tNone).pcBusy = none := by decide +kernel

theorem test_grow : clusterState 9 (nx (.clusterJoin 1 9) tGrow3) = .owned 1 ∧ (nx (.clusterJoin 1 9) tGrow3).pcBusy = none ∧
    (sagAt 1 (nx (.clusterJoin 1 9) tGrow3)).clusters = [3, 4, 9] := by decide +kernel

/-- A shrink record that has marked cluster 4 leaving saggar 1, nothing to move; and its next step. -/
def tShr : State :=
  { setCluster (.leaving 1) 4 (tRes 2 true) with sags := adj 1 (fun g => { g with leaving := [4] }) (tRes 2 true).sags }
def tShr2 : State := (dueResizeShrink 0x60000 tShr).getD tShr

theorem witness_o56_shrink : (sagAt 1 tShr).quadsOut = [] ∧ shrinkReady 1 tShr = true ∧ inState (.leaving 1) tShr.clState = [4] ∧
    clusterState 4 tShr2 = .scrubbing ∧ inState (.leaving 1) tShr2.clState = [] ∧ inState (.leaving 1) tShr2.quadSt = [] ∧
    shrinkReady 1 tShr2 = true ∧ tShr2.pcBusy = some (0x60000, true) := by decide +kernel

theorem test_shrink : (nx (.resizeShrink 0x60000) tShr2).pcBusy = none ∧ clusterState 4 (nx (.resizeShrink 0x60000) tShr2) = .neutral ∧
    (sagAt 1 (nx (.resizeShrink 0x60000) tShr2)).clusters = [3] := by decide +kernel

/-- A page on its way from quad 2 to quad 3; its leaf word at 0x7_0000, and another page's at 0x7_0008. -/
def tMove : PageMove := ⟨2 * 2 ^ 32, 3 * 2 ^ 32, 16, [(0x70000, 16), (0x70008, 16)]⟩
def tMovePage : State := movePage tMove (modCore 0 (fun c => { c with l1 := [(2 * 2 ^ 25, ⟨3, 1, 0x0207⟩)] })
  (tM 0x70000 (leBytes 8 (2 * 2 ^ 32 + 0x18F) ++ leBytes 8 (4 * 2 ^ 32 + 0x18F)) (tM (2 * 2 ^ 32) [1, 2] (tRes 2 true))))

theorem test_page_move : byteAt (3 * 2 ^ 32) tMovePage = 7 ∧ byteAt (3 * 2 ^ 32 + 1) tMovePage = 2 ∧
    word8 tMovePage.mem 0x70000 = 3 * 2 ^ 32 + 0x18F ∧ word8 tMovePage.mem 0x70008 = 4 * 2 ^ 32 + 0x18F ∧
    (coreAt 0 tMovePage).l1 = [] := by and_intros <;> decide +kernel

/-- The flash of a module, and the module before power-on. -/
def tFlash : Flash := ⟨tReq.os, tReq.os, tReq.os, tReq.os, tReq.os, tReq.os, { tReq with num := 0 }, true⟩

theorem witness_o57_platform : State.reset.rot.boot = .off ∧ tFlash.sag0.num = 0 ∧ startOk tFlash.sag0 State.reset = true ∧
    (clkAt 31 tUp).droop = false ∧ (clkAt 31 (nx (.droopDetected 31) tUp)).droop = true ∧ tUp.rot.boot = .up ∧
    tUp.pcBusy = none ∧ Lifecycle.production ≠ tUp.rot.life := by and_intros <;> decide +kernel

/-- A token with the device's number, its lifecycle and the nonce last given matches; another nonce does not. -/
theorem witness_o57_token (n : BitVec 384) : let s := { tUp with rot := { tUp.rot with nonce := some n } }
    tokenMatches ⟨Config.deviceId, s.rot.life, n, 0, 0, 0⟩ s = true ∧ tokenMatches ⟨Config.deviceId, s.rot.life, n + 1, 0, 0, 0⟩ tUp = false := by
  refine ⟨by simp [tokenMatches], ?_⟩
  have h : tUp.rot.nonce = none := by decide +kernel
  simp [tokenMatches, h]

theorem test_platform : (clkAt 31 (nx (.droopCleared 31) (nx (.droopDetected 31) tUp))).droop = false ∧ (nx (.powerCapSet 190) tUp).cap = 190 ∧
    (clkAt 0 (nx (.powerCapClockChange 0 2000) tUp)).mhz = 2000 ∧ (nx (.lifecycleChange .production) tUp).rot.life = .production ∧
    (pcieAt 3 (nx (.pcieLinkTraining 3 16 6 []) tUp)).width = 16 ∧ goes (.debugNonceRequest) tUp = true ∧
    (nx (.attestationRequest 1 5) tSag).rot.reports.length = 1 := by and_intros <;> decide +kernel

/-- A module configuration: its magic number and version, nothing else set (Table 20.8). -/
def tCfg : List Byte := leBytes 4 0x4746434D ++ leBytes 2 1 ++ List.replicate 4090 0

/-- Where the vendor's keys verify the images, which is the module's (Config), the boot goes through; tReq's OS too. -/
theorem witness_o57_boot (f : Flash) (s : State) (hc : cfgOk f.cfg.data = true)
    (h : ∀ i ∈ [f.cfg, f.pc, f.kiln, f.stew, f.man, f.sag0.os], imageOk Config.vendorKey i = true) :
    (bootImages (bootList f) s).1 = true ∧ osOk f.sag0.os (bootImages (bootList f) s).2 = true ∧ cfgOk tCfg = true := by
  simp only [List.mem_cons, List.mem_nil_iff, or_false, forall_eq_or_imp, forall_eq] at h
  obtain ⟨h1, h2, h3, h4, h5, h6⟩ := h
  refine ⟨?_, ?_, by decide +kernel⟩ <;> simp [bootImages, bootList, vendorOk, kilnOk, osOk, hc, h1, h2, h3, h4, h5, h6]

theorem witness_o57_hss : (aliasKeyed true tUp).isSome = true ∧ (aliasKeyed false tUp).isNone = true := by
  and_intros <;> decide +kernel

/-- An image that does not verify stops the boot with nothing measured; one that does is measured before HSS fails it. -/
theorem test_boot (h : vendorOk tFlash.rot State.reset = false) : (nx (.powerOnBoot tFlash) State.reset).rot.boot = .failed ∧
    look 0 0 (nx (.powerOnBoot tFlash) State.reset).rot.regs = 0 := by
  have e : exec (.powerOnBoot tFlash) State.reset = .next (bootStop State.reset) := by
    have h1 : startOk tFlash.sag0 State.reset = true := by decide +kernel
    simp [exec, execPowerOnBoot, duePowerOnBoot, happens, h, h1, show State.reset.rot.boot = .off from rfl,
      show tFlash.sag0.num = 0 from rfl]
  unfold nx
  rw [e]
  exact ⟨rfl, by decide +kernel⟩

theorem test_boot_without_hss (h : vendorOk tFlash.rot State.reset = true) :
    (nx (.powerOnBoot { tFlash with hss := false }) State.reset).rot.boot = .failed := by
  have e : exec (.powerOnBoot { tFlash with hss := false }) State.reset =
      .next (bootStop (extend 0 (digestOf tFlash.rot) State.reset)) := by
    have h1 : startOk tFlash.sag0 State.reset = true := by decide +kernel
    simp [exec, execPowerOnBoot, duePowerOnBoot, happens, h, h1, show State.reset.rot.boot = .off from rfl,
      show tFlash.sag0.num = 0 from rfl, bootRest, aliasKeyed]
  unfold nx
  rw [e]
  rfl

/-- A trained endpoint at port 0 and a trained root port at port 1; saggar 1 owns Ethernet port 15, open. -/
def tNet : State :=
  let s := modPort 15 (fun x => { x with en := true }) tSag
  { s with cfg := { s.cfg with pcieEp := 1 }, pcie := [(0, { PPort.init with width := 16, rate := 6, msix := 0x8000 }), (1, { PPort.init with width := 4, rate := 5 })]
           sags := upd 1 { sagAt 1 s with nsPort := 1 } s.sags }

theorem witness_o58_ports : (endpoints tNet).contains 0 = true ∧ (pcieAt 0 tNet).width ≠ 0 ∧ (find 1 tNet.sags).isSome = true ∧
    (find 15 tNet.sags).isNone = true ∧ owns 1 15 tNet = true ∧ owns 1 14 tNet = false ∧ portOpen 15 tNet = true ∧
    portReg 1 0x1F28 tNet = some (15, 0x28) ∧ ownEvent 1 0x1F28 tNet = false ∧ tNet.cfg.pcieEp.getLsbD 1 = false ∧
    (pcieAt 1 tNet).width ≠ 0 ∧ (sagAt 1 tNet).nsPort = 1 ∧ (sagAt 1 tNet).ns = 1 := by and_intros <;> decide +kernel

/-- A frame of no KTP, good and bad; nothing posted for it. -/
def tFrame : Frame := ⟨List.replicate 60 0, true⟩

theorem witness_o58_frames : tFrame.bytes.length ≤ 9212 ∧ tFrame.fcsOk = true ∧ isPfc tFrame.bytes = false ∧ (ktpOf (portAt 15 tNet) tFrame.bytes).isNone = true ∧
    (portAt 15 tNet).rxHead = (portAt 15 tNet).rxTail ∧ (portAt 15 tNet).txOver = false ∧
    (portAt 15 (nx (.txtailWrite 1 15 1) tNet)).txHead ≠ (portAt 15 (nx (.txtailWrite 1 15 1) tNet)).txTail := by
  and_intros <;> decide +kernel

/-- A transmit descriptor at 0x6_0000 for a frame of 60 bytes at 0x6_1000 (Table 20.6), saggar 1's memory mapped as saggar 0's; and with class 0 paused. -/
def tTx : State := tM 0x60000 (leBytes 8 0x61000 ++ [60]) { tNet with
  mem := tU.mem, sags := adj 1 (fun g => { g with s2root := (sagAt 0 tU).s2root }) tNet.sags
  ports := upd 15 { portAt 15 tNet with txBase := 0x60000, ringLen := 2, txTail := 1 } tNet.ports }
def tTxP : State := modPort 15 (fun x => { x with pfc := [(0, 2 ^ 40)] }) tTx

theorem witness_o58_transmit : ((txDescriptor 1 0x60000 tTx).map fun f => f.2.2.length) = some 60 ∧ portOpen 15 tTx = true ∧
    ((txDescriptor 1 0x60000 tTxP).map fun f => (portAt 15 tTxP).stalls tTxP.phys f.2.2) = some true ∧ (find 15 tNet.sags).isNone = true := by
  and_intros <;> decide +kernel

/-- A descriptor is finished once its frame is sent, not while its class is paused (R363); a host reads zero of a page
that no saggar has (R350). -/
theorem test_transmit : (portAt 15 (nx (.txDescriptorDone 15) tTx)).txHead = 1 ∧ (portAt 15 (nx (.txDescriptorDone 15) tTx)).sent.length = 1 ∧
    dueTxDescriptorDone 15 tTxP = none ∧ hostPageRead 0xF000 tNet = some 0 ∧ hostPageRead 0x1000 tNet = none := by and_intros <;> decide +kernel

theorem witness_o58_vectors : (endpoints tNet).head? = some 0 ∧ (pcieAt 0 tNet).msixOn = true ∧ (pcieAt 0 tNet).masked 1 = true ∧
    ({ pcieAt 0 tNet with mtab := [(3, 0)] }).masked 1 = false := by and_intros <;> decide +kernel

/-- A doorbell; a vector that is masked pends, and is sent once the host clears its mask (R366). -/
theorem test_host : (sagAt 1 (nx (.hostDoorbellWrite 0 0x1000 7) tNet)).dbell0 = 7 ∧
    (pcieAt 0 (nx (.hostirqWrite 1) tNet)).pba = 2 ∧
    (pcieAt 0 (nx (.pcieLinkTraining 0 16 6 [⟨true, 28, 0⟩]) (nx (.hostirqWrite 1) tNet))).sent = [1] ∧
    goes (.signalWrite 1 0) tNet = true ∧
    (sagAt 1 (nx (.platformRegisterWrite 1 0x10 5) tNet)).dbtgt = 5 ∧ (pcieAt 1 (nx (.nvmeCommand 1 1 1 []) tNet)).nvme.length = 1 := by
  and_intros <;> decide +kernel

theorem test_ports : (portAt 15 (nx (.frameReceived 15 tFrame) tNet)).rxDrop = 1 ∧
    (portAt 15 (nx (.frameReceived 15 { tFrame with fcsOk := false }) tNet)).rxErr = 1 ∧
    (portAt 15 (nx (.pctlWrite 1 15 0) tNet)).en = false ∧ (portAt 15 (nx (.rxtailWrite 1 15 3) tNet)).rxTail = 3 ∧ (portAt 15 (nx (.txtailWrite 1 15 3) tNet)).txTail = 3 ∧
    (portAt 15 (nx (.txDescriptorDone 15) (nx (.txtailWrite 1 15 1) tNet))).txHead = 1 := by and_intros <;> decide +kernel

/-- A DATA segment from ::5, and an ACK and an ERROR of a remote copy that channel 2 of saggar 1's core sends. -/
def tSeg (type : BitVec 8) : KtpSeg := ⟨5, 1, type, 0, 0x10002000, 1, 0, 0, 0, 0, 9, true, []⟩
def tRem : CRun := { tRunAt 0 0x8000 0x40000 with copy := { tCopy with sag := 1 }, rem := some ⟨15, 5, 1, 9, 0, 0, [], [(0, 0, 1, 64, [])], 1⟩ }
def tKtp : State := modCore 24 (fun c => { c with chans := [(2, { Chan.init with last := 1, run := some tRem })] }) tNet

theorem witness_o59_segments : segBad (tSeg 1) = false ∧ segBad { tSeg 1 with ver := 2 } = true ∧ portOpen 15 tKtp = true ∧
    (ackedRun (tSeg 2) tKtp).isSome = true ∧ (ackedRun (tSeg 2) tNet).isNone = true ∧
    (tRem.rem.map fun x => (x.segs.find? (fun y => y.1 == 0)).isSome) = some true := by and_intros <;> decide +kernel

theorem test_segments : ((look Chan.init 2 (coreAt 24 (nx (.ktpErrorSegment 15 (tSeg 3)) tKtp)).chans).run.map fun r => (r.err, r.stop)) = some (9, true) ∧
    goes (.ktpAckSegment 15 (tSeg 2)) tKtp = true ∧ goes (.ktpDataSegment 15 (tSeg 1)) tKtp = true ∧
    ((look Chan.init 2 (coreAt 24 (nx (.ktpRetransmitTimeout 24 2 0) tKtp)).chans).run.map fun r => r.err) = some 9 := by
  and_intros <;> decide +kernel

/-- A flow with eight segments not yet acknowledged. -/
def tFlow : State := { tKtp with flows := [(4, ⟨5, 0x10002000, 15, 1, 1, [], 0, 0, false, 8, [], []⟩)] }

theorem witness_o59_flows : ((find 4 tFlow.flows).map fun x => x.owed) = some 8 := by decide +kernel

/-- Saggar 1 maps its memory as saggar 0 does; a first and last segment of four bytes to 0x3_0000 (Table 20.7). -/
def tData : KtpSeg := { tSeg 1 with flags := 3, nelem := 4, esize := 1, err := 0
                                    body := beBytes 8 0x30000 ++ [0, 4, 0, 1, 0, 1, 0, 1] ++ List.replicate 32 0 ++ [9, 8, 7, 6] }
def tMapped : State :=
  { tFlow with mem := tU.mem, sags := adj 1 (fun g => { g with s2root := (sagAt 0 tU).s2root }) tFlow.sags
               flows := adj 4 (fun x => { x with owed := 0 }) tFlow.flows }

theorem witness_o59_data : segBad tData = false ∧ ((flowAt 15 tData tMapped).map fun p => p.1) = some 4 ∧
    descTotal (tData.body.take 48) = 4 ∧ (segData tData).length = 4 ∧
    (placeElems 1 (tData.body.take 48) 1 4 0 (segData tData) tMapped).1 = none := by and_intros <;> decide +kernel

theorem test_data : byteAt 0x30002 (nx (.ktpDataSegment 15 tData) tMapped) = 7 ∧
    ((find 4 (nx (.ktpDataSegment 15 tData) tMapped).flows).map fun x => (x.done, x.owed)) = some (4, 8) := by
  and_intros <;> decide +kernel

/-- The flow has performed its copy and owes its ACK; a segment of the next copy comes. -/
def tOver : State := { tMapped with flows := [(4, ⟨5, 0x10002000, 15, 1, 1, tData.body.take 48, 4, 4, false, 8, [], []⟩)] }

theorem witness_o59_next : ((find 4 tOver.flows).map fun x => (x.over, x.owed, laterId 2 x.copy)) = some (true, 8, true) := by decide +kernel

/-- The ACK of the last copy is sent before the flow goes on (R365). -/
theorem test_next_copy : ((find 4 (nx (.ktpDataSegment 15 { tData with copy := 2 }) tOver).flows).map fun x => (x.copy, x.done, x.past)) =
      some (2, 4, [(1, 4)]) ∧
    (portAt 15 (nx (.ktpDataSegment 15 { tData with copy := 2 }) tOver)).sent.length = 1 := by and_intros <;> decide +kernel

theorem test_ack_send : ((find 4 (nx (.ktpAckSend 4) (nx (.ktpAckSend 4) { tFlow with flows := adj 4 (fun x => { x with owed := 9 }) tFlow.flows })).flows).map
    fun x => x.owed) = some 1 := by decide +kernel

/-- The invariant holds at reset and of a state with memory listed. -/
theorem witness_o60_memory : State.reset.memOk ∧ tD.memOk := by
  refine ⟨?_, ?_⟩ <;> unfold State.memOk <;> decide +kernel

/-! ### What the fourth review's statements assume, and what they then say -/

/-- Task 0 of a launch of two on sequencer 0; the kiln's block at 0x6_0000, no trace ring. -/
def tCan : State :=
  let s := tW
  { s with sags := upd 0 { sagAt 0 s with kcb := 0x60000 } s.sags, launches := [(1, { tLaunch with running := 2 })] }

theorem witness_o9_group : ((find 0 tCan.tasks).map fun t => (t.stage, t.on, t.ended, t.launch)) = some (none, some 0, false, 1) ∧
    (find 1 tCan.launches).isSome = true ∧ landsAt 0 0x64000 0x64000 32 tCan = true ∧ tCan.upsets = [] := by
  and_intros <;> decide +kernel

/-- The group's task has ended and left its sequencer; the launch is dead; a decision of TYPE 9 is counted (R263, Table 18.5). -/
theorem test_group_cancelled : let c := cancelGroup 0 9 tCan
    ((find 0 c.tasks).map fun t => (t.ended, t.on)) = some (true, none) ∧ (seqAt 0 c).run = .off ∧
    ((find 1 c.launches).map fun l => l.dead) = some true ∧ kcbWord 0 192 c = 1 := by and_intros <;> decide +kernel

/-- A task with s1 = 5 and two dirty bytes in its core's L1, its context area at 0x20_0000. -/
def tYie : State :=
  let s := tM 0x60028 (leBytes 8 0x200000) (tS [(1, 5)] (modCore 0 (fun c => { c with l1 := [(0x600, ⟨3, 3, 0x0207⟩)] }) tEnd0))
  tq (fun x => { x with mode := .u }) { s with sags := upd 0 { sagAt 0 s with kcb := 0x60000 } s.sags }

theorem witness_o12_saves : landsAll 0 0x200000 0x200000 [(0, [1, 2]), (8, [3])] tYie = true ∧ (seqAt 0 tYie).wait = .none ∧
    (find (seqAt 0 tYie).task tYie.tasks).isSome = true ∧ (seqAt 0 tYie).mrow.busy = false ∧
    (coreAt 0 tYie).l1 = [(0x30001 / 128, ⟨3, 3, 0x0207⟩)] := by and_intros <;> decide +kernel

theorem test_exit_releases : byteAt 0x30001 (afterCommit 0 .exit tYie) = 2 := by decide +kernel

theorem witness_o18_roles : roleOf (coreAt 0 tLine) 0 = 0 ∧ bits (1 : Nat) 1 0 = 1 ∧ rolesOk ((coreAt 0 tLine).bankrole ||| 1) = true ∧
    tLine.upsets = [] ∧ (coreAt 0 tLine).l1 = [(0x30000 / 128, ⟨3, 1, 0x0201⟩)] ∧ Bun.none.stores = [] ∧ Bun.none.publish = [] ∧
    (me (setCtl (.csr 0x011 .w 3) tC)).bun.ctl = .csr 0x011 .w 3 ∧ (me tK).mode = .k ∧ (me tU).mode = .u := by
  and_intros <;> decide +kernel

/-- A BANKROLE write that ends the L1 role of a bank writes back what the L1 holds (R152); a write of a register marked D
is there for the next bundle (R270). -/
theorem test_roles : byteAt 0x30000 (csrWrite 0 0x040 .s 1 tLine) = 1 ∧ (coreAt 0 (csrWrite 0 0x040 .s 1 tLine)).l1 = [] ∧
    (applyCtl (.csr 0x024 .s 6) { me tK with tscr := 1 }).tscr = 7 ∧ (applyCtl (.csr 0x041 .w 17) (me tK)).slack = 16 := by
  and_intros <;> decide +kernel

/-- The pair bit of one leaf is flipped, in memory and in the tables of a copy (R173). -/
theorem witness_o33_flips : (∀ p ∈ [(0x5000, 30)], p.1 % 8 = 0 ∧ p.2 < 64) ∧ [((0x5000, 30) : Nat × Nat)].map (·.1) = [0x5000] ∧
    okE (pairFlips tPub 1 0x30000 (some 30)) = true := by and_intros <;> decide +kernel

theorem test_flip : word8 (publishAll 0 [(0x5000, 30)] tPub).mem 0x5000 = 0xDCF + 2 ^ 30 := by decide +kernel

/-- A call of one row and four columns of FP8 elements at 0x3_1000, K = 4, with a microscaling pair of the same. -/
def tTen : Tensor := ⟨0x31000, 1, 4, 4, 3, false, false, 0, 1, 4, 0⟩
def tMRun : MRun := .start ⟨0, .u, 7, [0, 0, 0x10000, 0x400040001, 0x433, 0x32000, 0, 0], some tTen, some { tTen with tr := true }, []⟩
def tMem : State := tM 0x32000 [128] (tM 0x31000 [0x38, 0x40, 0, 0x38] tAcc)

theorem witness_o41_reads : okE (readRow tMRun.call 8 0x31000 0 4 tMem) = true ∧ okE (readRow tMRun.call 8 0x40000000 0 4 tMem) = false ∧
    okE (readRows tMRun.call tTen 8 0 4 [0] tMem) = true ∧ okE (readScales tMRun.call tTen true 0 [0] tMem) = true ∧
    okE (doAgenA (2 ^ 49 + 255 * 2 ^ 74) tMRun tMem) = true ∧ okE (doAgenB (2 ^ 73 + 255 * 2 ^ 74) tMRun tMem) = true ∧ okE (doScale (2 ^ 105 + 5 * 2 ^ 74 + 5 * 2 ^ 78) tMRun tMem) = true ∧
    okE (doAgenA (2 ^ 49 + 255 * 2 ^ 74) { tMRun with call := { tMRun.call with ra := some { tTen with base := 0x40000000 } } } tMem) = false ∧
    okE (groupTensor { tMRun.call with groups := [⟨0x30000, 2, 1⟩] } 0 tMem) = true ∧
    groupRows { tMRun.call with groups := [⟨0x30000, 2, 1⟩] } 0 = [0] := by and_intros <;> decide +kernel

/-- The sum of 1·1 + 2·2 + 0·0 + 1·1 is folded into an empty partial, and into one of 1 (R116); INT32 keeps its limits
(R119). -/
def tSum : MRun := { tMRun with ablk := [[0x38, 0x40, 0, 0x38]], bblk := [[0x38, 0x40, 0, 0x38]], ascl := [128], bscl := [127] }

theorem witness_o41_sums : sumsKnown 3 3 tSum = true ∧ bit (2 ^ 89 + 31 * 2 ^ 82 + 255 * 2 ^ 74 : Nat) 89 = true ∧ (tMRun.call).amode = 1 ∧
    ({ tMRun.call with par := [0, 0, 0x10000, 0x400040001, 0x11, 0, 0, 0] } : MCall).amode = 0 ∧ tMRun.arows = [0] ∧
    intPair tMRun.call.af tMRun.call.bf = false := by and_intros <;> decide +kernel

theorem test_word_sums : ((doFold (2 ^ 136) (doArray (2 ^ 89 + 31 * 2 ^ 82 + 255 * 2 ^ 74) tSum tMem).1).parts.map fun l => l.map fun p => p.map (·.1)) =
      [[some 0x40C00000]] ∧
    (foldElem tSum (.fin false 6 0) (some (0x3F800000, 0))).1 = (0x40E00000, 0) ∧
    (foldElem { tSum with int := true } (.fin false 6 0) (some (0x7FFFFFFE, 0))).1 = (0x7FFFFFFF, 0) ∧
    ((doFlags (2 ^ 147) (coreAt 0 tMem) tSum).parts.map List.length) = [32] ∧ (doFlags (2 ^ 146) (coreAt 0 tMem) tSum).parts = [] := by
  and_intros <;> decide +kernel

theorem witness_o43_drain : okE (placesOf 0x30000 8 false true false tInt) = true ∧ tInt.upsets = [] ∧
    (match placesOf 0x30002 8 false true false tInt with
      | .ok r => markLeaves true r.2 tInt.mem == tInt.mem
      | .error _ => false) = true ∧
    (drainRow (coreAt 0 tInt) (some ⟨0, true, false⟩) 9 2 1 4 2).1.length = 8 ∧ okE (store 0x40000000 [0, 0] false tInt) = false := by
  and_intros <;> decide +kernel

theorem test_drain : (match drainRows (coreAt 0 tInt) (some ⟨0, true, false⟩) 9 2 4 2 0x100 [1, 2] 0x30000 tInt with
      | .ok t => (me t).bun.stores.map fun p => (p.place, p.bytes.length)
      | .error _ => []) = [(.phys 0x30000 .rc, 8), (.phys 0x30100 .rc, 8)] := by decide +kernel

/-- Tasks 0 and 2 of one launch, cluster barriers: task 0 has arrived at the first, and holds; task 2 has, or has not. -/
def tBar (n : Nat) : State := { tq (fun x => { x with hold := .bar 1 1 1 }) tLine with
  tasks := [(0, { tTask with bars := [(1, 1)] }), (2, { tTask with idx := 1, sid := 1, bars := [(1, n)] })] }

theorem witness_o49_bars : (seqAt 0 (tBar 0)).hold = .bar 1 1 1 ∧ (seqAt 0 (tBar 0)).mode = .u ∧ (seqAt 0 (tBar 0)).uhold.isBar = false ∧
    barDone 0 1 1 (tBar 0) = false ∧ barDone 0 1 1 (tBar 1) = true ∧ together 0 tTask { tTask with sid := 1 } = true ∧
    together 0 tTask { tTask with sid := 2 } = false := by and_intros <;> decide +kernel

/-- The barrier holds until the last participant has arrived, which lets the task go with its acquire (R96, R97). -/
theorem test_bar : (seqAt 0 (settleBars (tBar 0))).hold = .bar 1 1 1 ∧ (seqAt 0 (settleBars (tBar 1))).hold = .none ∧
    ((coreAt 0 (settleBars (tBar 1))).l1.map fun p => p.2.have_) = [1] := by and_intros <;> decide +kernel

/-- An ATLD in a later slot than an FFILL of its cell finds what the fill has left to undo (R29, R188). -/
theorem test_fill_takes_over : ((me (nx (.ffill 0 2 3) tFu)).bun.undo.map fun p => (p.place, p.bytes.length)) = [(.phys 0x30010 .so, 16)] := by
  decide +kernel

/-- A launch of one gang of two groups on clusters 0 and 1, and where it goes. -/
def tGang : State :=
  let s := tM 0x60030 [4] tU
  { s with sags := upd 0 { sagAt 0 s with kcb := 0x60000, clusters := [0, 1] } s.sags
           launches := [(1, { tLaunch with next := 0, running := 0, gang := 2, group := 1 })] }

theorem witness_o55_gang : (fitGang { tLaunch with next := 0, running := 0, gang := 1, group := 2, hint := 1 } 1 0 none
      { tGang with seqs := [] }) = some [(0, [0, 1])] ∧
    (gangItems [(0, [0, 1])] [0, 1]).map (fun y => physCluster 0 y.2.2.1 tGang * 16 + y.2.2.2.1) = [0, 1] ∧ [0, 1].Nodup ∧
    (find 1 tGang.launches).isSome = true ∧ (find 3 tPip.pipes).isSome = true ∧ 0 < (pipeAt 3 tPip).stages.length := by
  and_intros <;> decide +kernel

theorem test_gang : let t := placeGang 1 0 { tLaunch with next := 0, running := 0, group := 2 } none [(0, [2, 3])] tGang
    (t.tasks.map fun k => (k.2.on, k.2.sid, k.2.idx)) = [(some 2, 2, 0), (some 3, 3, 1)] ∧ (seqAt 3 t).run = .running ∧
    (seqAt 3 t).pc = 0x10000 ∧ ((find 1 t.launches).map fun l => (l.next, l.running)) = some (1, 2) ∧
    (coreAt 1 (giveCore tLaunch 3 0 0 1 tPip)).fronts = [] := by and_intros <;> decide +kernel

/-- Two stages: stage 0 wants a second consumer, stage 1 may lose one of two; no core is free. -/
def tReb : State := { tPip with
  sags := adj 0 (fun g => { g with clusters := [] }) tPip.sags
  pipes := [(3, { pipeAt 3 tPip with
    stages := [⟨0x10000, 1, 3, 0, 1, [1], [some 1], []⟩, ⟨0x10000, 1, 3, 1, 2, [2], [some 2, some 3], []⟩]
    queues := [⟨0x50000, 4, 8, 1, 0, [⟨0, [], none⟩, ⟨1, [], none⟩], 2, 0⟩, ⟨0x60000, 4, 8, 1, 1, [], 0, 0⟩, ⟨0x70000, 4, 8, 1, 1, [], 0, 0⟩] })] }

theorem witness_o55_rebalance : let p := pipeAt 3 tReb
    lowestCore 0 0 tReb = none ∧ donorOf p [1, 2] [] 0 = some 1 ∧ donorOf p [1, 1] [] 0 = none ∧ (lowestCore 0 0 tPip).isSome = true ∧
    (nth OQueue.none_ 0 p.queues).hi < queueLoad p 0 ∧ queueLoad p 1 < (nth OQueue.none_ 1 p.queues).lo ∧
    (find p.launch tReb.launches).isSome = true := by and_intros <;> decide +kernel

/-- Core 3 leaves stage 1 for stage 0, at once, since no element of its is left (R308, R309). -/
theorem test_rebalance : ((find 3 (rebalance 3 0 (some 1) tReb).pipes).map fun p => p.stages.map fun y => (y.k, y.cores)) =
    some [(2, [some 1, some 3]), (1, [some 2])] := by decide +kernel

/-- A closed pipeline with nothing left; and one whose donor still may run an element. -/
def tOverP (b : Bool) : State := { tReb with
  pipes := [(3, { pipeAt 3 tReb with
    closed := b, moves := [(1, 1, 0, 1, 16)], stages := [⟨0x10000, 1, 3, 0, 1, [1], [some 1], []⟩, ⟨0x10000, 1, 3, 1, 2, [2], [some 2], [(1, 16, some 3)]⟩]
    queues := (pipeAt 3 tReb).queues.map fun y => { y with elems := [], next := 16 } })] }

theorem witness_o55_over : (pipeAt 3 (tOverP true)).over 3 (tOverP true) = true ∧ (pipeAt 3 (tOverP false)).over 3 (tOverP false) = false ∧
    ((nth Stage.none_ 1 (pipeAt 3 (tOverP true)).stages).olds.find? fun o => o.1 == 1 && o.2.1 == 16) = some (1, 16, some 3) ∧
    coreBusy 3 3 (tOverP true) = false ∧ mayArrive 3 (pipeAt 3 tReb) (nth Stage.none_ 1 (pipeAt 3 tReb).stages) 1 16 tReb 3 1 = true ∧
    (find 3 (passCores 3 [] (tOverP true)).pipes).isSome = true := by and_intros <;> decide +kernel

theorem test_over : (find 3 (settlePipes (tOverP true)).pipes).isNone = true ∧
    ((find 3 (settlePipes (tOverP false)).pipes).map fun p => (p.stages.map (fun y => y.cores), p.moves.length)) =
      some ([[some 1, some 3], [some 2]], 0) := by and_intros <;> decide +kernel

/-- A ring of saggar 0 whose head record is good, cannot be read, has no legal entry, or names no pipeline. -/
theorem witness_o55_head : (agentRead 0 0 0x40000000 64 tKil).isNone = true ∧ ((agentRead 0 0 0x30000 64 (tM 0x30000 tRcd tKil)).map fun b =>
      (recOk b, recPipe b, quotaFits 0 0 (recQcost b) (tM 0x30000 tRcd tKil))) = some (true, 0, true) ∧
    storageOf (([], []) : List Stage × List OQueue).2 = 0 ∧
    ((agentRead 0 0 0x30040 64 tKil).map fun b => recOk b) = some false := by and_intros <;> decide +kernel

theorem test_refused : (headStep 0 ⟨0x62000, 0x30040, 1, 0, 1, 0⟩ tKil).isSome = true ∧
    ((headStep 0 ⟨0x62000, 0x30040, 1, 0, 1, 0⟩ tKil).map fun t => word8 t.mem 0x30070 % 2 ^ 16) = some (4 * 256 + 3) ∧
    bit (agentWord 0 0 (qcbOf 0 0 tKil + 40) tKil) 63 = false := by and_intros <;> decide +kernel

/-- The yielded task 0 of launch 1, with nothing in its image. -/
def tBack : State := { tGang with tasks := [(0, { tTask with on := none, yielded := true, pirq := 2, live := some ⟨0, 0, 0, 0⟩ })] }

theorem witness_o55_restored : (find 0 tBack.tasks).isSome = true ∧ (find tTask.launch tBack.launches).isSome = true := by
  and_intros <;> decide +kernel

theorem test_restored : let t := restoreTask 0 2 tBack
    ((find 0 t.tasks).map fun k => (k.on, k.yielded)) = some (some 2, false) ∧ (seqAt 2 t).run = .running ∧ (seqAt 2 t).task = 0 ∧
    (seqAt 2 t).pirq = 2 := by and_intros <;> decide +kernel

/-- Shrink records of saggar 1, which has two clusters, two quads and three slice groups: `n` clusters, one quad. -/
def tShk (n : BitVec 8) : State :=
  let s := tM 0x60002 [n, 0] (tM 0x60010 [1, 0, 1] (tRes 2 false))
  { s with sags := adj 1 (fun g => { g with quads := [2, 3] }) s.sags
           clState := [(3, .owned 1), (4, .owned 1)], quadSt := [(2, .owned 1), (3, .owned 1)], groupSt := [(0, .owned 1), (1, .owned 1), (2, .owned 1)] }

theorem witness_o56_check : resizeOk 0x60000 (resizeRcd 0x60000 (tShk 1)) (tShk 1) = true ∧
    resizeOk 0x60000 (resizeRcd 0x60000 (tShk 3)) (tShk 3) = true ∧ zNcl (resizeRcd 0x60000 (tShk 3)) = 3 ∧ zQuads (resizeRcd 0x60000 (tShk 1)) = 1 ∧
    ((sagAt 1 (tShk 1)).clusters.length, (sagAt 1 (tShk 1)).quads.length, (groupsOf 1 (tShk 1)).length) = (2, 2, 3) ∧
    tMove.src ≠ tMove.dst ∧ entryBad true (2 * 2 ^ 32 + 0x18F) = false ∧ isPointer (2 * 2 ^ 32 + 0x18F) = false ∧
    pageBase (2 * 2 ^ 32 + 0x18F) 16 = tMove.src ∧ 0x70000 + 8 ≤ tMove.dst ∧ tRes 2 true ≠ State.reset := by and_intros <;> decide +kernel

/-- The last cluster, the last quad and a slice group leave under a new generation; too few clusters are RESULT 2 (R335). -/
theorem test_check : let t := shrinkCheck 0x60000 (resizeRcd 0x60000 (tShk 1)) (tShk 1)
    (sagAt 1 t).leaving = [4] ∧ (sagAt 1 t).quadsOut = [3] ∧ clusterState 4 t = .leaving 1 ∧ quadState 3 t = .leaving 1 ∧
    groupState 2 t = .leaving 1 ∧ (sagAt 1 t).gen = (sagAt 1 (tShk 1)).gen + 1 ∧
    (shrinkCheck 0x60000 (resizeRcd 0x60000 (tShk 3)) (tShk 3)).pcBusy = none := by and_intros <;> decide +kernel

/-- A stop leaves none of a saggar's tasks, bytes, key or resources (R336, R357); what leaves is written back, then cleared. -/
theorem test_stop : let s := tM (2 * 2 ^ 32) [7] { tShk 1 with tasks := [(9, { tTask with sag := 1 })] }
    (stopSaggar 1 s).tasks = [] ∧ byteAt (2 * 2 ^ 32) (stopSaggar 1 s) = 0 ∧ (find 1 (stopSaggar 1 s).sags).isNone = true ∧
    quadState 2 (stopSaggar 1 s) = .neutral ∧ clusterState 3 (stopSaggar 1 s) = .neutral := by and_intros <;> decide +kernel

theorem test_scrub : let s := shrinkCheck 0x60000 (resizeRcd 0x60000 (tShk 1)) (tM (3 * 2 ^ 32) [7] (tShk 1))
    clusterState 4 (shrinkScrub 1 s) = .scrubbing ∧ quadState 3 (shrinkScrub 1 s) = .scrubbing ∧
    quadState 3 (shrinkEnd 0x60000 1 (shrinkScrub 1 s)) = .neutral ∧ (shrinkEnd 0x60000 1 (shrinkScrub 1 s)).pcBusy = none := by
  and_intros <;> decide +kernel

/-- Cluster 0 of saggar 1 answers to a moved number; its own is held (R362). -/
def tNamed : State := { tNet with sags := adj 1 (fun g => { g with clusters := [3, 4], answers := [(1, 3)] }) tNet.sags }

theorem witness_o58_named : physCluster 1 1 tNamed = 3 ∧ physCluster 1 0 tNamed = 512 ∧ nth 512 0 (sagAt 1 tNamed).clusters = 3 ∧
    nth 512 2 (sagAt 1 tNamed).clusters = 512 ∧ (0x8000000000000002 : Word).getLsbD 63 = true ∧ (find 1 tNamed.sags).isSome = true := by
  and_intros <;> decide +kernel

/-- A named source is pending on the cluster that answers to the number; one for an own number waits there (R339, R362). -/
theorem test_named : (seqAt 50 (raiseNamed 1 1 0x8000000000000012 tNamed)).pirq = 2 ∧ (seqAt 50 (raiseNamed 1 1 0x8000000000000012 tNamed)).evt = 4 ∧
    look 0 50 (sagAt 1 (raiseNamed 1 1 0x8000000000000002 tNamed)).irqs = 2 ∧ raiseNamed 1 1 0x12 tNamed = tNamed := by
  and_intros <;> decide +kernel

/-- A receive descriptor at 0x6_2000 for a buffer at 0x6_3000. -/
def tRx : State := tM 0x62000 (leBytes 8 0x63000) (modPort 15 (fun x => { x with rxBase := 0x62000, rxTail := 1 }) tTx)

theorem witness_o58_buffer : (iaPlace 1 0x63000 true tRx).isSome = true ∧ (iaWrite 1 (cut 0x63000 60) tFrame.bytes tRx).isSome = true ∧
    tRx.upsets = [] ∧ (portAt 15 tRx).owner = some 1 := by and_intros <;> decide +kernel

theorem test_buffer : let t := fillBuffer 15 (portAt 15 tRx) (List.replicate 60 1) tRx
    byteAt 0x6303B t = 1 ∧ byteAt 0x62008 t = 60 ∧ byteAt 0x6200F t = 0x80 ∧ (portAt 15 t).rxHead = 1 := by and_intros <;> decide +kernel

/-- A flow that holds the second segment of its copy, whose first comes; a port that stalls. -/
def tHeld : State := { tMapped with flows := adj 4 (fun x => { x with
  desc := tData.body.take 48, total := 4, done := 2, held := [{ tData with flags := 2, elem := 2, nelem := 2, body := [5, 4] }] }) tMapped.flows }

theorem witness_o59_held : ((find 4 tHeld.flows).map fun x => ((x.held.find? x.takes).isSome, x.failed, x.done)) = some (true, false, 2) ∧
    (portAt 15 tMapped).en = true ∧ (portAt 15 tTxP).stalls tTxP.phys tFrame.bytes = true ∧ (portAt 14 tMapped).en = false ∧
    ((find 4 tMapped.flows).map fun x => (x.held.find? x.takes).isNone) = some true ∧ (find 5 tMapped.flows).isNone = true := by
  and_intros <;> decide +kernel

/-- The held segment is performed in its turn; one that comes too early is held; a bad size ends the copy (R365). -/
theorem test_held : byteAt 0x30002 (drainHeld 4 1 tHeld) = 5 ∧ ((find 4 (drainHeld 4 1 tHeld).flows).map fun x => (x.done, x.held.length)) = some (4, 0) ∧
    ((find 4 (takeSeg 4 { tData with flags := 2, elem := 2, nelem := 2, body := [5, 4] } tMapped).flows).map fun x => x.held.length) = some 1 ∧
    ((find 4 (takeSeg 4 { tData with esize := 3 } tMapped).flows).map fun x => x.failed) = some true := by and_intros <;> decide +kernel

/-- A shorter ring may be overfilled at once (R363). -/
theorem test_short_ring : (portWrite 0x60 0 { Port.init with txTail := 2 }).ringErr = true ∧
    (portWrite 0x60 1 { Port.init with txTail := 2 }).ringErr = false := by and_intros <;> decide +kernel

/-! ### The checks of WellFormed: an ill-formed term for each, refused; its slot is an illegal instruction (R62) -/

theorem smoke_dispatch : wellFormed (.sync 0 0) = false ∧ wellFormed (.slack 0 0) = false ∧ wellFormed (.slack 0 17) = false ∧
    wellFormed (.lidx 0 1 6) = false := by decide +kernel

theorem smoke_system : wellFormed (.csrr 0 0x005 1) = false ∧ wellFormed (.csrw 0 0x043 1) = false ∧ wellFormed (.csrs 0 0xFFF 1) = false ∧
    wellFormed (.csrc 0 0x026 1) = false ∧ wellFormed (.waitev 0 0) = false := by decide +kernel

theorem smoke_system_limits : wellFormed (.waitev 0 8) = false ∧ wellFormed (.tlbinv 0 2 1) = false ∧ wellFormed (.scmp 0 1 1 1 6) = false ∧
    wellFormed (.scmpi 0 2 1 1 1 0) = false ∧ wellFormed (.lds 0 1 1 3 1 0) = false := by decide +kernel

theorem smoke_float_formats : wellFormed (.vadd 0 1 1 1 3 0 0) = false ∧ wellFormed (.vsub 0 1 1 1 3 0 0) = false ∧
    wellFormed (.vmul 0 1 1 1 3 0 0) = false ∧ wellFormed (.vfma 0 1 1 1 3 0 0) = false ∧ wellFormed (.vfnma 0 1 1 1 3 0 0) = false := by
  decide +kernel

theorem smoke_extrema_formats : wellFormed (.vminf 0 1 1 1 3 0 0) = false ∧ wellFormed (.vmaxf 0 1 1 1 3 0 0) = false ∧
    wellFormed (.vfcmp 0 0 1 1 1 3 0) = false ∧ wellFormed (.vred 0 1 1 0 3 0 0) = false ∧ wellFormed (.vscan 0 1 1 0 3) = false := by
  decide +kernel

theorem smoke_function_formats : wellFormed (.vrcp 0 1 1 3 0 0) = false ∧ wellFormed (.vrsq 0 1 1 3 0 0) = false ∧
    wellFormed (.vsqrt 0 1 1 3 0 0) = false ∧ wellFormed (.vexp2 0 1 1 3 0 0) = false ∧ wellFormed (.vlog2 0 1 1 3 0 0) = false := by
  decide +kernel

theorem smoke_sign_formats : wellFormed (.vabsf 0 1 1 3 0 0) = false ∧ wellFormed (.vnegf 0 1 1 3 0 0) = false ∧
    wellFormed (.vfloor 0 1 1 3 0 0) = false ∧ wellFormed (.vfrac 0 1 1 3 0 0) = false := by decide +kernel

theorem smoke_conversions : wellFormed (.vcvt 0 1 1 13 0 0 0) = false ∧ wellFormed (.vcvt 0 1 1 0 13 0 0) = false ∧
    wellFormed (.vcvt 0 1 1 4 4 0 0) = false ∧ wellFormed (.vcvt 0 1 1 12 7 0 0) = false ∧ wellFormed (.vcvt 0 1 1 7 12 0 0) = false := by
  decide +kernel

theorem smoke_lane_codes : wellFormed (.vmxsc 0 1 1 3) = false ∧ wellFormed (.vmxq 0 1 1 7) = false ∧ wellFormed (.vmxdq 0 1 1 36) = false ∧
    wellFormed (.vpack 0 1 1 0) = false ∧ wellFormed (.vunpack 0 1 1 0 0 0) = false := by decide +kernel

theorem smoke_accumulators : wellFormed (.aread 0 1 1 1 3 1) = false ∧ wellFormed (.awrite 0 1 1 1 3 1) = false ∧
    wellFormed (.adrain 0 1 1 1 12) = false ∧ wellFormed (.adrain 0 1 1 1 5) = false ∧ wellFormed (.adrain 0 1 1 1 10) = false := by
  decide +kernel

theorem smoke_domains_and_fences : wellFormed (.dalld 0 0 1 0) = false ∧ wellFormed (.dalld 0 0 9 0) = false ∧
    wellFormed (.dalld 0 31 2 0) = false ∧ wellFormed (.fence 0 3 2 0) = false ∧ wellFormed (.adrain 0 1 1 1 6) = false := by
  decide +kernel

theorem smoke_refused : trapOf (.vadd 0 1 1 1 3 0 0) tU = some (0x01, slotVal tU) ∧ trapOf (.dalld 7 31 2 0) tU = some (0x01, slotVal tU) := by
  and_intros <;> decide +kernel

end Sys2Proof.Tests
end

namespace Sys2Proof.Machine

/-! ## What a fetch leaves as it was -/

/-- A state that differs from another in what fetches and met errors change: memory, the cores, the errors that are left
and their log, the free values drawn. -/
def FetchFrame (s t : State) : Prop :=
  t = { s with mem := t.mem, cores := t.cores, freeCtr := t.freeCtr, upsets := t.upsets, errLog := t.errLog }

theorem FetchFrame.refl (s : State) : FetchFrame s s := rfl

theorem FetchFrame.trans {s t u : State} (h : FetchFrame s t) (k : FetchFrame t u) : FetchFrame s u := by
  rw [FetchFrame] at h k ⊢
  rw [h] at k
  exact k

theorem FetchFrame.seqs {s t : State} (h : FetchFrame s t) : t.seqs = s.seqs := by
  rw [FetchFrame] at h
  rw [h]

theorem FetchFrame.sags {s t : State} (h : FetchFrame s t) : t.sags = s.sags := by
  rw [FetchFrame] at h
  rw [h]

theorem FetchFrame.tasks {s t : State} (h : FetchFrame s t) : t.tasks = s.tasks := by
  rw [FetchFrame] at h
  rw [h]

/-- A fold of steps, each within the frame, is within it. -/
theorem FetchFrame.foldl {β : Type} {f : State → β → State} (hf : ∀ s b, FetchFrame s (f s b)) (l : List β) :
    ∀ s, FetchFrame s (l.foldl f s) := by
  induction l with
  | nil => exact FetchFrame.refl
  | cons b l ih => exact fun s => (hf s b).trans (ih (f s b))

theorem modCore_fetchFrame (k : Nat) (f : Core → Core) (s : State) : FetchFrame s (modCore k f s) := rfl

theorem setMem_fetchFrame (a : Nat) (b : List Byte) (s : State) : FetchFrame s (setMem a b s) := rfl

theorem mapCopies_fetchFrame (f : Copy → Copy) (s : State) : FetchFrame s (mapCopies f s) := rfl

theorem marked_fetchFrame (w : Bool) (ms : List Nat) (s : State) : FetchFrame s (marked w ms s) := rfl

theorem freeNext_fetchFrame (s : State) : FetchFrame s (freeNext s).2 := rfl

theorem zeroLine_fetchFrame (ln : Nat) (s : State) : FetchFrame s (zeroLine ln s) := by
  unfold zeroLine
  split_ifs
  · exact (setMem_fetchFrame ..).trans (mapCopies_fetchFrame ..)
  · exact modCore_fetchFrame ..
  · exact modCore_fetchFrame ..

theorem countCoreErr_fetchFrame (k : Option Nat) (lo n : Nat) (s : State) : FetchFrame s (countCoreErr k lo n s) := by
  cases k <;> rfl

theorem healLines_fetchFrame (k : Option Nat) (l : List Nat) (s : State) : FetchFrame s (healLines k l s) := by
  unfold healLines
  split
  · exact .refl s
  · have counted := (countCoreErr_fetchFrame k 0 (upsetIn false l s).length s).trans
      (countCoreErr_fetchFrame k 16 (upsetIn true l s).length _)
    refine (counted.trans ?_).trans (.foldl (fun s ln => zeroLine_fetchFrame ln s) _ _)
    rfl

theorem heal_fetchFrame (k : Option Nat) (p : Place) (n : Nat) (s : State) : FetchFrame s (heal k p n s) :=
  healLines_fetchFrame ..

theorem healTables_fetchFrame (k : Option Nat) (v : View) (as : List (Nat × Nat)) (s : State) :
    FetchFrame s (healTables k v as s) := by
  unfold healTables
  split
  · exact .refl s
  · exact .foldl (fun s _ => .foldl (fun s _ => heal_fetchFrame _ _ _ s) _ s) _ s

theorem fetchWord_fetchFrame {q a : Nat} {s t : State} {w : Slot} (h : fetchWord q a s = .ok (w, t)) :
    FetchFrame s t := by
  unfold fetchWord at h
  split at h
  case h_1 => cases h
  case h_3 => cases h
  case h_2 pa kind ms _ =>
    have walk := (marked_fetchFrame false ms s).trans (healTables_fetchFrame (some (q / 2)) (viewOf q s) [(a, 4)] _)
    generalize healTables (some (q / 2)) (viewOf q s) [(a, 4)] (marked false ms s) = s0 at walk h
    have read := walk.trans (heal_fetchFrame (some (q / 2)) (.phys pa .so) 4 s0)
    cases copied : find (pa / 4) (coreAt (q / 2) s0).icache with
    | none =>
      simp only [copied, Option.isNone_none, if_true] at h
      split at h
      · cases h
      · cases h
        exact read.trans (modCore_fetchFrame ..)
    | some c =>
      simp only [copied, Option.isNone_some, Bool.and_false, Bool.false_and, Bool.false_eq_true, if_false] at h
      split at h
      · cases h
        exact walk
      · have drawn := walk.trans (freeNext_fetchFrame s0)
        split at h
        · cases h
          exact drawn
        · cases h
          exact drawn.trans (modCore_fetchFrame ..)

theorem fetchAll_fetchFrame (q : Nat) (l : List Nat) : ∀ s, FetchFrame s (fetchAll q l s) := by
  induction l with
  | nil => exact FetchFrame.refl
  | cons a l ih =>
    intro s
    unfold fetchAll
    split
    · next h => exact (fetchWord_fetchFrame h).trans (ih _)
    · exact .refl s

theorem fetched_fetchFrame (q : Nat) (s : State) : FetchFrame s (fetched q s) := by
  unfold fetched
  dsimp only
  split
  · exact .refl s
  · split
    · exact fetchAll_fetchFrame ..
    · split
      · exact fetchAll_fetchFrame ..
      · exact (fetchAll_fetchFrame ..).trans (.foldl (fun s _ => fetchAll_fetchFrame _ _ s) _ _)

/-! ## What a commit keeps of a sequencer -/

/-- A reading of a sequencer that the effects of a commit outside the bundle's own control do not change. -/
structure KeptByCommit {γ : Type} (v : Seq → γ) : Prop where
  handles : ∀ x m, v { x with handles := m } = v x
  csrs : ∀ i w x, v (csrSet i w x) = v x
  mrow : ∀ x r, v { x with mrow := r } = v x
  counts : ∀ x f n, v { x with fflags := f, ltick := n } = v x

/-- A change of a sequencer that keeps a reading keeps it of every sequencer. -/
theorem modSeq_keeps {γ : Type} {v : Seq → γ} (q r : Nat) {f : Seq → Seq} (h : ∀ x, v (f x) = v x) (s : State) :
    v (seqAt r (modSeq q f s)) = v (seqAt r s) := by
  by_cases e : r = q
  · subst e; rw [seqAt_modSeq, h]
  · rw [seqAt_modSeq_ne e]

/-! Every part of a commit keeps such a reading, and so does the queues' progress. -/

section Kept
variable {γ : Type} {v : Seq → γ} (kept : KeptByCommit v)
include kept

theorem feed_keeps (q r hn n : Nat) : ∀ s, v (seqAt r (feed q hn n s)) = v (seqAt r s) := by
  induction n with
  | zero => intro s; rfl
  | succ n ih =>
    intro s
    simp only [feed]
    split
    · rfl
    · split
      · rw [ih, seqAt_of_seqs (startCopy_seqs ..)]
        exact modSeq_keeps q r (fun x => kept.handles x _) s
      · rfl

theorem applyHop_keeps (q r : Nat) (o : Hop) (s : State) : v (seqAt r (applyHop q o s)) = v (seqAt r s) := by
  cases o <;> simp only [applyHop, feed_keeps kept] <;> exact modSeq_keeps q r (fun x => kept.handles x _) _

theorem csrWrite_keeps (q r i : Nat) (op : CsrOp) (w : Word) (s : State) :
    v (seqAt r (csrWrite q i op w s)) = v (seqAt r s) := by
  simp only [csrWrite]
  split
  · simp only [setBankrole, seqAt_modCore]
    split
    · exact congrArg v (seqAt_of_seqs (homeward_seqs ..) r)
    · rfl
  · split <;> rfl
  · exact modSeq_keeps q r (kept.csrs i _) s

theorem handOff_keeps (c : MCall) (r : Nat) (s : State) : v (seqAt r (handOff c s)) = v (seqAt r s) := by
  simp only [handOff, seqAt_modCore]
  exact modSeq_keeps c.q r (fun x => kept.mrow x _) s

theorem effectsOf_keeps (q r : Nat) (b : Bun) (s : State) : v (seqAt r (effectsOf q b s)) = v (seqAt r s) := by
  unfold effectsOf
  extract_lets s1 s2 s3 s4 s5
  have h1 : v (seqAt r s1) = v (seqAt r s) :=
    foldl_keeps _ (fun s => v (seqAt r s)) (fun s p => by rw [seqAt_of_seqs (applyStore_seqs q p s)]) _ s
  have h2 : v (seqAt r s2) = v (seqAt r s) :=
    (foldl_keeps _ (fun s => v (seqAt r s)) (fun s o => applyHop_keeps kept q r o s) _ s1).trans h1
  have h3 : v (seqAt r s3) = v (seqAt r s) :=
    (congrArg v (seqAt_of_seqs (publishAll_seqs q b.publish s2) r)).trans h2
  have h4 : v (seqAt r s4) = v (seqAt r s) := by
    unfold s4
    split
    · split
      · exact h3
      · rw [csrWrite_keeps kept, h3]
    · exact h3
  have h5 : v (seqAt r s5) = v (seqAt r s) := by
    unfold s5
    split
    · rw [handOff_keeps kept, h4]
    · exact h4
  exact (modSeq_keeps q r (fun x => kept.counts x _ _) s5).trans h5

theorem commitOldest_keeps (hf : ∀ x l, v { x with flight := l } = v x) (q r n : Nat) :
    ∀ s, v (seqAt r (commitOldest q n s)) = v (seqAt r s) := by
  induction n with
  | zero => intro s; rfl
  | succ n ih =>
    intro s
    simp only [commitOldest]
    split
    · rfl
    · rw [ih, effectsOf_keeps kept]
      exact modSeq_keeps q r (fun x => hf x _) s

theorem settleQueues_keeps (hf : ∀ x l, v { x with flight := l } = v x)
    (hl : ∀ x a e, v { x with accLag := a, exLag := e } = v x) (q r a e : Nat) (s : State) :
    v (seqAt r (settleQueues q a e s)) = v (seqAt r s) := by
  simp only [settleQueues]
  split
  · rfl
  · rw [commitOldest_keeps kept hf]
    exact modSeq_keeps q r (fun x => hl x _ _) s

end Kept

theorem csrSet_bun (i : Nat) (w : Word) (x : Seq) : (csrSet i w x).bun = x.bun := by
  unfold csrSet
  split <;> rfl

theorem keptByCommit_bun : KeptByCommit (·.bun) where
  handles _ _ := rfl
  csrs := csrSet_bun
  mrow _ _ := rfl
  counts _ _ _ := rfl

/-- The queues' progress leaves the bundle in execution. -/
theorem settleQueues_bun (q r a e : Nat) (s : State) : (seqAt r (settleQueues q a e s)).bun = (seqAt r s).bun :=
  settleQueues_keeps keptByCommit_bun (fun _ _ => rfl) (fun _ _ _ => rfl) q r a e s

/-! ## The slots of a bundle -/

theorem slotInstr_eq_some (w : Slot) (i : Instr) :
    slotInstr w = some i ↔ decode w = some i ∧ wellFormed i = true := by
  unfold slotInstr
  cases decode w with
  | none => simp
  | some j =>
    simp only [Option.some.injEq]
    by_cases h : wellFormed j = true
    · simp only [h, if_true, Option.some.injEq]
      exact ⟨fun e => ⟨e, e ▸ h⟩, And.left⟩
    · simp only [h, if_false, reduceCtorEq, false_iff, not_and]
      exact fun e => e ▸ h

theorem mem_slotsOf (ws : List Slot) (n : Nat) (w : Slot) (i : Instr) :
    (n, w, i) ∈ slotsOf ws ↔ ws[n]? = some w ∧ slotInstr w = some i := by
  simp only [slotsOf, List.mem_filterMap, Option.map_eq_some_iff, Prod.mk.injEq, Prod.exists, List.mem_zipIdx_iff_getElem?]
  constructor
  · rintro ⟨w', n', hw, i', hi, rfl, rfl, rfl⟩
    exact ⟨hw, hi⟩
  · rintro ⟨hw, hi⟩
    exact ⟨w, n, hw, i, hi, rfl, rfl, rfl⟩

/-- Every slot has one of the seven ranks that the order goes through. -/
theorem rank_mem (w : Slot) (i : Instr) : rank w i ∈ [0, 1, 2, 3, 4, 5, 6] := by
  unfold rank
  split_ifs <;> decide

/-- The order of execution holds every slot of the bundle and nothing else. -/
theorem mem_slotOrder (ws : List Slot) (n : Nat) (i : Instr) :
    (n, i) ∈ slotOrder ws ↔ ∃ w, (n, w, i) ∈ slotsOf ws := by
  simp only [slotOrder, List.mem_flatten, List.mem_map]
  constructor
  · rintro ⟨_, ⟨_, _, rfl⟩, hmem⟩
    obtain ⟨⟨n', w, i'⟩, hx, heq⟩ := List.mem_map.1 hmem
    cases heq
    exact ⟨w, (List.mem_filter.1 hx).1⟩
  · rintro ⟨w, h⟩
    exact ⟨_, ⟨rank w i, rank_mem w i, rfl⟩,
      List.mem_map.2 ⟨(n, w, i), List.mem_filter.2 ⟨h, beq_self_eq_true _⟩, rfl⟩⟩

/-- Words among which no slot is illegal are all instructions. -/
theorem slotInstr_of_firstIllegal {s : State} {ws : List Slot} :
    ∀ {n : Nat}, firstIllegal s ws n = none → ∀ w ∈ ws, ∃ i, slotInstr w = some i := by
  induction ws with
  | nil => simp
  | cons v ws ih =>
    intro n h
    simp only [firstIllegal] at h
    split at h
    · cases h
    · next i hi =>
      split at h
      · cases h
      · rw [List.forall_mem_cons]
        exact ⟨⟨i, hi⟩, ih h⟩

/-! ## Dispatch -/

/-- What the dispatch of a bundle says where it finds no fault: the words at the program counter have a bundle's form,
each check of R63 passes, and they are placed once the queues have moved on to where the bundle may dispatch. -/
theorem dispatch_ok {q : Nat} {s t : State} (h : dispatch q s = .ok t) :
    ∃ words ws len s1, let a := (seqAt q s).pc
      fetchBundle q a.toNat (landDue q (waitFor q [] { s with cur := q })) = .ok (words, s1) ∧
      (upToStop words).findSome? (reachFault q a s1) = none ∧
      formOf a.toNat words = .ok (ws, len) ∧
      firstIllegal s1 ws 0 = none ∧
      firstPrivileged (seqAt q s1).mode ws 0 = none ∧
      conflict (instrsOf ws) (instrsOf ws) 0 = none ∧
      loopFault (seqAt q s1) a.toNat len (instrsOf ws) = none ∧
      ((instrsOf ws).findSome? fun i => alignFault q a (a + BitVec.ofNat 64 len) i s1) = none ∧
      let placed := modSeq q (fun x => { x with bun := { Bun.none with addr := a, len := len, words := ws } }) s1
      t = if ws.all lagSlot then waitFor q (readsOf ws) placed else drain q placed := by
  unfold dispatch at h
  dsimp only at h
  split at h; · cases h
  split at h; · cases h
  next words s1 hfetch =>
  split at h; · cases h
  next hreach =>
  split at h; · cases h
  next ws len hform =>
  split at h; · cases h
  next hillegal =>
  split at h; · cases h
  next hpriv =>
  split at h; · cases h
  next hconflict =>
  split at h; · cases h
  next hloop =>
  split at h; · cases h
  next halign =>
  cases h
  exact ⟨words, ws, len, s1, hfetch, hreach, hform, hillegal, hpriv, hconflict, hloop, halign, rfl⟩

/-- A dispatched bundle's words are legal instructions. -/
theorem slotInstr_of_dispatch {q : Nat} {s t : State} (h : dispatch q s = .ok t) :
    ∀ w ∈ (seqAt q t).bun.words, ∃ i, slotInstr w = some i := by
  obtain ⟨_, ws, _, s1, -, -, -, legal, -, -, -, -, rfl⟩ := dispatch_ok h
  have words : ∀ p : State, (seqAt q (if ws.all lagSlot then waitFor q (readsOf ws) p else drain q p)).bun =
      (seqAt q p).bun := by
    intro p
    split <;> exact settleQueues_bun ..
  rw [words, seqAt_modSeq]
  exact slotInstr_of_firstIllegal legal

theorem dispatched_of_ok {q : Nat} {s t : State} (h : dispatch q s = .ok t) : dispatched q s = t := by
  simp only [dispatched, h]

theorem dispatched_of_error {q c : Nat} {w : Word} {s : State} (h : dispatch q s = .error (c, w))
    (idle : matrixBusy q s = false) :
    dispatched q s = trapEntry q (trapCause q c w s).1 (trapCause q c w s).2 (seqAt q s).pc
      (drain q { s with cur := q }) := by
  simp only [dispatched, h, idle, Bool.false_eq_true, if_false]

/-! ## The slots' execution, and a bundle's end -/

theorem runSlots_cons {n : Nat} {i : Instr} (l : List (Nat × Instr)) {r : Ran} {t : State}
    (h : exec i (atPos n r.state) = .next t) (trapped : (me t).bun.trapped = none) (park : (me t).bun.park = none) :
    runSlots ((n, i) :: l) r = runSlots l { r with state := t } := by
  simp only [runSlots, h, trapped, park]

/-- A bundle whose slots neither trap nor wait retires. -/
theorem runBundle_of_dispatch {q : Nat} {s t : State} (may : mayDispatch q s = true)
    (h : dispatch q (fetched q s) = .ok t) (words : (seqAt q t).bun.words ≠ []) :
    let r := runSlots (slotOrder (seqAt q t).bun.words) ⟨t, none, none, []⟩
    r.trap = none → r.park = none →
      runBundle q s = retire q (modSeq q (fun x => { x with wait := .none })
        (dropProbes q { r.state with cur := q })) := by
  intro r trap park
  have run : runBundle q s = runSlotsOf q (fetched q s) t := by
    simp only [runBundle, may, if_true, dispatched_of_ok h, List.isEmpty_iff, words, if_false]
  rw [run]
  unfold runSlotsOf
  simp only [r] at trap park
  simp only [trap, park, r]

/-- A bundle commits at its end where no queue lags then, or where it is of a kind that does not lag. -/
theorem retire_eq_commit {q : Nat} {s : State} (h : lagsNow q s = (0, 0) ∨ (seqAt q s).bun.mayLag = false) :
    retire q s = commit q { s with skews := s.skews.tail } := by
  rcases h with lags | kind
  · simp only [retire, lags, Nat.max_self, true_or, if_true]
  · simp only [retire, kind, Bool.not_false, or_true, if_true]

/-! ## A turn (R34) -/

section Turn
variable {k : Nat} {s : State}

theorem turn_of_starved (ready1 : ready (2 * k + 1) s = true) (starved : (coreAt k s).starved = true) :
    turn k s = runBundle (2 * k + 1) (modCore k (fun c => { c with starved := false }) s) := by
  simp [turn, ready1, starved]

theorem turn_of_neither (ready0 : ready (2 * k) s = false) (ready1 : ready (2 * k + 1) s = false) :
    turn k s = setRefused k 0 s := by
  simp [turn, ready0, ready1]

theorem turn_of_first (ready0 : ready (2 * k) s = true) (held : ((coreAt k s).starved && ready (2 * k + 1) s) = false) :
    turn k s = besides k s (runBundle (2 * k) s) := by
  simp [turn, ready0, held]

theorem turn_of_second (ready0 : ready (2 * k) s = false) (ready1 : ready (2 * k + 1) s = true)
    (held : (coreAt k s).starved = false) : turn k s = runBundle (2 * k + 1) (setRefused k 0 s) := by
  simp [turn, ready0, ready1, held]

theorem besides_of_not_ready {t : State} (h : ready (2 * k + 1) s = false) : besides k s t = setRefused k 0 t := by
  simp [besides, h]

/-- Sequencer 1's bundle issues beside one of sequencer 0 that did not issue, or that it merges with. -/
theorem besides_of_issue {t : State} (ready1 : ready (2 * k + 1) s = true) (still : ready (2 * k + 1) t = true)
    (h : (seqAt (2 * k) t).wait ≠ .none ∨ merges (nextSlots (2 * k) s) (nextSlots (2 * k + 1) s) = true) :
    besides k s t = runBundle (2 * k + 1) (setRefused k 0 t) := by
  simp [besides, ready1, still, h]

theorem besides_of_refusal {t : State} (ready1 : ready (2 * k + 1) s = true) (still : ready (2 * k + 1) t = true)
    (issued : (seqAt (2 * k) t).wait = .none)
    (apart : merges (nextSlots (2 * k) s) (nextSlots (2 * k + 1) s) = false) :
    besides k s t = setRefused k ((coreAt k t).refused + 1) t := by
  simp [besides, ready1, still, issued, apart]

end Turn

/-! ## A step -/

section Step
variable {s : State} (booted : s.rot.boot ≠ .failed)
include booted

theorem step_of_turn {k : Nat} (quiet : s.agenda = []) (due : eventDue s = none) (whose : turnOf s = some k) :
    step s = .next (endTurn k (turn k s)) := by
  simp [step, oneStep, booted, quiet, advance, due, whose, fullTurn]

theorem step_of_bundleDispatch {q : Nat} {l : List Instr} (h : s.agenda = .bundleDispatch q :: l) :
    step s = .next (endTurn (q / 2) (turn (q / 2) { s with agenda := l })) := by
  simp [step, oneStep, booted, h, fullTurn]

theorem step_of_event {e : Instr} {l : List Instr} {t : State} (h : s.agenda = e :: l)
    (other : ∀ q, e ≠ .bundleDispatch q) (run : exec e { s with agenda := l } = .next t) :
    step s = .next (runGranted t) := by
  unfold step oneStep
  rw [if_neg booted, h]
  split
  · next he => cases he
  · next q _ he => exact absurd (List.cons.inj he).1 (other q)
  · next he =>
    cases he
    rw [run]

end Step

/-- Where no push has been granted the reserve entry nothing more happens. -/
theorem runGranted_of_none {t : State} (h : ∀ p ∈ t.seqs, ∀ a b o n, p.2.wait ≠ .qpush a b o true n) :
    runGranted t = t := by
  unfold runGranted
  split
  · next p found =>
    have granted := List.find?_some found
    split at granted
    · next a b o g n hw =>
      obtain rfl : g = true := (Bool.and_eq_true_iff.1 granted).1
      exact absurd hw (h p (List.mem_of_find?_eq_some found) a b o n)
    · cases granted
  · rfl

/-- Settles O3: the cases of a turn, the slots that the checks of the dispatch let through, and the two kinds of head
that the agenda can have. -/
theorem stepRunsTheBundle : Obligations.StepRunsTheBundle := by
  refine ⟨fun s k booted => step_of_turn booted, fun k s => ?_, fun s t q may h words => ?_, fun q s => retire_eq_commit,
    fun n i l r t => runSlots_cons l, fun r => rfl, fun s t e l booted he => ⟨?_, ?_⟩⟩
  · intro q t
    refine ⟨turn_of_starved, turn_of_neither, fun ready0 ready1 => ?_, fun held => ⟨fun ready0 ready1 => ?_, ?_⟩⟩
    · rw [turn_of_first ready0 (by rw [ready1, Bool.and_false]), besides_of_not_ready ready1]
    · exact turn_of_second ready0 ready1 held
    · intro ready0 ready1 still
      rw [turn_of_first ready0 (by rw [held, Bool.false_and])]
      exact ⟨besides_of_issue ready1 still, besides_of_refusal ready1 still⟩
  · refine ⟨fun w hw => ?_, fun n i => ?_, runBundle_of_dispatch may h words⟩
    · simpa only [slotInstr_eq_some] using slotInstr_of_dispatch h w hw
    · simp only [mem_slotOrder, mem_slotsOf, slotInstr_eq_some]
  · rintro q rfl
    exact step_of_bundleDispatch booted he
  · intro other run
    have event := step_of_event booted he other run
    exact ⟨event, fun h => by rw [event, runGranted_of_none h]⟩

/-! ## Events of a sequencer -/

theorem exec_bundleDispatch {q : Nat} {s : State} (may : mayDispatch q s = true) :
    exec (.bundleDispatch q) s = .next (dispatched q (fetched q s)) := by
  change happens (dueBundleDispatch q s) s = _
  simp [dueBundleDispatch, may, happens]

theorem exec_bundleCommit_of_words {q : Nat} {s : State} (words : (seqAt q s).bun.words ≠ []) :
    exec (.bundleCommit q) s = .next (commit q { s with cur := q }) := by
  change happens (dueBundleCommit q s) s = _
  simp [dueBundleCommit, words, happens]

theorem exec_bundleCommit_of_flight {q : Nat} {s : State} {b : Bun} {l : List Bun}
    (words : (seqAt q s).bun.words = []) (flight : (seqAt q s).flight = b :: l) :
    exec (.bundleCommit q) s = .next (settleQueues q l.length l.length s) := by
  change happens (dueBundleCommit q s) s = _
  simp [dueBundleCommit, words, flight, happens]

/-- Queues that are to lag by one bundle less commit the oldest bundle, and the next ones too where the execute queue is
held further on. -/
theorem settleQueues_oldest {q : Nat} {s : State} {b : Bun} {l : List Bun} (flight : (seqAt q s).flight = b :: l) :
    let x := seqAt q s
    let a := min x.accLag l.length
    let e := min (min x.exLag l.length) (exLimit a x.flight)
    settleQueues q l.length l.length s =
      commitOldest q (l.length - max a e + 1) (modSeq q (fun x => { x with accLag := a, exLag := e }) s) := by
  intro x a e
  have le : max a e ≤ l.length := max_le (min_le_right ..) ((min_le_left ..).trans (min_le_right ..))
  have count : x.flight.length - max a e = l.length - max a e + 1 := by
    rw [flight, List.length_cons]
    omega
  rw [← count]
  simp only [settleQueues, flight, List.isEmpty_cons, Bool.false_eq_true, if_false, x, a, e]

/-- How many bundles more than the oldest commit: none where the execute queue lags no further than the access queue
lets it, for then the queues come to lag by exactly one bundle less. -/
theorem oldest_commits_alone {acc ex n : Nat} {fl : List Bun} (newest : max acc ex = n + 1)
    (within : ex ≤ exLimit acc fl) :
    n - max (min acc n) (min (min ex n) (exLimit (min acc n) fl)) = 0 := by
  rcases Nat.lt_or_ge n acc with h | h
  · rw [Nat.min_eq_right h.le]
    omega
  · rw [Nat.min_eq_left h]
    omega

/-- With no bundle in execution BUNDLE_COMMIT commits the oldest bundle of the queues. -/
theorem exec_bundleCommit_oldest {q : Nat} {s : State} {b : Bun} {l : List Bun}
    (words : (seqAt q s).bun.words = []) (flight : (seqAt q s).flight = b :: l)
    (newest : max (seqAt q s).accLag (seqAt q s).exLag = (seqAt q s).flight.length) :
    ∃ n u, exec (.bundleCommit q) s = .next (commitOldest q (n + 1) u) ∧ (seqAt q u).flight = b :: l ∧
      u.mem = s.mem ∧ u.cores = s.cores ∧ (seqAt q u).accLag ≤ l.length ∧ (seqAt q u).exLag ≤ l.length ∧
      ((seqAt q s).exLag ≤ exLimit (seqAt q s).accLag (seqAt q s).flight → n = 0) := by
  refine ⟨_, _, (exec_bundleCommit_of_flight words flight).trans (congrArg _ (settleQueues_oldest flight)), ?_, rfl, rfl,
    ?_, ?_, ?_⟩
  · rw [seqAt_modSeq, flight]
  · rw [seqAt_modSeq]
    exact Nat.min_le_right ..
  · rw [seqAt_modSeq]
    exact (Nat.min_le_left ..).trans (Nat.min_le_right ..)
  · rw [flight, List.length_cons] at newest
    exact oldest_commits_alone newest

theorem commitOldest_one {q : Nat} {u : State} {b : Bun} {l : List Bun} (flight : (seqAt q u).flight = b :: l) :
    commitOldest q 1 u = effectsOf q b (modSeq q (fun x => { x with flight := l }) u) := by
  simp only [commitOldest, flight]

theorem exec_sequencer1StarvationIssue {k : Nat} {s : State} (refused : 16 ≤ (coreAt k s).refused)
    (may : mayDispatch (2 * k + 1) s = true) :
    exec (.sequencer1StarvationIssue k) s =
      .next (modCore k (fun c => { c with refused := 0, starved := true }) s) := by
  change happens (dueSequencer1StarvationIssue k s) s = _
  simp [dueSequencer1StarvationIssue, may, Nat.not_lt.2 refused, happens]

theorem exec_pauseHoldEnd {q : Nat} {s : State} (held : (seqAt q s).pause ≠ 0) :
    exec (.pauseHoldEnd q) s = .next (modSeq q (fun x => { x with pause := 0 }) s) := by
  change happens (duePauseHoldEnd q s) s = _
  simp [duePauseHoldEnd, held, happens]

theorem exec_trapEntry {q cause : Nat} {v a : Word} {s : State} (due : trapDue q s = some (cause, v, a)) :
    exec (.trapEntry q cause v) s =
      .next (trapEntry q cause v a { (if mayDispatch q s then fetched q s else s) with cur := q }) := by
  change happens (dueTrapEntry q cause v s) s = _
  simp [dueTrapEntry, due, happens]

/-- An interlocked result that is the first on its way has no write before it, and arrives. -/
theorem exec_accessPerformed {q : Nat} {p : Pend} {l : List Pend} {s : State}
    (first : (seqAt q s).inflight = p :: l) (lock : p.lock = true) :
    exec (.accessPerformed q) s = .next (landOne q p (modSeq q (fun x => { x with inflight := l }) s)) := by
  change happens (dueAccessPerformed q s) s = _
  simp [dueAccessPerformed, arrival, first, lock, happens]

/-- Settles O51, each event by the lemma that says what it does where its condition holds. -/
theorem sequencerEvents : Obligations.SequencerEvents := by
  intro q k cause v s
  refine ⟨fun may => ⟨fun t ok => ?_, fun c w error idle => ?_, ?_⟩, exec_bundleCommit_of_words,
    fun b l => exec_bundleCommit_oldest, fun b l u => commitOldest_one, fun refused may => ?_, exec_pauseHoldEnd,
    fun a => exec_trapEntry, fun p l => exec_accessPerformed⟩
  · rw [exec_bundleDispatch may, dispatched_of_ok ok]
  · rw [exec_bundleDispatch may, dispatched_of_error error idle]
  · have frame := fetched_fetchFrame q s
    exact ⟨frame.seqs, frame.sags, frame.tasks⟩
  · refine ⟨_, exec_sequencer1StarvationIssue refused may, ?_, ?_, rfl, rfl⟩ <;> rw [coreAt_modCore]

end Sys2Proof.Machine

namespace Sys2Proof.Machine

/-! ## Guarded slots whose operand values are within their limits (R32, R62) -/

section GuardedSlots
variable {i : Instr} {g : BitVec 3} {s : State}

theorem slot_of_guard {f : State → Res} (wf : wellFormed i = true) (guard : guardTrue g s = true) :
    slot i g f s = (f s).take s := by
  simp [slot, wf, guard]

theorem slot_of_not_guard {f : State → Res} (wf : wellFormed i = true) (guard : guardTrue g s = false) :
    slot i g f s = .next s := by
  simp [slot, wf, guard]

theorem plain_of_guard {f : State → State} (wf : wellFormed i = true) (guard : guardTrue g s = true) :
    plain i g f s = .next (f s) :=
  slot_of_guard wf guard

theorem alu_of_guard {d a b : BitVec 6} {lat : Nat} {f : Word → Word → Word} (wf : wellFormed i = true)
    (guard : guardTrue g s = true) :
    alu i g d a b lat f s = .next (putS d (f (sreg a s) (sreg b s)) lat s) :=
  plain_of_guard wf guard

end GuardedSlots

/-- p0 guards nothing off. -/
theorem guardTrue_zero (s : State) : guardTrue 0 s = true := by
  simp [guardTrue, Seq.rp]

theorem preg_zero (s : State) : preg 0 s = BitVec.allOnes 256 := rfl

/-! ## Bits and fields of words -/

theorem bit_eq_testBit (x i : Nat) : bit x i = x.testBit i := Nat.testBit_eq_decide_div_mod_eq.symm

@[simp] theorem bit_toNat {w : Nat} (x : BitVec w) (i : Nat) : bit x.toNat i = x.getLsbD i := bit_eq_testBit _ _

/-- The two's complement reading of a field is the signed reading of its word. -/
theorem signed_toNat {n : Nat} (x : BitVec (n + 1)) : signed (n + 1) x.toNat = x.toInt := by
  have lt : x.toNat < 2 * 2 ^ n := by rw [← Nat.pow_succ']; exact x.isLt
  have pos : 0 < 2 ^ n := Nat.two_pow_pos n
  have high : x.toNat / 2 ^ n < 2 := (Nat.div_lt_iff_lt_mul pos).2 lt
  have top : x.toNat / 2 ^ n % 2 = 1 ↔ ¬2 * x.toNat < 2 ^ (n + 1) := by
    rw [Nat.pow_succ', Nat.mod_eq_of_lt high, Nat.mul_lt_mul_left (by decide), ← Nat.div_eq_zero_iff_lt pos]
    generalize x.toNat / 2 ^ n = half at high ⊢
    omega
  simp only [signed, Nat.add_sub_cancel, top, BitVec.toInt_eq_toNat_cond, Nat.mod_eq_of_lt x.isLt, ite_not]
  push_cast
  rfl

theorem sext64_toNat {n : Nat} (x : BitVec (n + 1)) : sext64 (n + 1) x.toNat = x.signExtend 64 := by
  rw [sext64, signed_toNat, BitVec.signExtend]

theorem dispTarget_toNat {n : Nat} (x : BitVec (n + 1)) (s : State) :
    dispTarget (n + 1) x.toNat s = (me s).bun.addr + 4 * x.signExtend 64 := by
  rw [dispTarget, sext64_toNat]

/-! ## Transfers and BRP (R71) -/

theorem transfer_of_no_fault {t : Word} {c : Ctl} {s : State} (h : targetFault s.cur t s = none) :
    transfer t c s = .ok (setCtl c s) := by
  simp only [transfer, h]

theorem transfer_of_fault {t v : Word} {k : Nat} {c : Ctl} {s : State} (h : targetFault s.cur t s = some (k, v)) :
    transfer t c s = .trap k v := by
  simp only [transfer, h]

section Brp
variable {g : BitVec 3} {p : BitVec 4} {o : BitVec 1} {i : BitVec 17} {s : State}

theorem exec_brp_of_guard (guard : guardTrue g s = true) :
    exec (.brp g p o i) s = Res.take s
      (if (preg p s).getLsbD 0 = decide (o = 1) then
        transfer ((me s).bun.addr + 4 * i.signExtend 64) (.jump ((me s).bun.addr + 4 * i.signExtend 64)) s
      else .ok s) := by
  rw [exec, execBrp, slot_of_guard rfl guard]
  simp only [dispTarget_toNat]

theorem encode_brp (g : BitVec 3) (p : BitVec 4) (o : BitVec 1) (i : BitVec 17) :
    encode (.brp g p o i) = some (BitVec.ofNat 32
      (100663296 + g.toNat * 4194304 + p.toNat * 262144 + o.toNat * 131072 + i.toNat)) := rfl

/-- The word of BRP: its major, its four fields, and what the decoder makes of them. -/
theorem brp_word (g : BitVec 3) (p : BitVec 4) (o : BitVec 1) (i : BitVec 17) :
    ∃ w : Slot, encode (.brp g p o i) = some w ∧ w.toNat / 2 ^ 25 % 64 = 0x03 ∧ decode w = some (.brp g p o i) := by
  refine ⟨_, encode_brp g p o i, ?_⟩
  generalize word : 100663296 + g.toNat * 4194304 + p.toNat * 262144 + o.toNat * 131072 + i.toNat = n
  have hg := g.isLt
  have hp := p.isLt
  have ho := o.isLt
  have hi := i.isLt
  have below : n < 2 ^ 32 := by omega
  have major : n / 33554432 % 64 = 3 := by omega
  rw [decode, BitVec.toNat_ofNat, Nat.mod_eq_of_lt below]
  refine ⟨major, ?_⟩
  rw [decodeNat_3 n major, decBRP, fld_eq g n _ (by omega), fld_eq p n _ (by omega), fld_eq o n _ (by omega),
    fld_eq i n _ (by omega)]

end Brp

/-- Settles O13: BRP's word by its fields, its execution by the outcome of the branch condition and of the target. -/
theorem branchOnPredicate : Obligations.BranchOnPredicate := by
  intro g p o i s
  refine ⟨brp_word g p o i, fun off => ?_, ?_, fun guard => ⟨fun other => ?_, fun holds fine => ?_,
    fun c v holds fault => ?_⟩⟩
  · rw [exec, execBrp, slot_of_not_guard rfl off]
  · rw [preg_zero, BitVec.getLsbD_allOnes]
    rfl
  · rw [exec_brp_of_guard guard, if_neg other, Res.take]
  · rw [exec_brp_of_guard guard, if_pos holds, transfer_of_no_fault fine, Res.take]
  · rw [exec_brp_of_guard guard, if_pos holds, transfer_of_fault fault, Res.take]

/-! ## Products (R85) -/

/-- The low and the high half of the unsigned product. -/
theorem umul_halves (x y : Word) :
    x.toNat * y.toNat = (BitVec.ofNat 64 (x.toNat * y.toNat / 2 ^ 64)).toNat * 2 ^ 64 + (x * y).toNat := by
  have high : x.toNat * y.toNat / 2 ^ 64 < 2 ^ 64 :=
    Nat.div_lt_of_lt_mul (Nat.mul_lt_mul'' x.isLt y.isLt)
  rw [BitVec.toNat_ofNat, Nat.mod_eq_of_lt high, BitVec.toNat_mul, Nat.div_add_mod']

/-- An integer that a word can hold is the signed value of the word made of it. -/
theorem toInt_ofInt_of_bounds {z : Int} (low : -2 ^ 63 ≤ z) (high : z < 2 ^ 63) : (BitVec.ofInt 64 z).toInt = z := by
  rw [BitVec.toInt_ofInt]
  exact Int.bmod_eq_of_le low high

/-- The low and the high half of the signed product, whose magnitude is at most 2^126. -/
theorem smul_halves (x y : Word) :
    x.toInt * y.toInt = (BitVec.ofInt 64 (x.toInt * y.toInt / 2 ^ 64)).toInt * 2 ^ 64 + (x * y).toNat := by
  have low : -2 ^ 126 ≤ x.toInt * y.toInt := BitVec.le_toInt_mul_toInt
  have high : x.toInt * y.toInt ≤ 2 ^ 126 := BitVec.toInt_mul_toInt_le
  have rest : ((x * y).toNat : Int) = x.toInt * y.toInt % 2 ^ 64 := by
    have product : x * y = BitVec.ofInt 64 (x.toInt * y.toInt) := by
      rw [BitVec.ofInt_mul, BitVec.ofInt_toInt, BitVec.ofInt_toInt]
    rw [product, BitVec.toNat_ofInt, Int.toNat_of_nonneg (Int.emod_nonneg _ (by decide))]
    rfl
  rw [toInt_ofInt_of_bounds (by omega) (by omega), rest]
  omega

/-! ## Division (R85) -/

section Division
variable {x y : Word}

/-- Away from zero the model's quotient is the library's. -/
theorem sdiv_of_ne_zero (h : y ≠ 0) : sdiv x y = x.sdiv y := by
  apply BitVec.eq_of_toInt_eq
  rw [sdiv, if_neg h, BitVec.toInt_ofInt, BitVec.toInt_sdiv]

theorem toInt_sdiv_of_fits (h : y ≠ 0) (fits : ¬(x = 0x8000000000000000#64 ∧ y = BitVec.allOnes 64)) :
    (sdiv x y).toInt = x.toInt.tdiv y.toInt := by
  rw [sdiv_of_ne_zero h]
  exact BitVec.toInt_sdiv_of_ne_or_ne x y (not_and_or.1 fits)

theorem toInt_srem_of_ne_zero (h : y ≠ 0) : (srem x y).toInt = x.toInt.tmod y.toInt := by
  rw [srem, if_neg h, ← BitVec.toInt_srem, BitVec.ofInt_toInt]

theorem toNat_udiv_of_ne_zero (h : y ≠ 0) : (udiv x y).toNat = x.toNat / y.toNat := by
  rw [udiv, if_neg h, BitVec.toNat_ofNat]
  exact Nat.mod_eq_of_lt ((Nat.div_le_self ..).trans_lt x.isLt)

theorem toNat_urem_of_ne_zero (h : y ≠ 0) : (urem x y).toNat = x.toNat % y.toNat := by
  rw [urem, if_neg h, BitVec.toNat_ofNat]
  exact Nat.mod_eq_of_lt ((Nat.mod_le ..).trans_lt x.isLt)

/-- Division by zero: quotients of all ones, the dividend as remainder. -/
theorem division_by_zero (x : Word) :
    sdiv x 0 = BitVec.allOnes 64 ∧ srem x 0 = x ∧ udiv x 0 = BitVec.allOnes 64 ∧ urem x 0 = x :=
  ⟨rfl, rfl, rfl, rfl⟩

/-- The one quotient that 64 bits do not hold: −2^63 by −1. -/
theorem division_overflow :
    sdiv 0x8000000000000000#64 (BitVec.allOnes 64) = 0x8000000000000000#64 ∧
      srem 0x8000000000000000#64 (BitVec.allOnes 64) = 0 := by
  decide

end Division

section
variable {g : BitVec 3} {d a b : BitVec 6} {s : State} (guard : guardTrue g s = true)
include guard

theorem exec_mul : exec (.mul g d a b) s = .next (putS d (sreg a s * sreg b s) 3 s) := by
  rw [exec, execMul, alu_of_guard rfl guard]

theorem exec_mulh : exec (.mulh g d a b) s =
    .next (putS d (BitVec.ofInt 64 ((sreg a s).toInt * (sreg b s).toInt / 2 ^ 64)) 3 s) := by
  rw [exec, execMulh, alu_of_guard rfl guard]

theorem exec_mulhu : exec (.mulhu g d a b) s =
    .next (putS d (BitVec.ofNat 64 ((sreg a s).toNat * (sreg b s).toNat / 2 ^ 64)) 3 s) := by
  rw [exec, execMulhu, alu_of_guard rfl guard]

theorem exec_div : exec (.div g d a b) s = .next (lockS d (sdiv (sreg a s) (sreg b s)) s) := by
  rw [exec, execDiv, plain_of_guard rfl guard]

theorem exec_rem : exec (.rem g d a b) s = .next (lockS d (srem (sreg a s) (sreg b s)) s) := by
  rw [exec, execRem, plain_of_guard rfl guard]

theorem exec_divu : exec (.divu g d a b) s = .next (lockS d (udiv (sreg a s) (sreg b s)) s) := by
  rw [exec, execDivu, plain_of_guard rfl guard]

theorem exec_remu : exec (.remu g d a b) s = .next (lockS d (urem (sreg a s) (sreg b s)) s) := by
  rw [exec, execRemu, plain_of_guard rfl guard]

end

/-- Settles O20: each product by its halves, each division by its edge cases and the library's laws away from them. -/
theorem productsAndDivision : Obligations.ProductsAndDivision := by
  refine ⟨fun g d a b s guard => ?_, fun g d a b s guard => ?_⟩
  · exact ⟨_, _, _, exec_mul guard, exec_mulh guard, exec_mulhu guard, umul_halves _ _, smul_halves _ _⟩
  · refine ⟨_, _, _, _, exec_div guard, exec_rem guard, exec_divu guard, exec_remu guard, fun zero => ?_,
      fun nonzero => ?_, toInt_sdiv_of_fits, fun least ones => ?_⟩
    · rw [zero]
      exact division_by_zero _
    · exact ⟨toNat_udiv_of_ne_zero nonzero, toNat_urem_of_ne_zero nonzero, toInt_srem_of_ne_zero nonzero⟩
    · rw [least, ones]
      exact division_overflow

/-! ## Bits of a scalar (R83) -/

/-- The zero bits above the highest set bit: the value is below their weight, and the next bit is set. -/
theorem leadZeros_spec (x : Word) :
    leadZeros 64 x.toNat ≤ 64 ∧ x.toNat < 2 ^ (64 - leadZeros 64 x.toNat) ∧
      (leadZeros 64 x.toNat < 64 → x.getLsbD (63 - leadZeros 64 x.toNat) = true) := by
  by_cases zero : x.toNat = 0
  · simp [leadZeros, zero]
  · have top : x.toNat.log2 < 64 := (Nat.log2_lt zero).2 x.isLt
    have count : leadZeros 64 x.toNat = 63 - x.toNat.log2 := by simp [leadZeros, zero]
    have below : 64 - (63 - x.toNat.log2) = x.toNat.log2 + 1 := by omega
    have next : 63 - (63 - x.toNat.log2) = x.toNat.log2 := by omega
    rw [count, below, next]
    exact ⟨by omega, Nat.lt_log2_self, fun _ => Nat.testBit_log2 zero⟩

/-- How far a property holds from 0 on, below `n`: up to there and no further. -/
theorem length_takeWhile_range (p : Nat → Bool) (n : Nat) :
    let k := ((List.range n).takeWhile p).length
    k ≤ n ∧ (∀ i, i < k → p i = true) ∧ (k < n → p k = false) := by
  have count : ((List.range n).takeWhile p).length = (List.range n).findIdx (fun i => !p i) := by
    rw [List.takeWhile_eq_take_findIdx_not, List.length_take]
    exact min_eq_left List.findIdx_le_length
  have le := List.findIdx_le_length (p := fun i => !p i) (xs := List.range n)
  rw [List.length_range] at le
  dsimp only
  rw [count]
  refine ⟨le, fun i hi => ?_, fun hk => ?_⟩
  · simpa using List.not_of_lt_findIdx hi
  · have found := List.findIdx_getElem (p := fun i => !p i) (w := hk.trans_eq List.length_range.symm)
    rwa [List.getElem_range, Bool.not_eq_true'] at found

theorem trailZeros_spec (x : Word) :
    trailZeros 64 x.toNat ≤ 64 ∧ (∀ i, i < trailZeros 64 x.toNat → x.getLsbD i = false) ∧
      (trailZeros 64 x.toNat < 64 → x.getLsbD (trailZeros 64 x.toNat) = true) := by
  obtain ⟨le, zeros, one⟩ := length_takeWhile_range (fun i => !bit x.toNat i) 64
  refine ⟨le, fun i hi => ?_, fun h => ?_⟩
  · rw [← bit_toNat]
    exact (Bool.not_eq_true' _).mp (zeros i hi)
  · rw [← bit_toNat]
    exact (Bool.not_eq_false' _).mp (one h)

theorem countOnes_toNat (n : Nat) (x : Word) :
    countOnes n x.toNat = ((List.range n).filter fun i => x.getLsbD i).length := by
  simp only [countOnes, bit_toNat]

/-- The value that takes in a bit at its low end in each of `n` rounds has the last bit taken in lowest. -/
theorem testBit_foldl_bits (b : Nat → Bool) (n j : Nat) :
    ((List.range n).foldl (fun v i => 2 * v + (if b i then 1 else 0)) 0).testBit j =
      (decide (j < n) && b (n - 1 - j)) := by
  induction n generalizing j with
  | zero => simp
  | succ n ih =>
    rw [List.range_succ, List.foldl_append]
    simp only [List.foldl_cons, List.foldl_nil]
    cases j with
    | zero => cases h : b n <;> simp [Nat.testBit_zero, h]
    | succ j =>
      have tail : ∀ v : Nat, (2 * v + (if b n then 1 else 0)) / 2 = v := by
        intro v
        split <;> omega
      rw [Nat.testBit_succ, tail, ih]
      simp [Nat.sub_sub, Nat.add_comm]

theorem getLsbD_reverseBits (x : Word) {i : Nat} (h : i < 64) : (reverseBits x).getLsbD i = x.getLsbD (63 - i) := by
  rw [reverseBits, BitVec.getLsbD_ofNat, testBit_foldl_bits, bit_toNat]
  simp [h]

section
variable {g : BitVec 3} {d a : BitVec 6} {s : State} (guard : guardTrue g s = true)
include guard

theorem exec_clz : exec (.clz g d a) s = .next (putS d (BitVec.ofNat 64 (leadZeros 64 (sreg a s).toNat)) 1 s) := by
  rw [exec, execClz, plain_of_guard rfl guard]

theorem exec_ctz : exec (.ctz g d a) s = .next (putS d (BitVec.ofNat 64 (trailZeros 64 (sreg a s).toNat)) 1 s) := by
  rw [exec, execCtz, plain_of_guard rfl guard]

theorem exec_popc : exec (.popc g d a) s =
    .next (putS d (BitVec.ofNat 64 ((List.range 64).filter fun i => (sreg a s).getLsbD i).length) 1 s) := by
  rw [exec, execPopc, plain_of_guard rfl guard, countOnes_toNat]

theorem exec_brev : exec (.brev g d a) s = .next (putS d (reverseBits (sreg a s)) 1 s) := by
  rw [exec, execBrev, plain_of_guard rfl guard]

theorem exec_rngh {b : BitVec 6} : exec (.rngh g d a b) s = .next (putS d (rngHash (sreg a s) (sreg b s)) 4 s) := by
  rw [exec, execRngh, alu_of_guard rfl guard]

end

theorem exec_sel {g : BitVec 3} {d a b : BitVec 6} {s : State} :
    exec (.sel g d a b) s = .next (putS d (if guardTrue g s then sreg a s else sreg b s) 1 s) := by
  rw [exec, execSel]

/-- Settles O21: each count by what it says about the bits, SEL by the guard it reads. -/
theorem bitOperations : Obligations.BitOperations := by
  intro g d a b s x
  refine ⟨fun guard => ⟨⟨_, exec_clz guard, leadZeros_spec x⟩, ⟨_, exec_ctz guard, trailZeros_spec x⟩, exec_popc guard,
    ⟨_, exec_brev guard, fun i => getLsbD_reverseBits x⟩, exec_rngh guard⟩, exec_sel, rfl, ?_⟩
  rw [exec_sel, if_pos (guardTrue_zero s)]

/-! ## Compares (R89) -/

section
variable {g : BitVec 3} {p : BitVec 4} {a : BitVec 6} {s : State} (guard : guardTrue g s = true)
include guard

theorem exec_scmp {b : BitVec 6} {c : BitVec 4} (legal : c.toNat ≤ 5) : exec (.scmp g p a b c) s =
    .next (putP p (allBits (scalarCond c.toNat (sreg a s) (sreg b s))) 1 s) := by
  have wf : wellFormed (.scmp g p a b c) = true := decide_eq_true legal
  rw [exec, execScmp, plain_of_guard wf guard]

theorem exec_scmpi {c : BitVec 2} {h : BitVec 1} {i : BitVec 5} (legal : h.toNat * 4 + c.toNat ≤ 5) :
    exec (.scmpi g c p a h i) s =
      .next (putP p (allBits (scalarCond (h.toNat * 4 + c.toNat) (sreg a s) (i.signExtend 64))) 1 s) := by
  have wf : wellFormed (.scmpi g c p a h i) = true := decide_eq_true legal
  rw [exec, execScmpi, plain_of_guard wf guard]

end

/-- Settles O22: where the condition code is one of the six, a compare writes its outcome to every bit. -/
theorem scalarCompares : Obligations.ScalarCompares := by
  intro g p a b i c cl ch s guard out all
  have conditions : ∀ n x y, scalarCond n x y = out n x y
    | 0, _, _ => rfl
    | 1, _, _ => decide_not.symm
    | 2, _, _ => rfl
    | 3, _, _ => rfl
    | 4, _, _ => rfl
    | _ + 5, _, _ => rfl
  have bits : ∀ o, allBits o = all o := fun _ => rfl
  refine ⟨fun legal => ?_, fun legal => ?_⟩
  · rw [exec_scmp guard legal, conditions, bits]
  · rw [exec_scmpi guard legal, conditions, bits]

/-! ## Scalar sums, minima and immediates (Tables 4.2 and 4.3, R87, R88) -/

theorem shiftLeft_one_eq (x : Word) : x <<< 1 = x * 2 := BitVec.shiftLeft_eq_mul_twoPow x 1
theorem shiftLeft_two_eq (x : Word) : x <<< 2 = x * 4 := BitVec.shiftLeft_eq_mul_twoPow x 2
theorem shiftLeft_three_eq (x : Word) : x <<< 3 = x * 8 := BitVec.shiftLeft_eq_mul_twoPow x 3

theorem smin_eq (x y : Word) : (if x.toInt ≤ y.toInt then x else y) = if y.slt x then y else x := by
  simp only [BitVec.slt_iff_toInt_lt, ← not_le, ite_not]

theorem smax_eq (x y : Word) : (if x.toInt ≤ y.toInt then y else x) = if x.slt y then y else x := by
  simp only [BitVec.slt_iff_toInt_lt]
  split_ifs with h k k
  · rfl
  · exact (BitVec.eq_of_toInt_eq (le_antisymm h (not_lt.1 k))).symm
  · omega
  · rfl

theorem umin_eq (x y : Word) : (if x.toNat ≤ y.toNat then x else y) = if y < x then y else x := by
  simp only [BitVec.lt_def, ← not_le, ite_not]

theorem umax_eq (x y : Word) : (if x.toNat ≤ y.toNat then y else x) = if x < y then y else x := by
  simp only [BitVec.lt_def]
  split_ifs with h k k
  · rfl
  · exact (BitVec.eq_of_toNat_eq (le_antisymm h (not_lt.1 k))).symm
  · omega
  · rfl

theorem allBits_ne_zero (v : Word) : allBits (decide (v ≠ 0)) = if v = 0 then 0 else BitVec.allOnes 256 := by
  by_cases h : v = 0 <;> simp [allBits, h]

/-- MOVH keeps the low half-word, puts its immediate above it, and fills the upper word with the immediate's sign. -/
theorem getLsbD_movh (i : BitVec 16) (x : Word) :
    let v := (i ++ x.setWidth 16).signExtend 64
    (∀ j, j < 16 → v.getLsbD j = x.getLsbD j) ∧ (∀ j, j < 16 → v.getLsbD (16 + j) = i.getLsbD j) ∧
      (∀ j, 32 ≤ j → j < 64 → v.getLsbD j = i.getLsbD 15) := by
  refine ⟨fun j low => ?_, fun j low => ?_, fun j high word => ?_⟩
  · have inside : j < 64 := by omega
    rw [BitVec.getLsbD_signExtend, if_pos (by omega), BitVec.getLsbD_append, if_pos low]
    simp [inside, low]
  · have inside : 16 + j < 64 := by omega
    rw [BitVec.getLsbD_signExtend, if_pos (by omega), BitVec.getLsbD_append, if_neg (by omega)]
    simp [inside]
  · rw [BitVec.getLsbD_signExtend, if_neg (by omega), BitVec.msb_append]
    simp [word, BitVec.msb_eq_getLsbD_last]

/-! ## Predicates (R90, R91) -/

/-- Bit `j` is in the first `n` lanes of `w` bytes where its lane is one of them. -/
theorem getLsbD_firstLanes {w : Nat} (n : Nat) (pos : 0 < w) (whole : w ∣ 256) {j : Nat} (h : j < 256) :
    (firstLanes w n).getLsbD j = decide (j / w < n) := by
  have inside : j / w < 256 / w := (Nat.div_lt_iff_lt_mul pos).2 (by rwa [Nat.div_mul_cancel whole])
  rw [firstLanes, BitVec.getLsbD_ofNat, Nat.testBit_two_pow_sub_one, decide_eq_true h, Bool.true_and,
    decide_eq_decide, ← Nat.div_lt_iff_lt_mul pos, lt_min_iff]
  exact and_iff_left inside

theorem activeLanes_length (p : PWord) (w : Nat) :
    (activeLanes p w).length = (List.range (256 / w)).countP fun i => p.getLsbD (i * w) :=
  List.countP_eq_length_filter.symm

/-- The first index below `n` with a property, `n` where none has it. -/
theorem headD_filter_range (p : Nat → Bool) (n : Nat) :
    let f := ((List.range n).filter p).headD n
    f ≤ n ∧ (∀ i, i < f → p i = false) ∧ (f < n → p f = true) := by
  dsimp only
  rw [List.headD_eq_head?_getD, List.head?_filter]
  cases found : (List.range n).find? p with
  | none =>
    have none_below := List.find?_range_eq_none.1 found
    exact ⟨le_rfl, fun i hi => by simpa using none_below i hi, fun h => absurd h (lt_irrefl n)⟩
  | some f =>
    obtain ⟨holds, below, first⟩ := List.find?_range_eq_some.1 found
    exact ⟨(List.mem_range.1 below).le, fun i hi => by simpa using first i hi, fun _ => holds⟩

theorem widthOf_dvd (w : BitVec 2) : widthOf w ∣ 256 := by
  revert w
  decide

/-! ## Crossings (R92 to R95) -/

/-- A scalar operand reads the same after a vector operand is looked at. -/
theorem sreg_of_srcOf {v : BitVec 6} {s t : State} {x : VWord} (h : srcOf v s = some (x, t)) (n : BitVec 6) :
    sreg n t = sreg n s := by
  rcases srcOf_state h with rfl | ⟨k, rfl⟩
  · rfl
  · exact sreg_addHop n _ s

theorem sreg_of_destOf {v : BitVec 6} {s t : State} {e : Nat} (h : destOf v s = some (e, t)) (n : BitVec 6) :
    sreg n t = sreg n s := by
  rcases destOf_state h with rfl | ⟨k, rfl⟩
  · rfl
  · exact sreg_addHop n _ s

/-- A 64-bit lane as a word. -/
theorem ofNat_laneOf (v : VWord) (n : Nat) : BitVec.ofNat 64 (laneOf v 8 n) = (v >>> (64 * n)).setWidth 64 := by
  apply BitVec.eq_of_toNat_eq
  simp [laneOf]

theorem exec_xvs {g : BitVec 3} {d a b : BitVec 6} {s t : State} {v : VWord} (guard : guardTrue g s = true)
    (h : srcOf a s = some (v, t)) : exec (.xvs g d a b) s =
      .next (putS d ((v >>> (64 * ((sreg b s).toNat % 32))).setWidth 64) 4 t) := by
  rw [exec, execXvs, slot_of_guard rfl guard, withVec_of_srcOf h, Res.take, ofNat_laneOf, laneArg, sreg_of_srcOf h]

theorem exec_xsvl {g : BitVec 3} {d a b : BitVec 6} {s t : State} {e : Nat} (guard : guardTrue g s = true)
    (h : destOf d s = some (e, t)) : exec (.xsvl g d a b) s =
      .next (issue (.vlane e ((sreg b s).toNat % 32)) ((sreg a s).setWidth 2048) 4 false t) := by
  rw [exec, execXsvl, slot_of_guard rfl guard, withDest_of_destOf h, Res.take, laneArg, sreg_of_destOf h,
    sreg_of_destOf h]

theorem exec_xsp {g : BitVec 3} {p : BitVec 4} {a b : BitVec 6} {s : State} (guard : guardTrue g s = true) :
    exec (.xsp g p a b) s = .next (if p = 0 then s
      else issue (.pquarter p.toNat ((sreg b s).toNat % 4)) ((sreg a s).setWidth 2048) 4 false s) := by
  rw [exec, execXsp, plain_of_guard rfl guard]

section
variable {g : BitVec 3} {d a b : BitVec 4} {w : BitVec 2} {n : BitVec 6} {s : State} (guard : guardTrue g s = true)
include guard

theorem plogic_of_guard {i : Instr} {f : PWord → PWord → PWord} (wf : wellFormed i = true) :
    plogic i g d a b f s = .next (putP d (f (preg a s) (preg b s)) 1 s) :=
  plain_of_guard wf guard

theorem exec_psetw : exec (.psetw g d w n) s = .next (putP d (firstLanes (widthOf w) (sreg n s).toNat) 1 s) := by
  rw [exec, execPsetw, plain_of_guard rfl guard]

theorem exec_pcnt : exec (.pcnt g n a w) s = .next (putS n (BitVec.ofNat 64
    ((List.range (256 / widthOf w)).countP fun i => (preg a s).getLsbD (i * widthOf w))) 1 s) := by
  rw [exec, execPcnt, plain_of_guard rfl guard, activeLanes_length]

theorem exec_pfirst : exec (.pfirst g n a w) s =
    .next (putS n (BitVec.ofNat 64 ((activeLanes (preg a s) (widthOf w)).headD (256 / widthOf w))) 1 s) := by
  rw [exec, execPfirst, plain_of_guard rfl guard]

end

/-- Settles O23: the predicate operations by their lanes, the crossings by what their vector operand gives. -/
theorem predicatesAndCrossings : Obligations.PredicatesAndCrossings := by
  refine ⟨fun g d a b w n s guard => ⟨?_, ?_, ?_, ?_, ?_, ?_, exec_pcnt guard, ?_⟩, fun g m d a b p s guard =>
    ⟨fun v t => exec_xvs guard, fun e t => exec_xsvl guard, fun other => ?_, exec_xsp guard, ?_, ?_, ?_⟩⟩
  · rw [exec, execPand, plogic_of_guard guard rfl]
  · rw [exec, execPor, plogic_of_guard guard rfl]
  · rw [exec, execPxor, plogic_of_guard guard rfl]
  · rw [exec, execPandn, plogic_of_guard guard rfl]
  · rw [exec, execPnot, plain_of_guard rfl guard]
  · exact ⟨_, exec_psetw guard, fun j => getLsbD_firstLanes _ (Nat.two_pow_pos _) (widthOf_dvd w)⟩
  · exact ⟨_, exec_pfirst guard, headD_filter_range _ _⟩
  · rw [exec_xsp guard, if_neg other]
  · rw [exec, execXps, plain_of_guard rfl guard]
  · rw [exec, execXmp, plain_of_guard rfl guard]
  · rw [exec, execXpm, plain_of_guard rfl guard]

section
variable {g : BitVec 3} {d a : BitVec 6} {s : State} (guard : guardTrue g s = true)
include guard

theorem exec_tsti {p : BitVec 4} {i : BitVec 8} : exec (.tsti g p a i) s =
    .next (putP p (if sreg a s &&& i.setWidth 64 = 0 then 0 else BitVec.allOnes 256) 1 s) := by
  rw [exec, execTsti, plain_of_guard rfl guard, allBits_ne_zero]

theorem exec_movh {i : BitVec 16} : exec (.movh g d i) s =
    .next (putS d ((i ++ (sreg d s).setWidth 16).signExtend 64) 1 s) := by
  rw [exec, execMovh, plain_of_guard rfl guard]

end

/-- Settles O19: each operation is its slot's function of the operands, the minima, maxima, TSTI and MOVH by the lemmas
about theirs. -/
theorem scalarArithmetic : Obligations.ScalarArithmetic := by
  refine ⟨fun g d a b s guard => ?_, fun g d a k p i10 i8 i16 s guard => ?_⟩
  · intro x y n r
    and_intros
    · rw [exec, execAdd, alu_of_guard rfl guard]
    · rw [exec, execSub, alu_of_guard rfl guard]
    · rw [exec, execAnd, alu_of_guard rfl guard]
    · rw [exec, execOr, alu_of_guard rfl guard]
    · rw [exec, execXor, alu_of_guard rfl guard]
    · rw [exec, execAndn, alu_of_guard rfl guard]
    · rw [exec, execShl, alu_of_guard rfl guard, shamt]
    · rw [exec, execShr, alu_of_guard rfl guard, shamt]
    · rw [exec, execSra, alu_of_guard rfl guard, shamt]
    · rw [exec, execRot, alu_of_guard rfl guard, shamt]
    · rw [exec, execMin, alu_of_guard rfl guard, smin_eq]
    · rw [exec, execMax, alu_of_guard rfl guard, smax_eq]
    · rw [exec, execMinu, alu_of_guard rfl guard, umin_eq]
    · rw [exec, execMaxu, alu_of_guard rfl guard, umax_eq]
    · rw [exec, execSh1add, alu_of_guard rfl guard, shiftLeft_one_eq]
    · rw [exec, execSh2add, alu_of_guard rfl guard, shiftLeft_two_eq]
    · rw [exec, execSh3add, alu_of_guard rfl guard, shiftLeft_three_eq]
  · refine ⟨?_, ?_, ?_, ?_, exec_tsti guard, ?_, ?_, ?_, ?_, ?_, _, exec_movh guard, getLsbD_movh i16 (sreg d s)⟩
    · rw [exec, execAddi, plain_of_guard rfl guard]
    · rw [exec, execAndi, plain_of_guard rfl guard]
    · rw [exec, execOri, plain_of_guard rfl guard]
    · rw [exec, execXori, plain_of_guard rfl guard]
    · rw [exec, execShli, plain_of_guard rfl guard]
    · rw [exec, execShri, plain_of_guard rfl guard]
    · rw [exec, execSrai, plain_of_guard rfl guard]
    · rw [exec, execRoti, plain_of_guard rfl guard]
    · rw [exec, execMovw, plain_of_guard rfl guard]

end Sys2Proof.Machine

namespace Sys2Proof.Machine

/-! ## A running copy and its channel (R165) -/

/-- A channel's running copy after it is set. -/
@[simp] theorem run_setRun (k ch : Nat) (r : Option CRun) (s : State) :
    (look Chan.init ch (coreAt k (setRun k ch r s)).chans).run = r := by
  rw [setRun, coreAt_modCore, look_upd_same]

/-- Setting a running copy changes no accumulator. -/
@[simp] theorem acc_setRun (j k ch : Nat) (r : Option CRun) (s : State) :
    (coreAt j (setRun k ch r s)).acc = (coreAt j s).acc := by
  rw [setRun]
  by_cases h : j = k
  · rw [h, coreAt_modCore]
  · rw [coreAt_modCore_ne h]

/-- A step takes of a copy nothing but lines of the tables it works under. -/
theorem Copy.after_with_tmem (s t : State) (cp : Copy) : { cp.after s t with tmem := cp.tmem } = cp := by
  unfold Copy.after
  split <;> rfl

theorem Copy.after_of_no_upsets {s : State} (h : s.upsets = []) (t : State) (cp : Copy) : cp.after s t = cp := by
  simp [Copy.after, h]

theorem CRun.after_of_no_upsets {s : State} (h : s.upsets = []) (t : State) (r : CRun) : r.after s t = r := by
  rw [CRun.after, Copy.after_of_no_upsets h]

/-! ## COPY_START -/

/-- The running copy that a start leaves: the copy that was next in the queue, but for what memory errors took of its
tables, with no element delivered; what a fill receives goes to no core's window. -/
structure StartsCopy (p : Copy) (s : State) (r : CRun) : Prop where
  copy : { r.copy with tmem := p.tmem } = p
  pos : r.pos = 0
  unharmed : s.upsets = [] → r.copy = p
  deliv : p.fill.isSome = true → r.deliv = 0

/-- A copy that starts runs, whether or not its template could be read and is legal (R165, R168). -/
theorem exec_copyStart {k ch : Nat} {s : State} {p : Copy} {l : List Copy}
    (free : (look Chan.init ch (coreAt k s).chans).run = none)
    (next : (look Chan.init ch (coreAt k s).chans).queue = p :: l) (idle : matrixBusy p.q s = false) :
    ∃ t r, exec (.copyStart k ch) s = .next (setRun k ch (some r) t) ∧ StartsCopy p s r := by
  change ∃ t r, happens (dueCopyStart k ch s) s = _ ∧ _
  simp only [dueCopyStart, free, next, idle, Bool.false_eq_true, if_false]
  generalize hs1 : modCore k _ s = s1
  have upsets : s1.upsets = s.upsets := hs1 ▸ rfl
  have unharmed : s.upsets = [] → ∀ t, p.after s1 t = p := fun h t => Copy.after_of_no_upsets (upsets.trans h) t p
  split
  case h_1 e s2 _ =>
    exact ⟨_, _, rfl, Copy.after_with_tmem .., rfl, fun h => unharmed h _, fun _ => rfl⟩
  case h_2 t s2 _ =>
    split
    · exact ⟨_, _, rfl, Copy.after_with_tmem .., rfl, fun h => unharmed h _, fun _ => rfl⟩
    · exact ⟨_, _, rfl, Copy.after_with_tmem .., rfl, fun h => unharmed h _, fun fill => if_pos fill⟩

/-! ## The delivery of elements (R167) -/

section Deliver
variable {k n : Nat} {r : CRun} {s s1 : State}

theorem deliverElems_of_read_error {e : Nat} (read : elemRead k r r.pos s = .error (e, s1)) :
    deliverElems k (n + 1) r s = ({ r with err := e, stop := true }.after s s1, s1) := by
  simp only [deliverElems, read]

variable {v : Nat} {sat : Bool} (read : elemRead k r r.pos s = .ok (v, sat, s1))
include read

theorem deliverElems_of_write {s2 : State} (stored : (tAccw r.tmpl && r.copy.fill.isNone) = false)
    (write : elemWrite k r r.pos (leBytes (tEd r.tmpl) v) s1 = .ok s2) :
    deliverElems k (n + 1) r s = deliverElems k n ({ r with
      pos := r.pos + 1, satn := min (r.satn + (if sat then 1 else 0)) 0xFFFFFFFF }.after s s2) s2 := by
  simp only [deliverElems, read, stored, write, Bool.false_eq_true, if_false]

theorem deliverElems_of_write_error {e : Nat} {s2 : State} (stored : (tAccw r.tmpl && r.copy.fill.isNone) = false)
    (write : elemWrite k r r.pos (leBytes (tEd r.tmpl) v) s1 = .error (e, s2)) :
    deliverElems k (n + 1) r s = ({ r with err := e, stop := true }.after s s2, s2) := by
  simp only [deliverElems, read, stored, write, Bool.false_eq_true, if_false]

theorem deliverElems_of_gather {o : Nat} (added : (tAccw r.tmpl && r.copy.fill.isNone) = true)
    (offset : accOffset r.tmpl r.pos = .ok o) :
    deliverElems k (n + 1) r s = deliverElems k n ({ r with
      pos := r.pos + 1, satn := min (r.satn + (if sat then 1 else 0)) 0xFFFFFFFF,
      gather := r.gather ++ [(o, BitVec.ofNat 32 v)] }.after s s1) s1 := by
  simp only [deliverElems, read, added, offset, if_true]

theorem deliverElems_of_gather_error {e : Nat} (added : (tAccw r.tmpl && r.copy.fill.isNone) = true)
    (offset : accOffset r.tmpl r.pos = .error e) :
    deliverElems k (n + 1) r s = ({ r with err := e, stop := true }.after s s1, s1) := by
  simp only [deliverElems, read, added, offset, if_true]

end Deliver

/-- The search for the end of a step goes on from an element, and no further than it may. -/
theorem stepEnd_bounds (r : CRun) (n : Nat) : ∀ i, i ≤ stepEnd r n i ∧ stepEnd r n i ≤ i + n := by
  induction n with
  | zero => exact fun i => ⟨le_rfl, le_rfl⟩
  | succ n ih =>
    intro i
    simp only [stepEnd]
    split
    · exact ⟨le_rfl, Nat.le_add_right ..⟩
    · obtain ⟨low, high⟩ := ih (i + 1)
      omega

/-- A step of a copy that is not at its end delivers an element or more, and none past the last. -/
theorem runLength_bounds {r : CRun} (h : r.pos < tTotal r.tmpl) :
    1 ≤ runLength r ∧ r.pos + runLength r ≤ tTotal r.tmpl := by
  obtain ⟨low, high⟩ := stepEnd_bounds r (tTotal r.tmpl - r.pos - 1) (r.pos + 1)
  unfold runLength
  omega

section Events
variable {k ch : Nat} {r : CRun} {s : State} (running : (look Chan.init ch (coreAt k s).chans).run = some r)
include running

theorem exec_copyElementDelivery (going : r.stop = false) (here : r.rem = none) (left : r.pos < tTotal r.tmpl) :
    exec (.copyElementDelivery k ch) s = .next
      (setRun k ch (some (deliverElems k (runLength r) r s).1) (deliverElems k (runLength r) r s).2) := by
  change happens (dueCopyElementDelivery k ch s) s = _
  simp [dueCopyElementDelivery, running, going, here, left, happens]

theorem exec_copyComplete (ended : copyOver r = true) (fill : r.copy.fill = none) :
    exec (.copyComplete k ch) s = .next (finishCopy k ch r s) := by
  change happens (dueCopyComplete k ch s) s = _
  simp [dueCopyComplete, running, ended, fill, happens]

end Events

/-! ## Completion (R171) -/

theorem dropUpsets_fetchFrame (l : List Nat) (s : State) : FetchFrame s (dropUpsets l s) := rfl

theorem healStore_fetchFrame (k : Option Nat) (p : Place) (n : Nat) (s : State) : FetchFrame s (healStore k p n s) := by
  unfold healStore
  split
  · exact .refl s
  · exact (dropUpsets_fetchFrame ..).trans (heal_fetchFrame ..)

theorem l1Snoop_fetchFrame (k : Nat) (l : List Byte) : ∀ pa s, FetchFrame s (l1Snoop k pa l s) := by
  induction l with
  | nil => exact fun _ => .refl
  | cons b l ih => exact fun pa s => (modCore_fetchFrame ..).trans (ih (pa + 1) _)

theorem chWrite_fetchFrame (k : Nat) (p : Place) (b : List Byte) (s : State) : FetchFrame s (chWrite k p b s) := by
  unfold chWrite
  extract_lets s1
  have healed : FetchFrame s s1 := healStore_fetchFrame ..
  split
  · exact (healed.trans (setMem_fetchFrame ..)).trans (l1Snoop_fetchFrame ..)
  · exact healed.trans (modCore_fetchFrame ..)
  · exact .refl s

theorem chWrites_fetchFrame (k : Nat) (ps : List (Place × Nat)) : ∀ b s, FetchFrame s (chWrites k ps b s) := by
  induction ps with
  | nil => exact fun _ => .refl
  | cons p ps ih => exact fun b s => (chWrite_fetchFrame ..).trans (ih (b.drop p.2) _)

section CopyWrite
variable {k a : Nat} {cp : Copy} {b : List Byte} {s t : State}

/-- An access of a copy fails before its tables are met, or after that, or goes on from there. -/
theorem copyAt_cases {α β : Type} (as : List (Nat × Nat)) (err : Nat) (x : View → Option α)
    (f : α → State → Done β) :
    copyAt k cp as err x s f = .error (0x18, s) ∨
      copyAt k cp as err x s f = .error (err, healTables (some k) (copyView k cp s) as s) ∨
      ∃ y, copyAt k cp as err x s f = f y (healTables (some k) (copyView k cp s) as s) := by
  unfold copyAt
  extract_lets v
  split
  · exact .inl rfl
  · split
    · exact .inr (.inl rfl)
    · exact .inr (.inr ⟨_, rfl⟩)

theorem copyWrite_error_fetchFrame {e : Nat} (h : copyWrite k cp a b s = .error (e, t)) : FetchFrame s t := by
  unfold copyWrite at h
  rcases copyAt_cases (cut a b.length) 0x09 _ _ with early | late | ⟨y, done⟩
  · cases early.symm.trans h
    exact .refl s
  · cases late.symm.trans h
    exact healTables_fetchFrame ..
  · cases done.symm.trans h

theorem copyWrite_ok_fetchFrame (h : copyWrite k cp a b s = .ok t) : FetchFrame s t := by
  unfold copyWrite at h
  rcases copyAt_cases (cut a b.length) 0x09 _ _ with early | late | ⟨y, done⟩
  · cases early.symm.trans h
  · cases late.symm.trans h
  · cases done.symm.trans h
    exact ((healTables_fetchFrame ..).trans (marked_fetchFrame ..)).trans (chWrites_fetchFrame ..)

end CopyWrite

/-- A completed copy's ID is the channel's, on which nothing runs then. -/
theorem finishCopy_chan (k ch : Nat) (r : CRun) (s : State) :
    (look Chan.init ch (coreAt k (finishCopy k ch r s)).chans).run = none ∧
      (look Chan.init ch (coreAt k (finishCopy k ch r s)).chans).done = r.copy.id := by
  simp only [finishCopy, coreEvent, coreAt_modSeq, coreAt_modCore, look_upd_same, and_self]

/-- A completion is an event to both sequencers of the core and changes no sequencer beside. -/
theorem finishCopy_seqs (k ch : Nat) (r : CRun) (s : State) :
    (finishCopy k ch r s).seqs = (coreEvent k s).seqs := by
  have events : ∀ {t u : State}, t.seqs = u.seqs → (coreEvent k t).seqs = (coreEvent k u).seqs := fun h => by
    simp only [coreEvent, modSeq, seqAt, h]
  unfold finishCopy
  extract_lets s0 s1 s2
  refine events (?_ : s1.seqs = s.seqs)
  have released : s0.seqs = s.seqs := release_seqs ..
  unfold s1
  split
  · exact released
  · split
    · next h => exact (copyWrite_ok_fetchFrame h).seqs.trans released
    · next h => exact (copyWrite_error_fetchFrame h).seqs.trans released

/-- Both sequencers of the core see the completion. -/
theorem finishCopy_evt (k ch : Nat) (r : CRun) (s : State) :
    (seqAt (2 * k) (finishCopy k ch r s)).evt.getLsbD 0 = true ∧
      (seqAt (2 * k + 1) (finishCopy k ch r s)).evt.getLsbD 0 = true := by
  have apart : 2 * k ≠ 2 * k + 1 := by omega
  simp [seqAt_of_seqs (finishCopy_seqs k ch r s), coreEvent, seqAt_modSeq_ne apart]

theorem finishCopy_handles (k ch q : Nat) (r : CRun) (s : State) :
    (seqAt q (finishCopy k ch r s)).handles = (seqAt q s).handles := by
  rw [seqAt_of_seqs (finishCopy_seqs k ch r s)]
  exact (modSeq_keeps (v := Seq.handles) (2 * k + 1) q (fun _ => by rfl) _).trans
    (modSeq_keeps (2 * k) q (fun _ => by rfl) s)

/-! ## Fills (R175) -/

/-- A record after a change of it, where there is one. -/
theorem find_adj_same {α : Type} (k : Nat) (f : α → α) (m : Map α) : find k (adj k f m) = (find k m).map f := by
  unfold adj
  cases h : find k m with
  | none => exact h
  | some v => exact find_upd_same ..

/-- A property that asking for a fill and handing it to a channel keep is kept by all that a handle asks for. -/
theorem feed_induction {P : State → Prop} (q hn : Nat)
    (ask : ∀ s, P s → P (modSeq q (fun x =>
      { x with handles := adj hn (fun h => { h with asked := h.asked + 1 }) x.handles }) s))
    (start : ∀ k ch w p f s, P s → P (startCopy k ch q w p f s)) (n : Nat) : ∀ s, P s → P (feed q hn n s) := by
  induction n with
  | zero => exact fun _ h => h
  | succ n ih =>
    intro s h
    simp only [feed]
    split
    · exact h
    · split
      · exact ih _ (start _ _ _ _ _ _ (ask _ h))
      · exact h

/-- A copy handed to a channel completes none. -/
theorem startCopy_done (j c k ch q : Nat) (w : BitVec 32) (p : Word) (f : Option Fill) (s : State) :
    (look Chan.init c (coreAt j (startCopy k ch q w p f s)).chans).done =
      (look Chan.init c (coreAt j s).chans).done := by
  unfold startCopy
  by_cases core : j = k
  · subst core
    rw [coreAt_modCore]
    by_cases chan : c = ch
    · subst chan
      rw [look_upd_same]
    · rw [look_upd_ne _ _ chan]
  · rw [coreAt_modCore_ne core]

/-- What the completion of a fill leaves: its ID is its channel's, the handle with the given binding has come to have
`filled` entries, and its sequencer sees the event of a stream. -/
structure FillDone (k ch : Nat) (id : BitVec 32) (q hn serial filled : Nat) (s : State) : Prop where
  done : (look Chan.init ch (coreAt k s).chans).done = id
  entry : ∃ g, find hn (seqAt q s).handles = some g ∧ g.filled = filled ∧ g.serial = serial
  seen : (seqAt q s).evt.getLsbD 1 = true

/-- The fills that a handle asks for next take nothing of that back. -/
theorem feed_keeps_fillDone {k ch q hn serial filled : Nat} {id : BitVec 32} (n : Nat) {s : State}
    (h : FillDone k ch id q hn serial filled s) : FillDone k ch id q hn serial filled (feed q hn n s) := by
  refine feed_induction (P := FillDone k ch id q hn serial filled) q hn
    (fun t ⟨done, ⟨g, bound, grown, same⟩, seen⟩ => ?_) (fun k' ch' w p f t kept => ?_) n s h
  · refine ⟨done, ⟨{ g with asked := g.asked + 1 }, ?_, grown, same⟩, ?_⟩
    · rw [seqAt_modSeq, find_adj_same, bound, Option.map_some]
    · rwa [seqAt_modSeq]
  · obtain ⟨done, entry, seen⟩ := kept
    have seq := seqAt_of_seqs (startCopy_seqs k' ch' q w p f t) q
    exact ⟨(startCopy_done ..).trans done, seq ▸ entry, seq ▸ seen⟩

/-- The state once a fill of a binding that stands is complete: the copy is finished, FILLED grows by one, the sequencer
sees an event, and the handle asks for its next fills. -/
def filledState (k ch : Nat) (r : CRun) (f : Fill) (s : State) : State :=
  feed f.q f.h 256 (modSeq f.q (fun x =>
    { x with evt := x.evt ||| 2#3, handles := adj f.h (fun h => { h with filled := h.filled + 1 }) x.handles })
    (finishCopy k ch r s))

section FillComplete
variable {f : Fill} {h : Handle} {s : State} (bound : find f.h (seqAt f.q s).handles = some h)
include bound

theorem exec_streamFillComplete {k ch : Nat} {r : CRun} (running : (look Chan.init ch (coreAt k s).chans).run = some r)
    (ended : copyOver r = true) (fill : r.copy.fill = some f) (stands : h.serial = f.serial) :
    exec (.streamFillComplete k ch) s = .next (filledState k ch r f s) := by
  change happens (dueStreamFillComplete k ch s) s = _
  have still : fillHandle f (finishCopy k ch r s) = some h := by
    simp only [fillHandle, finishCopy_handles, bound, stands, if_true]
  simp [dueStreamFillComplete, running, fill, ended, still, happens, filledState]

theorem filledState_fillDone (k ch : Nat) (r : CRun) :
    FillDone k ch r.copy.id f.q f.h h.serial (h.filled + 1) (filledState k ch r f s) := by
  refine feed_keeps_fillDone 256 ⟨(finishCopy_chan k ch r s).2, ⟨{ h with filled := h.filled + 1 }, ?_, rfl, rfl⟩, ?_⟩
  · rw [seqAt_modSeq, find_adj_same, finishCopy_handles, bound, Option.map_some]
  · simp

end FillComplete

/-! ## The pass of an add-on-write (R145, R169) -/

/-- The bits of an accumulator's element once one gathered value is added to it. -/
def accSum (int : Bool) (v : Nat) (p : Nat × BitVec 32) : Nat :=
  (if int then (limit 32 (signed 32 v + signed 32 p.2.toNat)).1
    else (fold32 false v (fp32.dec false p.2.toNat)).1) % 2 ^ 32

/-- A gathered value is added to its own element, and to no other. -/
theorem look_accAddOne (int : Bool) (b o : Nat) (m : Map (BitVec 32)) (p : Nat × BitVec 32) :
    (look 0 (b * 32768 + o) (accAddOne int b m p)).toNat =
      if p.1 = o then accSum int (look 0 (b * 32768 + o) m).toNat p else (look 0 (b * 32768 + o) m).toNat := by
  unfold accAddOne
  extract_lets key old new
  by_cases same : p.1 = o
  · subst same
    rw [look_put_same, BitVec.toNat_ofNat, if_pos rfl, accSum]
  · rw [look_put_ne 0 _ (show b * 32768 + o ≠ key by omega), if_neg same]

/-- Each element receives the values gathered for it, in their order. -/
theorem look_foldl_accAddOne (int : Bool) (b o : Nat) (l : List (Nat × BitVec 32)) : ∀ m : Map (BitVec 32),
    (look 0 (b * 32768 + o) (l.foldl (accAddOne int b) m)).toNat =
      (l.filter fun p => p.1 == o).foldl (accSum int) (look 0 (b * 32768 + o) m).toNat := by
  induction l with
  | nil => exact fun _ => rfl
  | cons p l ih =>
    intro m
    rw [List.foldl_cons, ih, look_accAddOne]
    by_cases same : p.1 = o <;> simp [same]

section Pass
variable {k ch : Nat} {r : CRun} {s : State} (running : (look Chan.init ch (coreAt k s).chans).run = some r)
  (due : passDue r = true)
include running due

theorem exec_addOnWritePass {d : Band} (band : find (accBank k r.tmpl).2 (coreAt (accBank k r.tmpl).1 s).bands = some d)
    (kind : tDfmt r.tmpl = if d.int then 9 else 0) :
    exec (.addOnWritePass k ch false) s = .next (setRun k ch (some { r with passed := true, gather := [] })
      (modCore (accBank k r.tmpl).1 (fun x =>
        { x with acc := r.gather.foldl (accAddOne d.int (accBank k r.tmpl).2) x.acc }) s)) := by
  change happens (dueAddOnWritePass k ch false s) s = _
  simp [dueAddOnWritePass, running, due, band, kind, happens]

/-- A pass that collides with the unit's word, or whose bank has no band, changes no accumulator. -/
theorem exec_addOnWritePass_refused {collides : Bool}
    (word : collides = true → unitWrites (accBank k r.tmpl).1 (accBank k r.tmpl).2 (tPhase r.tmpl) s = true)
    (refused : collides = true ∨ find (accBank k r.tmpl).2 (coreAt (accBank k r.tmpl).1 s).bands = none) :
    ∃ t, exec (.addOnWritePass k ch collides) s = .next t ∧ ∀ j, (coreAt j t).acc = (coreAt j s).acc := by
  have may : (!passDue r || (collides && !unitWrites (accBank k r.tmpl).1 (accBank k r.tmpl).2 (tPhase r.tmpl) s)) =
      false := by
    cases collides with
    | false => simp [due]
    | true => simp [due, word rfl]
  change ∃ t, happens (dueAddOnWritePass k ch collides s) s = _ ∧ _
  simp only [dueAddOnWritePass, running, may, Bool.false_eq_true, if_false]
  cases band : find (accBank k r.tmpl).2 (coreAt (accBank k r.tmpl).1 s).bands with
  | none => exact ⟨_, rfl, fun j => acc_setRun ..⟩
  | some d =>
    obtain rfl : collides = true := refused.resolve_right (by simp [band])
    simp only [if_true]
    by_cases kind : tDfmt r.tmpl ≠ if d.int then 9 else 0
    · rw [if_pos kind]
      exact ⟨_, rfl, fun j => acc_setRun ..⟩
    · rw [if_neg kind]
      refine ⟨_, rfl, fun j => (acc_setRun ..).trans ?_⟩
      split <;> rfl

end Pass

/-- Settles O53: the cases of an element's delivery, and each event by the lemma that says what it does where its
condition holds. -/
theorem copyEvents : Obligations.CopyEvents := by
  refine ⟨fun k n r s => ⟨rfl, fun e s1 => deliverElems_of_read_error, fun v sat s1 read stored =>
      ⟨fun s2 => deliverElems_of_write read stored, fun e s2 => deliverElems_of_write_error read stored⟩,
    fun v sat s1 read added => ⟨fun o => deliverElems_of_gather read added,
      fun e => deliverElems_of_gather_error read added, fun t clean => CRun.after_of_no_upsets clean t r⟩⟩,
    fun k ch collides s => ⟨fun p l free next idle => ?_, fun r running going here left => ?_,
      fun r running ended fill => ?_, fun r f h running ended fill bound stands => ?_, fun r running due => ⟨?_, ?_⟩⟩⟩
  · obtain ⟨t, r, start, starts⟩ := exec_copyStart free next idle
    exact ⟨_, r, start, run_setRun .., starts.copy, starts.pos, starts.unharmed, starts.deliv⟩
  · obtain ⟨one, most⟩ := runLength_bounds left
    exact ⟨_, one, most, exec_copyElementDelivery running going here left⟩
  · obtain ⟨run, done⟩ := finishCopy_chan k ch r s
    exact ⟨_, exec_copyComplete running ended fill, run, done, finishCopy_evt k ch r s⟩
  · obtain ⟨done, ⟨g, entry, filled, serial⟩, seen⟩ := filledState_fillDone bound k ch r
    exact ⟨_, g, exec_streamFillComplete bound running ended fill stands, done, entry, filled, serial, seen⟩
  · intro d band kind
    refine ⟨_, exec_addOnWritePass running due band kind, fun o _ => ?_⟩
    rw [acc_setRun, coreAt_modCore]
    exact look_foldl_accAddOne ..
  · exact exec_addOnWritePass_refused running due

end Sys2Proof.Machine

namespace Sys2Proof.Machine

/-! ## Lanes of a vector (R9) -/

theorem laneOf_eq (v : VWord) (w k : Nat) : laneOf v w k = v.toNat / 2 ^ (8 * w * k) % 2 ^ (8 * w) := by
  rw [laneOf, BitVec.toNat_ushiftRight, Nat.shiftRight_eq_div_pow]

theorem laneOf_lt (v : VWord) (w k : Nat) : laneOf v w k < 2 ^ (8 * w) := Nat.mod_lt _ (Nat.two_pow_pos _)

theorem packLanes_lt (w : Nat) (l : List Nat) : packLanes w l < 2 ^ (8 * w * l.length) := by
  induction l with
  | nil => exact Nat.two_pow_pos _
  | cons x l ih =>
    have low : x % 2 ^ (8 * w) < 2 ^ (8 * w) := Nat.mod_lt _ (Nat.two_pow_pos _)
    calc packLanes w (x :: l) < 2 ^ (8 * w) * (packLanes w l + 1) := by rw [packLanes, Nat.mul_succ]; omega
      _ ≤ 2 ^ (8 * w) * 2 ^ (8 * w * l.length) := Nat.mul_le_mul_left _ ih
      _ = 2 ^ (8 * w * (x :: l).length) := by rw [← Nat.pow_add, List.length_cons, Nat.mul_succ, Nat.add_comm]

/-- Lanes that fit in a bit vector are its value. -/
theorem toNat_ofNat_packLanes {w n : Nat} {l : List Nat} (fits : 8 * w * l.length ≤ n) :
    (BitVec.ofNat n (packLanes w l)).toNat = packLanes w l := by
  have inside := (packLanes_lt w l).trans_le (Nat.pow_le_pow_right Nat.two_pos fits)
  rw [BitVec.toNat_ofNat, Nat.mod_eq_of_lt inside]

/-- Lane `k` of packed lanes is the list's element `k`, or zero past its end. -/
theorem packLanes_div_mod (w : Nat) (l : List Nat) (k : Nat) :
    packLanes w l / 2 ^ (8 * w * k) % 2 ^ (8 * w) = l.getD k 0 % 2 ^ (8 * w) := by
  induction l generalizing k with
  | nil => simp [packLanes]
  | cons x l ih =>
    cases k with
    | zero => simp [packLanes]
    | succ k =>
      have below : x % 2 ^ (8 * w) / 2 ^ (8 * w) = 0 := Nat.div_eq_of_lt (Nat.mod_lt _ (Nat.two_pow_pos _))
      rw [packLanes, Nat.mul_succ, Nat.add_comm (8 * w * k), Nat.pow_add, ← Nat.div_div_eq_div_mul,
        Nat.add_mul_div_left _ _ (Nat.two_pow_pos _), below, Nat.zero_add, ih, List.getD_cons_succ]

/-- A vector made of lanes that fit in it has them as its lanes, and zeros above. -/
theorem laneOf_ofLanes {w : Nat} {l : List Nat} (fits : w * l.length ≤ 256) (k : Nat) :
    laneOf (ofLanes w l) w k = l.getD k 0 % 2 ^ (8 * w) := by
  rw [laneOf_eq, ofLanes, toNat_ofNat_packLanes (by rw [Nat.mul_assoc]; omega), packLanes_div_mod]

/-- The lanes that a vector has of a width, computed from their index. -/
theorem laneOf_ofLanes_map_range {w n : Nat} (fits : w * n ≤ 256) (f : Nat → Nat) {k : Nat} (h : k < n) :
    laneOf (ofLanes w ((List.range n).map f)) w k = f k % 2 ^ (8 * w) := by
  rw [laneOf_ofLanes (by simpa using fits)]
  simp [h]

/-! ## Signed lanes -/

/-- The low bits of an integer, with the modulus a natural number. -/
theorem bitsOf_eq_emod (n : Nat) (v : Int) : bitsOf n v = (v % (2 ^ n : Nat)).toNat := by
  rw [bitsOf, Nat.cast_pow, Nat.cast_ofNat]

/-- The low bits of what lies above the low `n` bits, with the modulus a natural number. -/
theorem bitsOf_div_two_pow (n : Nat) (v : Int) : bitsOf n (v / 2 ^ n) = (v / (2 ^ n : Nat) % (2 ^ n : Nat)).toNat := by
  rw [bitsOf, Nat.cast_pow, Nat.cast_ofNat]

theorem bitsOf_eq_toNat_ofInt (n : Nat) (v : Int) : bitsOf n v = (BitVec.ofInt n v).toNat := by
  rw [bitsOf_eq_emod, BitVec.toNat_ofInt]

theorem bitsOf_lt (n : Nat) (v : Int) : bitsOf n v < 2 ^ n := by
  rw [bitsOf_eq_toNat_ofInt]
  exact BitVec.isLt _

/-- An integer that `n` bits can hold is the signed value of its low `n` bits. -/
theorem signed_bitsOf {n : Nat} {v : Int} (pos : 0 < n) (low : -2 ^ (n - 1) ≤ v) (high : v < 2 ^ (n - 1)) :
    signed n (bitsOf n v) = v := by
  obtain ⟨n, rfl⟩ := Nat.exists_eq_succ_of_ne_zero pos.ne'
  rw [Nat.succ_sub_one] at low high
  rw [bitsOf_eq_toNat_ofInt, signed_toNat, BitVec.toInt_ofInt]
  apply Int.bmod_eq_of_le <;> (push_cast; rw [pow_succ]; omega)

/-- The range of `n` signed bits. -/
theorem signed_bounds {n x : Nat} (pos : 0 < n) (h : x < 2 ^ n) :
    -2 ^ (n - 1) ≤ signed n x ∧ signed n x < 2 ^ (n - 1) := by
  obtain ⟨n, rfl⟩ := Nat.exists_eq_succ_of_ne_zero pos.ne'
  have word : x = (BitVec.ofNat (n + 1) x).toNat := by rw [BitVec.toNat_ofNat, Nat.mod_eq_of_lt h]
  rw [word, signed_toNat]
  exact ⟨BitVec.le_toInt _, BitVec.toInt_lt⟩

/-- Sign extension keeps the value. -/
theorem signed_bitsOf_signed {n m x : Nat} (pos : 0 < n) (wider : n ≤ m) (h : x < 2 ^ n) :
    signed m (bitsOf m (signed n x)) = signed n x := by
  obtain ⟨low, high⟩ := signed_bounds pos h
  have grows : (2 : Int) ^ (n - 1) ≤ 2 ^ (m - 1) := pow_le_pow_right₀ (by decide) (by omega)
  exact signed_bitsOf (pos.trans_le wider) (by omega) (by omega)

/-- Limiting to `n` signed bits: the nearest value in their range, with SATC alone where that is another one. -/
theorem limit_spec {n : Nat} (pos : 0 < n) (v : Int) :
    signed n (limit n v).1 = max (-2 ^ (n - 1)) (min (2 ^ (n - 1) - 1) v) ∧ (limit n v).1 < 2 ^ n ∧
      (limit n v).2 &&& ~~~fSATC = 0 ∧ ((limit n v).2 = 0 ↔ -2 ^ (n - 1) ≤ v ∧ v < 2 ^ (n - 1)) := by
  have half : (0 : Int) < 2 ^ (n - 1) := by positivity
  have mask : fSATC &&& ~~~fSATC = 0 := by decide
  have raised : fSATC ≠ 0 := by decide
  rw [limit]
  split_ifs with low high
  · rw [signed_bitsOf pos le_rfl (by omega)]
    exact ⟨by omega, bitsOf_lt .., mask, by simp only [raised, false_iff]; omega⟩
  · rw [signed_bitsOf pos (by omega) (by omega)]
    exact ⟨by omega, bitsOf_lt .., mask, by simp only [raised, false_iff]; omega⟩
  · rw [signed_bitsOf pos (by omega) (by omega)]
    exact ⟨by omega, bitsOf_lt .., BitVec.zero_and, by simp only [true_iff]; omega⟩

/-! ## The flags of all lanes -/

theorem foldl_or_and_eq_zero {α : Type} (l : List (α × Flags)) (m f : Flags) :
    l.foldl (fun f x => f ||| x.2) f &&& m = 0 ↔ f &&& m = 0 ∧ ∀ x ∈ l, x.2 &&& m = 0 := by
  induction l generalizing f with
  | nil => simp
  | cons x l ih =>
    have apart : (f ||| x.2) &&& m = 0 ↔ f &&& m = 0 ∧ x.2 &&& m = 0 := by
      rw [BitVec.and_or_distrib_right]
      exact BitVec.or_eq_zero_iff
    rw [List.foldl_cons, ih, apart, List.forall_mem_cons, and_assoc]

/-- The flags of all lanes have none of a mask where no lane has. -/
theorem flagsOf_and_eq_zero {α : Type} (l : List (α × Flags)) (m : Flags) :
    flagsOf l &&& m = 0 ↔ ∀ x ∈ l, x.2 &&& m = 0 := by
  rw [flagsOf, foldl_or_and_eq_zero]
  exact and_iff_right BitVec.zero_and

theorem flagsOf_eq_zero {α : Type} (l : List (α × Flags)) : flagsOf l = 0 ↔ ∀ x ∈ l, x.2 = 0 := by
  have all := flagsOf_and_eq_zero l (BitVec.allOnes _)
  simpa only [BitVec.and_allOnes] using all

/-! ## Lane-wise integer operations (R213) -/

section
variable {i : Instr} {g : BitVec 3} {d a b : BitVec 6} {w : BitVec 2} {op : Nat → Nat → Nat → Nat}

theorem vint_of_guard {x y : VWord} {e : Nat} {s t u r : State} (wf : wellFormed i = true)
    (guard : guardTrue g s = true) (left : srcOf a s = some (x, t)) (right : srcOf b t = some (y, u))
    (dest : destOf d u = some (e, r)) : vint i g d a b w op s = .next (putV e (ofLanes (widthOf w) ((List.range (256 / widthOf w)).map fun k =>
      op (8 * widthOf w) (laneOf x (widthOf w) k) (laneOf y (widthOf w) k))) 2 r) := by
  rw [vint, slot_of_guard wf guard, withVec_of_srcOf left, withVec_of_srcOf right, withDest_of_destOf dest, Res.take,
    lanes, lanes, List.zipWith_map, List.zipWith_self]

/-- An operation that agrees with `f` on lanes of the slot's width gives each lane what `f` gives. -/
theorem lanes_of_vint {f : Nat → Nat → Nat} {x y : VWord} {e : Nat} {s t u r : State}
    (runs : exec i s = vint i g d a b w op s) (wf : wellFormed i = true) (guard : guardTrue g s = true)
    (left : srcOf a s = some (x, t)) (right : srcOf b t = some (y, u)) (dest : destOf d u = some (e, r))
    (agree : ∀ p q, q < 2 ^ (8 * widthOf w) → op (8 * widthOf w) p q = f p q) :
    ∃ v : VWord, exec i s = .next (putV e v 2 r) ∧ ∀ k, k < 256 / widthOf w →
      laneOf v (widthOf w) k = f (laneOf x (widthOf w) k) (laneOf y (widthOf w) k) % 2 ^ (8 * widthOf w) := by
  refine ⟨_, runs.trans (vint_of_guard wf guard left right dest), fun k inside => ?_⟩
  rw [laneOf_ofLanes_map_range (Nat.mul_div_le ..) _ inside, agree _ _ (laneOf_lt ..)]

theorem vint_of_not_guard {s : State} (wf : wellFormed i = true) (guard : guardTrue g s = false) :
    vint i g d a b w op s = .next s := by
  rw [vint, slot_of_not_guard wf guard]

end

/-! Each integer operation is its slot's function of two lanes (Table 11.3). -/

section
variable {g : BitVec 3} {d a b : BitVec 6} {w : BitVec 2} {s : State}

theorem exec_viadd : exec (.viadd g d a b w) s =
    vint (.viadd g d a b w) g d a b w (fun _ p q => p + q) s := by
  rw [exec, execViadd]

theorem exec_visub : exec (.visub g d a b w) s =
    vint (.visub g d a b w) g d a b w (fun n p q => p + 2 ^ n - q) s := by
  rw [exec, execVisub]

theorem exec_vimul : exec (.vimul g d a b w) s =
    vint (.vimul g d a b w) g d a b w (fun _ p q => p * q) s := by
  rw [exec, execVimul]

theorem exec_vimulh : exec (.vimulh g d a b w) s =
    vint (.vimulh g d a b w) g d a b w (fun n p q => bitsOf n (signed n p * signed n q / 2 ^ n)) s := by
  rw [exec, execVimulh]

theorem exec_vand : exec (.vand g d a b w) s =
    vint (.vand g d a b w) g d a b w (fun _ p q => p &&& q) s := by
  rw [exec, execVand]
  rfl

theorem exec_vor : exec (.vor g d a b w) s =
    vint (.vor g d a b w) g d a b w (fun _ p q => p ||| q) s := by
  rw [exec, execVor]
  rfl

theorem exec_vxor : exec (.vxor g d a b w) s =
    vint (.vxor g d a b w) g d a b w (fun _ p q => p ^^^ q) s := by
  rw [exec, execVxor]
  rfl

theorem exec_vandn : exec (.vandn g d a b w) s =
    vint (.vandn g d a b w) g d a b w (fun n p q => p &&& (2 ^ n - 1 - q)) s := by
  rw [exec, execVandn]
  rfl

theorem exec_vshl : exec (.vshl g d a b w) s =
    vint (.vshl g d a b w) g d a b w (fun n p q => p * 2 ^ (q % n)) s := by
  rw [exec, execVshl]

theorem exec_vshr : exec (.vshr g d a b w) s =
    vint (.vshr g d a b w) g d a b w (fun n p q => p / 2 ^ (q % n)) s := by
  rw [exec, execVshr]

theorem exec_vsra : exec (.vsra g d a b w) s =
    vint (.vsra g d a b w) g d a b w (fun n p q => bitsOf n (signed n p / 2 ^ (q % n))) s := by
  rw [exec, execVsra]

theorem exec_vrot : exec (.vrot g d a b w) s =
    vint (.vrot g d a b w) g d a b w (fun n p q => p * 2 ^ (q % n) + p / 2 ^ (n - q % n)) s := by
  rw [exec, execVrot]

theorem exec_vimin : exec (.vimin g d a b w) s =
    vint (.vimin g d a b w) g d a b w (fun n p q => if signed n p ≤ signed n q then p else q) s := by
  rw [exec, execVimin]

theorem exec_vimax : exec (.vimax g d a b w) s =
    vint (.vimax g d a b w) g d a b w (fun n p q => if signed n p ≤ signed n q then q else p) s := by
  rw [exec, execVimax]

theorem exec_viminu : exec (.viminu g d a b w) s =
    vint (.viminu g d a b w) g d a b w (fun _ p q => min p q) s := by
  rw [exec, execViminu]

theorem exec_vimaxu : exec (.vimaxu g d a b w) s =
    vint (.vimaxu g d a b w) g d a b w (fun _ p q => max p q) s := by
  rw [exec, execVimaxu]

end

/-! ## VPACK and VUNPACK (R221) -/

/-- A legal width of VPACK and VUNPACK has half-width lanes of at least a byte. -/
theorem half_widthOf {w : BitVec 2} (legal : w ≠ 0) : 0 < widthOf w ∧ 8 * (widthOf w / 2) = 4 * widthOf w := by
  revert w
  decide

section
variable {g : BitVec 3} {d a : BitVec 6} {w : BitVec 2} {x : VWord} {e : Nat} {s t r : State}
  (guard : guardTrue g s = true) (src : srcOf a s = some (x, t)) (dest : destOf d t = some (e, r)) (legal : w ≠ 0)
include guard src dest legal

theorem exec_vpack : exec (.vpack g d a w) s = .next (putLanes e (widthOf w / 2) 4
    ((List.range (256 / widthOf w)).map fun k =>
      limit (4 * widthOf w) (signed (8 * widthOf w) (laneOf x (widthOf w) k))) r) := by
  have wf : wellFormed (.vpack g d a w) = true := decide_eq_true legal
  rw [exec, execVpack, slot_of_guard wf guard, withVec_of_srcOf src, withDest_of_destOf dest, Res.take, lanes,
    List.map_map]
  rfl

theorem exec_vunpack (sx hi : BitVec 1) : exec (.vunpack g d a sx hi w) s = .next (putV e (ofLanes (widthOf w)
    ((List.range (256 / widthOf w)).map fun k =>
      let y := laneOf x (widthOf w / 2) (if hi = 1 then 256 / widthOf w + k else k)
      if sx = 1 then bitsOf (8 * widthOf w) (signed (4 * widthOf w) y) else y)) 4 r) := by
  have wf : wellFormed (.vunpack g d a sx hi w) = true := decide_eq_true legal
  rw [exec, execVunpack, slot_of_guard wf guard, withVec_of_srcOf src, withDest_of_destOf dest, Res.take]

/-- VPACK limits each lane to half its width, with SATC where that changes one, and leaves the higher half zero. -/
theorem exec_vpack_lanes :
    let n := widthOf w
    let m := 256 / n
    let h : Int := 2 ^ (4 * n - 1)
    ∃ (v : VWord) (f : Flags), exec (.vpack g d a w) s = .next (putV e v 4 (raise f r)) ∧
      (∀ k, k < m → signed (4 * n) (laneOf v (n / 2) k) = max (-h) (min (h - 1) (signed (8 * n) (laneOf x n k)))) ∧
      (∀ k, m ≤ k → k < 2 * m → laneOf v (n / 2) k = 0) ∧ f &&& ~~~fSATC = 0 ∧
      (f = 0 ↔ ∀ k, k < m → -h ≤ signed (8 * n) (laneOf x n k) ∧ signed (8 * n) (laneOf x n k) < h) := by
  obtain ⟨pos, half⟩ := half_widthOf legal
  have limited := limit_spec (show 0 < 4 * widthOf w by omega)
  have fits : widthOf w / 2 * (256 / widthOf w) ≤ 256 :=
    (Nat.mul_le_mul_right _ (Nat.div_le_self ..)).trans (Nat.mul_div_le ..)
  refine ⟨_, _, exec_vpack guard src dest legal, fun k inside => ?_, fun k beyond _ => ?_, ?_, ?_⟩
  · obtain ⟨value, small, -, -⟩ := limited (signed (8 * widthOf w) (laneOf x (widthOf w) k))
    rw [List.map_map, laneOf_ofLanes_map_range fits _ inside, half, Function.comp_apply, Nat.mod_eq_of_lt small, value]
  · rw [laneOf_ofLanes (by simpa using fits), List.getD_eq_default _ _ (by simpa using beyond), Nat.zero_mod]
  · rw [flagsOf_and_eq_zero, List.forall_mem_map]
    intro k _
    obtain ⟨-, -, only, -⟩ := limited (signed (8 * widthOf w) (laneOf x (widthOf w) k))
    exact only
  · rw [flagsOf_eq_zero, List.forall_mem_map]
    refine forall_congr' fun k => imp_congr List.mem_range ?_
    obtain ⟨-, -, -, clear⟩ := limited (signed (8 * widthOf w) (laneOf x (widthOf w) k))
    exact clear

/-- VUNPACK widens the lanes of the lower or the higher half by zeros or by their sign. -/
theorem exec_vunpack_lanes (sx hi : BitVec 1) :
    let n := widthOf w
    let m := 256 / n
    ∃ v : VWord, exec (.vunpack g d a sx hi w) s = .next (putV e v 4 r) ∧ ∀ k, k < m →
      let y := laneOf x (n / 2) (if hi = 1 then m + k else k)
      (sx = 0 → laneOf v n k = y) ∧ (sx = 1 → signed (8 * n) (laneOf v n k) = signed (4 * n) y) := by
  obtain ⟨pos, half⟩ := half_widthOf legal
  refine ⟨_, exec_vunpack guard src dest legal sx hi, fun k inside => ?_⟩
  have small := half ▸ laneOf_lt x (widthOf w / 2) (if hi = 1 then 256 / widthOf w + k else k)
  rw [laneOf_ofLanes_map_range (Nat.mul_div_le ..) _ inside]
  refine ⟨fun zeros => ?_, fun sign => ?_⟩
  · rw [zeros, if_neg (by decide), Nat.mod_eq_of_lt (small.trans_le (Nat.pow_le_pow_right (by decide) (by omega)))]
  · rw [if_pos sign, Nat.mod_eq_of_lt (bitsOf_lt ..), signed_bitsOf_signed (by omega) (by omega) small]

end

/-- Settles O35: an integer operation gives each lane the function its slot is run with, which is its entry in Table
11.3 on lanes; VPACK and VUNPACK by the lemmas about their lanes. -/
theorem integerLanes : Obligations.IntegerLanes := by
  refine ⟨fun g d a b w x y e s t u r guard left right dest => ?_, fun g d a w sx hi x e s t r guard src dest legal =>
    ⟨exec_vpack_lanes guard src dest legal, exec_vunpack_lanes guard src dest legal sx hi⟩⟩
  intro n m sg gives off
  have noEffect : ∀ {i op}, (∀ {z}, exec i z = vint i g d a b w op z) → wellFormed i = true → off i :=
    fun runs wf z out => runs.trans (vint_of_not_guard wf out)
  have agreeing : ∀ {i op f}, (∀ {z}, exec i z = vint i g d a b w op z) → wellFormed i = true →
      (∀ p q, q < m → op (8 * n) p q = f p q) → gives i f :=
    fun runs wf agree => lanes_of_vint runs wf guard left right dest agree
  have same : ∀ {i op}, (∀ {z}, exec i z = vint i g d a b w op z) → wellFormed i = true → gives i (op (8 * n)) :=
    fun runs wf => agreeing runs wf fun _ _ _ => rfl
  refine ⟨⟨noEffect exec_viadd rfl, noEffect exec_visub rfl, noEffect exec_vimul rfl, noEffect exec_vimulh rfl,
    noEffect exec_vand rfl, noEffect exec_vor rfl, noEffect exec_vxor rfl, noEffect exec_vandn rfl,
    noEffect exec_vshl rfl, noEffect exec_vshr rfl, noEffect exec_vsra rfl, noEffect exec_vrot rfl,
    noEffect exec_vimin rfl, noEffect exec_vimax rfl, noEffect exec_viminu rfl, noEffect exec_vimaxu rfl⟩,
    same exec_viadd rfl, agreeing exec_visub rfl fun p q below => Nat.add_sub_assoc below.le p, same exec_vimul rfl,
    agreeing exec_vimulh rfl fun _ _ _ => bitsOf_div_two_pow ..,
    same exec_vand rfl, same exec_vor rfl, same exec_vxor rfl, same exec_vandn rfl,
    same exec_vshl rfl, same exec_vshr rfl, agreeing exec_vsra rfl fun _ _ _ => bitsOf_eq_emod .., same exec_vrot rfl,
    same exec_vimin rfl, same exec_vimax rfl, same exec_viminu rfl, same exec_vimaxu rfl⟩

end Sys2Proof.Machine

namespace Sys2Proof.Machine

/-! ## TRAP and BRKPT (R275) -/

section TrapSlots
variable {g : BitVec 3} {c : BitVec 12} {s : State}

/-- TRAP lets its bundle end: the trap is the bundle's control effect. -/
theorem exec_trap_of_guard (guard : guardTrue g s = true) : exec (.trap g c) s = .next (setCtl (.trap c) s) := by
  rw [exec, execTrap, plain_of_guard rfl guard]

theorem exec_trap_of_not_guard (off : guardTrue g s = false) : exec (.trap g c) s = .next s := by
  rw [exec, execTrap, plain, slot_of_not_guard rfl off]

/-- BRKPT takes its trap in its own slot. -/
theorem exec_brkpt_of_guard (guard : guardTrue g s = true) :
    exec (.brkpt g c) s = .next (takeTrap 0x1C (c.setWidth 64) s) := by
  rw [exec, execBrkpt, slot_of_guard rfl guard, Res.take]

theorem exec_brkpt_of_not_guard (off : guardTrue g s = false) : exec (.brkpt g c) s = .next s := by
  rw [exec, execBrkpt, slot_of_not_guard rfl off]

end TrapSlots

/-- With no matrix call in progress, the trap of a committed TRAP is taken at once, at the sequencer's new address. -/
theorem afterCommit_trap_of_idle {q : Nat} {s : State} (c : BitVec 12) (idle : matrixBusy q s = false) :
    afterCommit q (.trap c) s = trapEntry q 0x1D (c.setWidth 64) (seqAt q s).pc s := by
  simp only [afterCommit, idle, Bool.false_eq_true, if_false]

/-- TRAP's control effect goes on to the next bundle. -/
theorem applyCtl_trap_pc (c : BitVec 12) (x : Seq) : (applyCtl (.trap c) x).pc = x.bun.next := rfl

/-- Settles O8: the slots by what they do under either guard, the commit by the trap taken after it and by the address
that it goes on to. -/
theorem trapAndBreakpoint : Obligations.TrapAndBreakpoint :=
  ⟨fun _ _ _ guard => ⟨exec_trap_of_guard guard, exec_brkpt_of_guard guard⟩,
    fun _ _ _ off => ⟨exec_trap_of_not_guard off, exec_brkpt_of_not_guard off⟩,
    fun _ c _ idle => afterCommit_trap_of_idle c idle, applyCtl_trap_pc⟩

end Sys2Proof.Machine
